-- ==== Sys2Proof/Word.lean ====
section
/-! DEFINITION. The word types of the machine and their plainest arithmetic (spec/00_scope.md R5 to R7). -/

namespace Sys2Proof

/-- A 64-bit register value. -/
abbrev Word := BitVec 64

/-- One byte. -/
abbrev Byte := BitVec 8

/-- The number of a scalar or floating-point register (R79: every value of a 5-bit field is legal). -/
abbrev SReg := BitVec 5

/-- The 6-bit number of a vector register field (R81). -/
abbrev VReg := BitVec 6

/-- 2 to the k. -/
def pow2 (k : Nat) : Nat := Nat.pow 2 k

/-- The unsigned 64-bit word of a natural number, modulo 2^64. -/
def wordOf (n : Nat) : Word := BitVec.ofNat 64 n

/-- The 64-bit word of an integer, modulo 2^64. -/
def wordOfInt (i : Int) : Word := BitVec.ofInt 64 i

/-- All 64 bits set. -/
def allOnes64 : Word := BitVec.allOnes 64

end Sys2Proof
end

