-- ==== Sys2Proof/Machine/BitOps.lean ====
section
/-! DEFINITION. Bit counting, reversal and extension, on words and on w-bit patterns. -/

namespace Sys2Proof.Machine

/-- Leading zero bits of a `w`-bit pattern; `w` for 0. -/
def clzNat (w x : Nat) : Nat := if x = 0 then w else w - 1 - Nat.log2 x

/-- Trailing zero bits among the `fuel` bits left; `fuel` for 0. -/
def ctzNat : Nat → Nat → Nat
  | 0, _ => 0
  | fuel + 1, x => if x % 2 = 1 then 0 else 1 + ctzNat fuel (x / 2)

/-- 1 bits among the low `w` bits. -/
def popNat : Nat → Nat → Nat
  | 0, _ => 0
  | w + 1, x => x % 2 + popNat w (x / 2)

/-- Bit i moved to bit 63 − i (R103). -/
def bitReverse (a : Word) : Word :=
  wordOf ((List.range 64).foldl (fun acc i => 2 * acc + (if a.getLsbD i then 1 else 0)) 0)

/-- Byte i moved to byte 7 − i (R103). -/
def byteReverse (a : Word) : Word :=
  wordOf ((List.range 8).foldl (fun acc i => 256 * acc + a.toNat / pow2 (8 * i) % 256) 0)

/-- `sx(x, w)` of a w-bit number as a 64-bit word (R99). -/
def sxWord (x w : Nat) : Word :=
  let u := x % pow2 w
  if u < pow2 (w - 1) then wordOf u else wordOf (u + (pow2 64 - pow2 w))

/-- The parcel offset of a branch field: 4·sx(off). -/
def branchOff (off : BitVec 16) : Word := (off.signExtend 64) <<< 2

def jumpOff (off : BitVec 26) : Word := (off.signExtend 64) <<< 2

end Sys2Proof.Machine
end

