-- ==== Sys2Proof/Syntax/Kinds.lean ====
section
/-! DEFINITION. The named alternatives that instruction fields select (element types, rounding modes, scopes and the
like, each with the code the spec gives it), the operand records of the 64-bit formats, and what event rows carry. -/

namespace Sys2Proof

/-- The element types (spec/02_number_formats.md R46). -/
inductive Ty where
  | si8 | si16 | si32 | si64 | ui8 | ui16 | ui32 | ui64
  | fp64 | fp32 | fp16 | bf16 | e4m3 | e5m2 | e2m1 | lg6
  | si4 | ui4 | pny | mxe4m3 | mxe5m2 | mxe2m1 | mxi8 | sfp4
  deriving DecidableEq, Repr

/-- The 5-bit code of a type (R46). -/
def tyCode : Ty → Nat
  | .si8 => 0x00 | .si16 => 0x01 | .si32 => 0x02 | .si64 => 0x03
  | .ui8 => 0x04 | .ui16 => 0x05 | .ui32 => 0x06 | .ui64 => 0x07
  | .fp64 => 0x08 | .fp32 => 0x09 | .fp16 => 0x0A | .bf16 => 0x0B
  | .e4m3 => 0x0C | .e5m2 => 0x0D | .e2m1 => 0x0E | .lg6 => 0x0F
  | .si4 => 0x10 | .ui4 => 0x11 | .pny => 0x12 | .mxe4m3 => 0x13
  | .mxe5m2 => 0x14 | .mxe2m1 => 0x15 | .mxi8 => 0x16 | .sfp4 => 0x17

/-- The type a code names; 0x18 and above name none (R46). -/
def tyOfCode : Nat → Option Ty
  | 0x00 => some .si8 | 0x01 => some .si16 | 0x02 => some .si32 | 0x03 => some .si64
  | 0x04 => some .ui8 | 0x05 => some .ui16 | 0x06 => some .ui32 | 0x07 => some .ui64
  | 0x08 => some .fp64 | 0x09 => some .fp32 | 0x0A => some .fp16 | 0x0B => some .bf16
  | 0x0C => some .e4m3 | 0x0D => some .e5m2 | 0x0E => some .e2m1 | 0x0F => some .lg6
  | 0x10 => some .si4 | 0x11 => some .ui4 | 0x12 => some .pny | 0x13 => some .mxe4m3
  | 0x14 => some .mxe5m2 | 0x15 => some .mxe2m1 | 0x16 => some .mxi8 | 0x17 => some .sfp4
  | _ => none

/-- The rounding modes of `fmode`.RM and of the static field RMS (R35, R82). -/
inductive RMode where
  | rne | rtz | rdn | rup | rmm | sr
  deriving DecidableEq, Repr

/-- The RMS code of a static mode, 0 for the dynamic one (R82). -/
def rmsCode : Option RMode → Nat
  | none => 0 | some .rne => 1 | some .rtz => 2 | some .rdn => 3
  | some .rup => 4 | some .rmm => 5 | some .sr => 6

/-- What an RMS code selects; 7 to 15 are illegal (R82). -/
def rmsOfCode : Nat → Option (Option RMode)
  | 0 => some none | 1 => some (some .rne) | 2 => some (some .rtz) | 3 => some (some .rdn)
  | 4 => some (some .rup) | 5 => some (some .rmm) | 6 => some (some .sr) | _ => none

/-- The four scalar floating-point formats of the FMT field (R115). -/
inductive FFmt where
  | fp64 | fp32 | fp16 | bf16
  deriving DecidableEq, Repr

def ffmtCode : FFmt → Nat
  | .fp64 => 0 | .fp32 => 1 | .fp16 => 2 | .bf16 => 3

def ffmtOfCode : Nat → FFmt
  | 0 => .fp64 | 1 => .fp32 | 2 => .fp16 | _ => .bf16

def ffmtTy : FFmt → Ty
  | .fp64 => .fp64 | .fp32 => .fp32 | .fp16 => .fp16 | .bf16 => .bf16

/-- The conversion types of `fcvt`'s 3-bit indices (R118). -/
inductive CvtTy where
  | fp64 | fp32 | fp16 | bf16 | si32 | si64 | ui32 | ui64
  deriving DecidableEq, Repr

def cvtCode : CvtTy → Nat
  | .fp64 => 0 | .fp32 => 1 | .fp16 => 2 | .bf16 => 3
  | .si32 => 4 | .si64 => 5 | .ui32 => 6 | .ui64 => 7

def cvtOfCode : Nat → CvtTy
  | 0 => .fp64 | 1 => .fp32 | 2 => .fp16 | 3 => .bf16
  | 4 => .si32 | 5 => .si64 | 6 => .ui32 | _ => .ui64

def cvtTy : CvtTy → Ty
  | .fp64 => .fp64 | .fp32 => .fp32 | .fp16 => .fp16 | .bf16 => .bf16
  | .si32 => .si32 | .si64 => .si64 | .ui32 => .ui32 | .ui64 => .ui64

def cvtIsInt : CvtTy → Bool
  | .si32 | .si64 | .ui32 | .ui64 => true
  | _ => false

/-- The scopes an instruction may name (R1, R125). -/
inductive Scope where
  | core | quad | die | pkg | pod
  deriving DecidableEq, Repr

def scopeCode : Scope → Nat
  | .core => 0 | .quad => 1 | .die => 2 | .pkg => 3 | .pod => 4

def scopeOfCode : Nat → Option Scope
  | 0 => some .core | 1 => some .quad | 2 => some .die | 3 => some .pkg | 4 => some .pod | _ => none

/-- The ordering field of an atomic (R125). -/
inductive AccOrd where
  | relaxed | acq | rel | acqrel
  deriving DecidableEq, Repr

def ordCode : AccOrd → Nat
  | .relaxed => 0 | .acq => 1 | .rel => 2 | .acqrel => 3

def ordOfCode : Nat → AccOrd
  | 0 => .relaxed | 1 => .acq | 2 => .rel | _ => .acqrel

/-- The operations of `amo` (R125, OP 0 to 8). -/
inductive AmoOp where
  | add | swap | and | or | xor | min | max | minu | maxu
  deriving DecidableEq, Repr

def amoCode : AmoOp → Nat
  | .add => 0 | .swap => 1 | .and => 2 | .or => 3 | .xor => 4
  | .min => 5 | .max => 6 | .minu => 7 | .maxu => 8

def amoOfCode : Nat → Option AmoOp
  | 0 => some .add | 1 => some .swap | 2 => some .and | 3 => some .or | 4 => some .xor
  | 5 => some .min | 6 => some .max | 7 => some .minu | 8 => some .maxu | _ => none

/-- The conditions of `vwait` (R129, R135). -/
inductive WaitCond where
  | eq | ne | geu | ltu | ge | lt
  deriving DecidableEq, Repr

def condCode : WaitCond → Nat
  | .eq => 0 | .ne => 1 | .geu => 2 | .ltu => 3 | .ge => 4 | .lt => 5

def condOfCode : Nat → Option WaitCond
  | 0 => some .eq | 1 => some .ne | 2 => some .geu | 3 => some .ltu | 4 => some .ge | 5 => some .lt
  | _ => none

/-- The comparisons of `vcmp` and `vfcmp` (R166). -/
inductive CmpOp where
  | eq | ne | lt | le | gt | ge
  deriving DecidableEq, Repr

def cmpCode : CmpOp → Nat
  | .eq => 0 | .ne => 1 | .lt => 2 | .le => 3 | .gt => 4 | .ge => 5

def cmpOfCode : Nat → Option CmpOp
  | 0 => some .eq | 1 => some .ne | 2 => some .lt | 3 => some .le | 4 => some .gt | 5 => some .ge
  | _ => none

/-- The operations of a reducing collective (R428). -/
inductive CollOp where
  | sum | max | min
  deriving DecidableEq, Repr

def collOpCode : CollOp → Nat
  | .sum => 0 | .max => 1 | .min => 2

def collOpOfCode : Nat → Option CollOp
  | 0 => some .sum | 1 => some .max | 2 => some .min | _ => none

/-- The last two thirds of a vector word: the VR or the VI form (R81). A type field that an entry requires to be zero
holds code 0, `si8`. -/
inductive VSrc where
  | vr (vb vc : VReg) (tb : Ty)
  | vi (imm : BitVec 17)
  deriving DecidableEq, Repr

/-- The operand fields of the vector formats VR and VI (R81, R149). -/
structure VOp where
  mask : BitVec 4
  rms : Option RMode
  ss : SReg
  mod1 : Bool
  mod0 : Bool
  vd : VReg
  va : VReg
  ta : Ty
  src : VSrc
  deriving DecidableEq, Repr

/-- The operand fields of the Square format SQ (R81). -/
structure SqOp where
  mask : BitVec 4
  ta : Ty
  tb : Ty
  sa : SReg
  sb : SReg
  sc : SReg
  vd : VReg
  gm1 : BitVec 5
  rms : Option RMode
  sqmod : BitVec 7
  deriving DecidableEq, Repr

/-- The operand fields of the stream format ST (R81, R230). -/
structure StOp where
  imm : BitVec 32
  slot : BitVec 4
  sa : SReg
  sb : SReg
  vd : VReg
  smod : BitVec 2
  deriving DecidableEq, Repr

/-- The operand fields of the engine format EX (R81). -/
structure ExOp where
  sc : SReg
  va : VReg
  imm : BitVec 21
  sd : SReg
  sa : SReg
  sb : SReg
  emod : BitVec 5
  deriving DecidableEq, Repr

/-- An error of an exchange packet (R299). -/
inductive PacketError where
  | none | data | header
  deriving DecidableEq, Repr

/-- One packet of the quad exchange (R288): the element offsets are (element index, Vault offset) pairs in ascending
element order; `data` holds a store's elements in the same order and is none for a load, whose values its source keeps
register `reg` for. -/
structure QuadPacket where
  srcHart : Nat
  target : Nat
  bytes : Nat
  reg : VReg
  group : Nat
  offsets : List (Nat × Nat)
  data : Option (List Nat)
  err : PacketError
  deriving DecidableEq, Repr

/-- The response to a load packet, or the acknowledgement of a store packet (R288, R299): the register and width it
fills and, for each element, its bits and its poison flag. -/
structure QuadResponse where
  hart : Nat
  reg : VReg
  ew : Nat
  elems : List (Nat × Nat × Bool)
  deriving DecidableEq, Repr

/-- How one line copy of a migration ends (R313, R314). -/
inductive CopyError where
  | none | sourceBad | writeFailed
  deriving DecidableEq, Repr

/-- The units of the error log (R319) and of sparing (R318, R321): an HBM error counts in its row or in its pseudo-channel. -/
inductive ErrUnit where
  | hbm | hbmChannel | memCache | vault | cell | coreReg | dieToDie | port | exchange | tcache
  deriving DecidableEq, Repr

/-- Whose the state is that carries no mark (R317): a hart's own (a stream slot's record, its translation pair), a core's or a
die's registers, or a task table entry. -/
inductive StateOwner where
  | hart (h : Nat)
  | core
  | die
  | task (slot : Nat)
  deriving DecidableEq, Repr

/-- A lane of a fabric port (R418). -/
structure PortLane where
  port : Nat
  lane : Nat
  deriving DecidableEq, Repr

/-- What a detected error names (R317 to R319): its unit, the affected range [base, limit), the place (`index` numbers the
unit within its kind: an HBM row or pseudo-channel of the die, a Vault line of the core, a wire of the die, a lane as
2·port + lane), and the owner of state that carries no mark. -/
structure ErrorReport where
  die : Nat
  kind : ErrUnit
  uncorrectable : Bool
  base : Nat
  limit : Nat
  core : Nat
  cluster : Nat
  row : Nat
  index : Nat
  owner : StateOwner
  deriving DecidableEq, Repr

/-- What a scrubber read finds (R317). -/
inductive ScrubResult where
  | clean | corrected | uncorrectable
  deriving DecidableEq, Repr

/-- The sparable units of R318 and R321, each by its place. -/
inductive SparableUnit where
  | core (core : Nat)
  | cluster (core cluster : Nat)
  | vaultLine (core line : Nat)
  | hbmRow (die row : Nat)
  | hbmChannel (die channel : Nat)
  | wire (die wire : Nat)
  | lane (port lane : Nat)
  deriving DecidableEq, Repr

/-- The operations of a PCIe AtomicOp (R410). -/
inductive HostAtomic where
  | fetchAdd | swap | cas
  deriving DecidableEq, Repr

/-- How the safe tier answers one checkpoint chunk (R414): taken, delivered with its bytes and marks, or refused. -/
inductive CheckpointReply where
  | committed
  | delivered (bytes : List Byte) (marks : List Bool)
  | refused
  deriving DecidableEq, Repr

/-- What the fabric manager assigns (R419, R432). -/
inductive FabricAssign where
  | pkgid (id : BitVec 12)
  | bhome (id : BitVec 12)
  deriving DecidableEq, Repr

/-- A peer atomic (R426): its operation, bytes, operand and, for a compare, the value to store. -/
structure PeerAtomic where
  op : HostAtomic
  width : Nat
  a : Word
  b : Word
  deriving DecidableEq, Repr

/-- The content of a frame after expansion (R422, R423); a read request has as many bytes as it asks for, and a KIND 4
frame its atomic. A destination of 4096 stands for every package of the pod. -/
structure Frame where
  spkg : Nat
  dpkg : Nat
  kind : Nat
  rel : Bool
  daddr : Nat
  comm : Nat
  seq : Nat
  bytes : List Byte
  marks : List Bool
  atom : Option PeerAtomic
  deriving DecidableEq, Repr

/-- A receiver's answer to a held frame (R424, R425). -/
inductive FrameAnswer where
  | commit
  | refuse (code : Nat)
  | retry
  deriving DecidableEq, Repr

/-- What one peer rank brings to a collective (R429, R430): its parameters, its destination address, its source bytes, which of
its source lines are poisoned, and a refusal code when it refused. -/
structure PeerPart where
  rank : Nat
  kind : Nat
  op : Nat
  ty : Nat
  count : Nat
  root : Nat
  dst : Nat
  bytes : List Byte
  marks : List Bool
  refusal : Option Nat
  deriving DecidableEq, Repr

/-- The home's answer to a pod-barrier frame (R432): an arrival joined a phase; a withdrawal was applied, or came after
its phase had completed. -/
inductive PodReply where
  | joined (phase : Word)
  | withdrawn
  | tooLate
  deriving DecidableEq, Repr

/-- Bits that are not an instruction (R84), or a parcel that could not be fetched (R78, R305). -/
inductive BadFetch where
  | encoding (bits : Word)
  | fault (sub : Nat) (va : Word)
  | poison (line : Nat)
  deriving DecidableEq, Repr

/-- The steps of engines and of the outside world (the rows of the opcode table without an encoding): what `State.agenda`
holds. Each has the fields of the row's own instruction. -/
inductive Event where
  | deviceReset
  | powerOnBoot (signatureGood : Bool)
  | interruptTake (hart : Nat) (stop : Option Nat)
  | vaultLineWaitEnd (hart : Nat)
  | landedWaitEnd (hart : Nat)
  | rowReleaseWaitEnd (hart : Nat)
  | squareUpdateComplete (hart : Nat)
  | drainRowShift (hart : Nat)
  | streamWindowStart (hart slot : Nat)
  | streamElementPerform (hart slot : Nat)
  | streamFaultStop (hart slot : Nat)
  | boundaryCommit (hart : Nat)
  | clusterZeroDone (core cluster : Nat)
  | dispatchPlace (die : Nat)
  | dispatchOffer (die : Nat)
  | barWaitEnd (hart : Nat)
  | vwaitReread (hart : Nat)
  | pauseExpire (hart : Nat)
  | wfiWake (hart : Nat)
  | quadPacketServe (p : QuadPacket)
  | quadResponseArrive (r : QuadResponse)
  | qbctlAbort (quad : Nat) (bits : BitVec 16)
  | qbctlAbortedClear (quad : Nat) (bits : BitVec 16)
  | shootdownApply (core : Nat)
  | watchdogForce (core part : Nat)
  | migrationStart (die : Nat)
  | migrationLineCopy (die : Nat) (err : CopyError)
  | errorDetect (e : ErrorReport)
  | scrubRead (line : Nat) (found : ScrubResult)
  | spareApply (u : SparableUnit)
  | coreFailure (core : Nat)
  | plctlStart (die slot : Nat)
  | plctlStop (die slot : Nat)
  | poolCoreJoin (core : Nat)
  | balancerInterval (die slot : Nat)
  | pipelineStopComplete (die slot : Nat)
  | avenueWaitEnd (hart : Nat)
  | pldlAck (die slot : Nat) (bits : BitVec 16)
  | assayerDerivPop (die : Nat)
  | assayerRequestPush (die : Nat)
  | assayerCombination (die : Nat)
  | assayerCompletionPush (die : Nat)
  | chctlRunStart (id : Nat)
  | chctlRunStop (id : Nat)
  | cmdhartStopped (id : Nat)
  | queueEntryStart (io q : Nat)
  | copyChunk (io q chunk : Nat)
  | queueEntryComplete (io q : Nat)
  | qctlSkip (io q : Nat)
  | qctlFlush (io q : Nat)
  | extsrcAck (core part : Nat)
  | semaphoreWrite (n : Nat) (v : Word)
  | hostWrite (bar addr : Nat) (bytes : List Byte)
  | hostRead (bar addr len : Nat)
  | hostAtomicop (bar addr : Nat) (op : HostAtomic) (width : Nat) (a b : Word)
  | hostConfigWrite (aopr cxlc : Bool)
  | hostLinkDown
  | ownctlClaim (master : BitVec 2)
  | ownctlRelease (master : BitVec 2)
  | ownctlHand (master target : BitVec 2)
  | bmcMessage
  | bmcOwnerTimeout
  | devpreRequest
  | devpreResume
  | ckctlGo (restore : Bool)
  | checkpointChunk (r : CheckpointReply)
  | powerWindow (watts : Nat)
  | junctionThrottle (die : Nat)
  | junctionShutdown (die : Nat)
  | flitResend (lane : PortLane)
  | laneRetrain (port : Nat)
  | fabricIdAssign (a : FabricAssign)
  | frameReceive (f : Frame)
  | frameAnswer (index : Nat) (a : FrameAnswer)
  | fabricUnreachable (pkg : Nat)
  | collectiveComplete (comm : Nat) (peers : List PeerPart)
  | podBarrierHomeArrival (pkg hart barrier : Nat) (count : Word)
  | podBarrierHomeWithdraw (pkg hart barrier : Nat)
  | podBarrierReply (hart barrier : Nat) (r : PodReply)
  | podBarrierCompletion (barrier : Nat) (phase : Word)
  | podBarrierRetry (hart barrier : Nat)
  | registerWrite (pa : Nat) (v : Word)
  | illegalEncoding (why : BadFetch)
  | hostLinkUp (cxl : Bool)
  | portLinkTrained (port : Nat) (width : BitVec 2)
  | sparingComplete (u : SparableUnit)
  deriving DecidableEq, Repr

end Sys2Proof
end

