-- ==== Sys2Proof/Machine/Formats.lean ====
section
/-! DEFINITION. Number formats (spec/02_number_formats.md R46 to R63): the exact value of every encoding. A value is a
rational, a signed zero, an infinity or a NaN. -/

namespace Sys2Proof.Machine



/-- An exact value: a NaN (signalling or quiet), an infinity, or sign and magnitude num/den. -/
inductive Val where
  | nan (sig : Bool)
  | inf (neg : Bool)
  | fin (neg : Bool) (num den : Nat)
  deriving DecidableEq, Repr

/-- The six sticky flags in the order of R36: NX = 0, UF, OF, DZ, NV, SATF = 5. -/
abbrev Flags := BitVec 6

def fNX : Flags := 1
def fUF : Flags := 2
def fOF : Flags := 4
def fDZ : Flags := 8
def fNV : Flags := 16
def fSATF : Flags := 32

/-- How the top exponent field of a floating-point format reads (R50). -/
inductive TopKind where
  | ieee      -- infinities, quiet and signalling NaNs
  | quietOnly -- `e5m2`: infinities, every NaN quiet
  | e4m3      -- one NaN code, no infinity
  | none      -- `e2m1`: neither
  deriving DecidableEq, Repr

/-- The parameters of a binary floating-point format (R48). -/
structure Fmt where
  ebits : Nat
  mbits : Nat
  bias : Nat
  top : TopKind
  deriving DecidableEq, Repr

/-- The parameters of a floating-point type, none for the other types (R48). -/
def fmtOf : Ty → Option Fmt
  | .fp64 => some ⟨11, 52, 1023, .ieee⟩
  | .fp32 => some ⟨8, 23, 127, .ieee⟩
  | .fp16 => some ⟨5, 10, 15, .ieee⟩
  | .bf16 => some ⟨8, 7, 127, .ieee⟩
  | .e4m3 => some ⟨4, 3, 7, .e4m3⟩
  | .e5m2 => some ⟨5, 2, 15, .quietOnly⟩
  | .e2m1 => some ⟨2, 1, 1, .none⟩
  | _ => none

def isFloat (t : Ty) : Bool := (fmtOf t).isSome

/-- Bits per element in a register of the types R150 lists; 0 for the others. -/
def tyWidth : Ty → Nat
  | .si8 | .ui8 | .e4m3 | .e5m2 => 8
  | .si16 | .ui16 | .fp16 | .bf16 => 16
  | .si32 | .ui32 | .fp32 => 32
  | .si64 | .ui64 | .fp64 => 64
  | _ => 0

/-- The integer types of 8 to 64 bits (0x00 to 0x07). -/
def isInt : Ty → Bool
  | .si8 | .si16 | .si32 | .si64 | .ui8 | .ui16 | .ui32 | .ui64 => true
  | _ => false

def isSigned : Ty → Bool
  | .si8 | .si16 | .si32 | .si64 | .si4 => true
  | _ => false

/-- The types "fp" of R163. -/
def isFp4 : Ty → Bool
  | .fp64 | .fp32 | .fp16 | .bf16 => true
  | _ => false

/-- The types "move" of R159: codes 0x00 to 0x0D. -/
def isMove (t : Ty) : Bool := decide (tyCode t ≤ 0x0D)

/-- The low `w` bits of `x` read as a two's complement integer (R47, R75 `sx`). -/
def sxNat (x w : Nat) : Int :=
  let u := x % pow2 w
  if u < pow2 (w - 1) then (u : Int) else (u : Int) - (pow2 w : Int)

/-- An integer element read under its type's signedness (R47). -/
def intOf (t : Ty) (bits : Nat) : Int :=
  if isSigned t then sxNat bits (tyWidth t) else ((bits % pow2 (tyWidth t) : Nat) : Int)

/-- An integer as an exact value; zero is +0. -/
def valOfInt (i : Int) : Val := .fin (decide (i < 0)) i.natAbs 1

/-- sign, num · 2^e as a value. -/
def scaled (neg : Bool) (num : Nat) (e : Int) : Val :=
  match e with
  | .ofNat k => .fin neg (num * pow2 k) 1
  | .negSucc k => .fin neg num (pow2 (k + 1))

/-- The value of an encoding of a binary floating-point format (R48 to R50). -/
def decodeFmt (f : Fmt) (bits : Nat) : Val :=
  let m := bits % pow2 f.mbits
  let e := (bits / pow2 f.mbits) % pow2 f.ebits
  let neg := decide ((bits / pow2 (f.mbits + f.ebits)) % 2 = 1)
  let emax := pow2 f.ebits - 1
  let plain : Val :=
    if e = 0 then scaled neg m (1 - (f.bias : Int) - (f.mbits : Int))
    else scaled neg (pow2 f.mbits + m) ((e : Int) - (f.bias : Int) - (f.mbits : Int))
  match f.top with
  | .ieee =>
    if e = emax then (if m = 0 then .inf neg else .nan (decide (m < pow2 (f.mbits - 1)))) else plain
  | .quietOnly => if e = emax then (if m = 0 then .inf neg else .nan false) else plain
  | .e4m3 => if e = emax ∧ m = 7 then .nan false else plain
  | .none => plain

/-- The fractional table of LG6 (R55). -/
def lg6T : Nat → Nat
  | 0 => 65536 | 1 => 77936 | 2 => 92682 | _ => 110218

/-- The exact term of a base-2 logarithm λ/4: T[f]·2^(i−16) with λ = 4i + f (R55, R56). -/
def lg6Term (neg : Bool) (lam : Int) : Val :=
  scaled neg (lg6T (lam % 4).toNat) (lam / 4 - 16)

/-- The value of an LG6 element (R55). -/
def decodeLg6 (bits : Nat) : Val :=
  let neg := decide ((bits / 32) % 2 = 1)
  let m := bits % 32
  if m = 0 then .fin neg 0 1 else lg6Term neg ((m : Int) - 16)

/-- `lg6_mul` (R56). -/
def lg6Mul (a b : Nat) : Val :=
  let neg := xor (decide ((a / 32) % 2 = 1)) (decide ((b / 32) % 2 = 1))
  let ma := a % 32
  let mb := b % 32
  if ma = 0 ∨ mb = 0 then .fin neg 0 1 else lg6Term neg (((ma : Int) - 16) + ((mb : Int) - 16))

/-- The exponent and fraction of a penny code; codes 1 to 3 read as 1.0 (R58). -/
def pennyEF (c : Nat) : Nat × Nat :=
  let c := c % 64
  if c ≤ 3 then (0, 0) else (c / 4, c % 4)

/-- The value of a penny code (R58). -/
def decodePenny (c : Nat) : Val :=
  if c % 64 = 63 then .fin false 0 1
  else .fin false (4 + (pennyEF c).2) (4 * pow2 (pennyEF c).1)

/-- `decode(t, bits)` for the unscaled types (R75); a block-scaled type has no value of its own. -/
def decode (t : Ty) (bits : Nat) : Val :=
  match fmtOf t with
  | some f => decodeFmt f bits
  | none =>
    match t with
    | .lg6 => decodeLg6 bits
    | .pny => decodePenny bits
    | .si4 => valOfInt (sxNat bits 4)
    | .ui4 => .fin false (bits % 16) 1
    | _ => if isInt t then valOfInt (intOf t bits) else .nan false

/-- The scale of an E8M0 code, none for the NaN scale (R61). -/
def scaleE8M0 (s : Nat) : Option Val :=
  if s % 256 = 255 then none else some (scaled false 1 (((s % 256 : Nat) : Int) - 127))

/-- The scale of a UE5M3 code, none for the NaN scale (R61). -/
def scaleUE5M3 (s : Nat) : Option Val :=
  let e := (s % 256) / 8
  let m := s % 8
  if e = 31 then none
  else if e = 0 then some (scaled false m (-17))
  else some (scaled false (8 + m) ((e : Int) - 18))

/-- The block-scaled types (R62). -/
def isBlock : Ty → Bool
  | .mxe4m3 | .mxe5m2 | .mxe2m1 | .mxi8 | .sfp4 => true
  | _ => false

/-- Elements that share one scale (R62). -/
def blockLen : Ty → Nat
  | .sfp4 => 8
  | _ => 32

/-- The scale a block's scale byte names (R61, R62). -/
def blockScale (t : Ty) (s : Nat) : Option Val :=
  match t with
  | .sfp4 => scaleUE5M3 s
  | _ => scaleE8M0 s

/-- An element of a block-scaled type before its scale (R62). -/
def blockElem (t : Ty) (bits : Nat) : Val :=
  match t with
  | .mxe4m3 => decode .e4m3 bits
  | .mxe5m2 => decode .e5m2 bits
  | .mxi8 => .fin (decide (sxNat bits 8 < 0)) (sxNat bits 8).natAbs 64
  | _ => decode .e2m1 (bits % 16)

/-- A magnitude product. -/
def mulFin (v : Val) (num den : Nat) : Val :=
  match v with
  | .fin neg n d => .fin neg (n * num) (d * den)
  | w => w

/-- An element value times its block's scale, with the special scales of R62. -/
def scaleBy (v : Val) (s : Option Val) : Val :=
  match s with
  | none => .nan false
  | some (.fin _ sn sd) =>
    match v with
    | .fin neg n d => .fin neg (n * sn) (d * sd)
    | w => if sn = 0 then .nan false else w
  | some _ => .nan false

/-- The width of one packed element in the Vault or memory (R46, R185). -/
def packBits : Ty → Nat
  | .e2m1 | .si4 | .ui4 | .mxe2m1 | .sfp4 => 4
  | .lg6 => 6
  | .pny | .mxe4m3 | .mxe5m2 | .mxi8 => 8
  | t => tyWidth t

/-- Bytes of a 32-element segment (R63). -/
def segBytes : Ty → Nat
  | .mxe2m1 | .sfp4 => 24
  | _ => 40

end Sys2Proof.Machine
end

