-- ==== Sys2Proof/Syntax.lean ====
section
/-! DEFINITION. The instructions: one constructor for each row of spec/opcode_table.json. An encoded instruction carries
the fields of its format (spec/03_encoding.md R79 to R81), in the records of Syntax/Kinds.lean. An event row carries what its agent or the outside world
supplies; it has no encoding. -/

namespace Sys2Proof

/-- Every row of the opcode table. -/
inductive Instr where
  | add (rd ra rb : SReg)
  | sub (rd ra rb : SReg)
  | and (rd ra rb : SReg)
  | or (rd ra rb : SReg)
  | xor (rd ra rb : SReg)
  | sll (rd ra rb : SReg)
  | srl (rd ra rb : SReg)
  | sra (rd ra rb : SReg)
  | slt (rd ra rb : SReg)
  | sltu (rd ra rb : SReg)
  | min (rd ra rb : SReg)
  | max (rd ra rb : SReg)
  | minu (rd ra rb : SReg)
  | maxu (rd ra rb : SReg)
  | mul (rd ra rb : SReg)
  | mulh (rd ra rb : SReg)
  | mulhu (rd ra rb : SReg)
  | mulhsu (rd ra rb : SReg)
  | div (rd ra rb : SReg)
  | divu (rd ra rb : SReg)
  | rem (rd ra rb : SReg)
  | remu (rd ra rb : SReg)
  | clz (rd ra : SReg)
  | ctz (rd ra : SReg)
  | popc (rd ra : SReg)
  | brev (rd ra : SReg)
  | bswap (rd ra : SReg)
  | rotl (rd ra rb : SReg)
  | rotr (rd ra rb : SReg)
  | addx (rd ra rb : SReg) (k : BitVec 3)
  | subx (rd ra rb : SReg) (k : BitVec 3)
  | addi (rd ra : SReg) (imm : BitVec 16)
  | andi (rd ra : SReg) (imm : BitVec 16)
  | ori (rd ra : SReg) (imm : BitVec 16)
  | xori (rd ra : SReg) (imm : BitVec 16)
  | slti (rd ra : SReg) (imm : BitVec 16)
  | sltiu (rd ra : SReg) (imm : BitVec 16)
  | slli (rd ra : SReg) (sh : BitVec 6)
  | srli (rd ra : SReg) (sh : BitVec 6)
  | srai (rd ra : SReg) (sh : BitVec 6)
  | lui (rd : SReg) (imm : BitVec 16)
  | auipc (rd : SReg) (imm : BitVec 16)
  | beq (ra rb : SReg) (off : BitVec 16)
  | bne (ra rb : SReg) (off : BitVec 16)
  | blt (ra rb : SReg) (off : BitVec 16)
  | bge (ra rb : SReg) (off : BitVec 16)
  | bltu (ra rb : SReg) (off : BitVec 16)
  | bgeu (ra rb : SReg) (off : BitVec 16)
  | j (off : BitVec 26)
  | jal (off : BitVec 26)
  | jalr (rd ra : SReg) (imm : BitVec 16)
  | strip (ra : SReg) (ps : BitVec 5) (off : BitVec 16)
  | fadd (fmt : FFmt) (rms : Option RMode) (rd ra rb : SReg)
  | fsub (fmt : FFmt) (rms : Option RMode) (rd ra rb : SReg)
  | fmul (fmt : FFmt) (rms : Option RMode) (rd ra rb : SReg)
  | fdiv (fmt : FFmt) (rms : Option RMode) (rd ra rb : SReg)
  | fsqrt (fmt : FFmt) (rms : Option RMode) (rd ra : SReg)
  | fmin (fmt : FFmt) (rd ra rb : SReg)
  | fmax (fmt : FFmt) (rd ra rb : SReg)
  | fmadd (fmt : FFmt) (rms : Option RMode) (rd ra rb : SReg)
  | fnmsub (fmt : FFmt) (rms : Option RMode) (rd ra rb : SReg)
  | fcvt (dst src : CvtTy) (sat : Bool) (rms : Option RMode) (rd ra : SReg)
  | fmvFs (rd ra : SReg)
  | fmvSf (rd ra : SReg)
  | fmvFf (rd ra : SReg)
  | fsgn (fmt : FFmt) (rd ra rb : SReg)
  | fsgnN (fmt : FFmt) (rd ra rb : SReg)
  | fsgnX (fmt : FFmt) (rd ra rb : SReg)
  | feq (fmt : FFmt) (rd ra rb : SReg)
  | flt (fmt : FFmt) (rd ra rb : SReg)
  | fle (fmt : FFmt) (rd ra rb : SReg)
  | fclass (fmt : FFmt) (rd ra : SReg)
  | lb (rd ra : SReg) (off : BitVec 13)
  | lbu (rd ra : SReg) (off : BitVec 13)
  | lh (rd ra : SReg) (off : BitVec 13)
  | lhu (rd ra : SReg) (off : BitVec 13)
  | lw (rd ra : SReg) (off : BitVec 13)
  | lwu (rd ra : SReg) (off : BitVec 13)
  | ld (rd ra : SReg) (off : BitVec 13)
  | fld (rd ra : SReg) (off : BitVec 13)
  | sb (rd ra : SReg) (off : BitVec 13)
  | sh (rd ra : SReg) (off : BitVec 13)
  | sw (rd ra : SReg) (off : BitVec 13)
  | sd (rd ra : SReg) (off : BitVec 13)
  | fsd (rd ra : SReg) (off : BitVec 13)
  | amo (op : AmoOp) (wide : Bool) (ord : AccOrd) (sc : Scope) (rd ra rb : SReg)
  | cas (wide : Bool) (ord : AccOrd) (sc : Scope) (rd ra rb : SReg)
  | ldAcq (wide : Bool) (sc : Scope) (rd ra : SReg)
  | stRel (wide : Bool) (sc : Scope) (ra rb : SReg)
  | fence (sc : Scope)
  | fenceAcq (sc : Scope)
  | fenceRel (sc : Scope)
  | fenceI
  | bar (sc : Scope) (ra rb : SReg)
  | barArr (sc : Scope) (rd ra rb : SReg)
  | barWt (sc : Scope) (ra rb : SReg)
  | vwait (c : WaitCond) (sc : Scope) (rd ra rb : SReg)
  | qpoint
  | pause
  | eret
  | wfi
  | ctxsave (ra : SReg)
  | ctxrest (ra : SReg)
  | xlinvVa (ra rb : SReg)
  | xlinvAs (rb : SReg)
  | xlinvAll
  | shoot (ra : SReg)
  | csrr (rd : SReg) (csr : BitVec 12)
  | csrw (rd ra : SReg) (csr : BitVec 12)
  | csrs (rd ra : SReg) (csr : BitVec 12)
  | csrc (rd ra : SReg) (csr : BitVec 12)
  | trap (imm : BitVec 16)
  | tspawnCore (rd ra : SReg)
  | tspawnDie (rd ra : SReg)
  | tspawnSwap (rd ra : SReg)
  | texit (ra : SReg)
  | lreq (rd ra rb : SReg)
  | lrel (rd ra : SReg)
  | vgrant (rd ra : SReg)
  | lpub (ra : SReg)
  | lbind (rd ra rb : SReg)
  | tyield (rd : SReg)
  | semWaitGe (rd ra rb : SReg)
  | semSig (rd ra rb : SReg)
  | semSigAdd (rd ra rb : SReg)
  | launch (rd ra : SReg)
  | copy (rd ra : SReg)
  | irq (ra : SReg)
  | irqHart (ra rb : SReg)
  | qsel (rd ra : SReg)
  | convoy (n : BitVec 3) (units : BitVec 18) (slots : List Word)
  | vadd (o : VOp)
  | vsub (o : VOp)
  | vrsub (o : VOp)
  | vmul (o : VOp)
  | vmulh (o : VOp)
  | vdiv (o : VOp)
  | vrem (o : VOp)
  | vmin (o : VOp)
  | vmax (o : VOp)
  | vand (o : VOp)
  | vor (o : VOp)
  | vxor (o : VOp)
  | vsll (o : VOp)
  | vsrl (o : VOp)
  | vsra (o : VOp)
  | vmacc (o : VOp)
  | vabs (o : VOp)
  | vclz (o : VOp)
  | vpopc (o : VOp)
  | vmv (o : VOp)
  | vmerge (o : VOp)
  | vid (o : VOp)
  | vslide1Up (o : VOp)
  | vslide1Dn (o : VOp)
  | vfadd (o : VOp)
  | vfsub (o : VOp)
  | vfmul (o : VOp)
  | vfdiv (o : VOp)
  | vfsqrt (o : VOp)
  | vfmin (o : VOp)
  | vfmax (o : VOp)
  | vfmadd (o : VOp)
  | vfnmsub (o : VOp)
  | vfsgn (o : VOp)
  | vfsgnN (o : VOp)
  | vfsgnX (o : VOp)
  | vfclass (o : VOp)
  | vcvt (o : VOp)
  | vcmp (c : CmpOp) (o : VOp)
  | vfcmp (c : CmpOp) (o : VOp)
  | mand (o : VOp)
  | mor (o : VOp)
  | mxor (o : VOp)
  | mandn (o : VOp)
  | mpopc (o : VOp)
  | mfirst (o : VOp)
  | mfill (o : VOp)
  | miota (o : VOp)
  | vslideup (o : VOp)
  | vslidedn (o : VOp)
  | vrgather (o : VOp)
  | vcompress (o : VOp)
  | vext (o : VOp)
  | vins (o : VOp)
  | vredsum (o : VOp)
  | vredmax (o : VOp)
  | vredmin (o : VOp)
  | vredand (o : VOp)
  | vredor (o : VOp)
  | vredbs (o : VOp)
  | vexp2 (o : VOp)
  | vlog2 (o : VOp)
  | vpenny (o : VOp)
  | vrsqrt (o : VOp)
  | vrecip (o : VOp)
  | vtanh (o : VOp)
  | vld (o : VOp)
  | vst (o : VOp)
  | vlds (o : VOp)
  | vsts (o : VOp)
  | vldx (o : VOp)
  | vstx (o : VOp)
  | vldseg (o : VOp)
  | vstseg (o : VOp)
  | mop (o : SqOp)
  | mmkO (o : SqOp)
  | mmkF (o : SqOp)
  | mmksO (o : SqOp)
  | mmksF (o : SqOp)
  | mzero (o : SqOp)
  | mcolGet (o : SqOp)
  | mcolPut (o : SqOp)
  | mdiagGet (o : SqOp)
  | mdiagPut (o : SqOp)
  | mdrain (o : SqOp)
  | akvmask (o : VOp)
  | asmax (o : VOp)
  | apexp (o : VOp)
  | apv (o : VOp)
  | afin (o : VOp)
  | amode (o : VOp)
  | sld (o : StOp)
  | sst (o : StOp)
  | sldv (o : StOp)
  | sgather (o : StOp)
  | sscatter (o : StOp)
  | spaged (o : StOp)
  | sbar (o : StOp)
  | swp (o : StOp)
  | sres (o : StOp)
  | sresLoad (o : StOp)
  | sfill (o : StOp)
  | sfillM (o : StOp)
  | scancel (o : StOp)
  | sstat (o : StOp)
  | sstatSave (o : StOp)
  | avpush (o : ExOp)
  | avpop (o : ExOp)
  | avpushTry (o : ExOp)
  | avpopTry (o : ExOp)
  | avstat (o : ExOp)
  | avstamp (o : ExOp)
  | asmeth (o : ExOp)
  | assamp (o : ExOp)
  | asstart (o : ExOp)
  | asdrain (o : ExOp)
  | asabort (o : ExOp)
  | asstat (o : ExOp)
  | collAred (op : CollOp) (o : ExOp)
  | collAgat (o : ExOp)
  | collRsct (op : CollOp) (o : ExOp)
  | collBcast (o : ExOp)
  | collWait (o : ExOp)
  | deviceReset
  | powerOnBoot (signatureGood : Bool)
  | interruptTake (hart : Nat) (stop : Option Nat)
  | vaultLineWaitEnd (hart : Nat)
  | landedWaitEnd (hart : Nat)
  | rowReleaseWaitEnd (hart : Nat)
  | squareUpdateComplete (hart : Nat)
  | drainRowShift (hart : Nat)
  | streamWindowStart (hart slot : Nat)
  | streamElementPerform (hart slot : Nat)
  | streamFaultStop (hart slot : Nat)
  | boundaryCommit (hart : Nat)
  | clusterZeroDone (core cluster : Nat)
  | dispatchPlace (die : Nat)
  | dispatchOffer (die : Nat)
  | barWaitEnd (hart : Nat)
  | vwaitReread (hart : Nat)
  | pauseExpire (hart : Nat)
  | wfiWake (hart : Nat)
  | quadPacketServe (p : QuadPacket)
  | quadResponseArrive (r : QuadResponse)
  | qbctlAbort (quad : Nat) (bits : BitVec 16)
  | qbctlAbortedClear (quad : Nat) (bits : BitVec 16)
  | shootdownApply (core : Nat)
  | watchdogForce (core part : Nat)
  | migrationStart (die : Nat)
  | migrationLineCopy (die : Nat) (err : CopyError)
  | errorDetect (e : ErrorReport)
  | scrubRead (line : Nat) (found : ScrubResult)
  | spareApply (u : SparableUnit)
  | coreFailure (core : Nat)
  | plctlStart (die slot : Nat)
  | plctlStop (die slot : Nat)
  | poolCoreJoin (core : Nat)
  | balancerInterval (die slot : Nat)
  | pipelineStopComplete (die slot : Nat)
  | avenueWaitEnd (hart : Nat)
  | pldlAck (die slot : Nat) (bits : BitVec 16)
  | assayerDerivPop (die : Nat)
  | assayerRequestPush (die : Nat)
  | assayerCombination (die : Nat)
  | assayerCompletionPush (die : Nat)
  | chctlRunStart (id : Nat)
  | chctlRunStop (id : Nat)
  | cmdhartStopped (id : Nat)
  | queueEntryStart (io q : Nat)
  | copyChunk (io q chunk : Nat)
  | queueEntryComplete (io q : Nat)
  | qctlSkip (io q : Nat)
  | qctlFlush (io q : Nat)
  | extsrcAck (core part : Nat)
  | semaphoreWrite (n : Nat) (v : Word)
  | hostWrite (bar addr : Nat) (bytes : List Byte)
  | hostRead (bar addr len : Nat)
  | hostAtomicop (bar addr : Nat) (op : HostAtomic) (width : Nat) (a b : Word)
  | hostConfigWrite (aopr cxlc : Bool)
  | hostLinkDown
  | ownctlClaim (master : BitVec 2)
  | ownctlRelease (master : BitVec 2)
  | ownctlHand (master target : BitVec 2)
  | bmcMessage
  | bmcOwnerTimeout
  | devpreRequest
  | devpreResume
  | ckctlGo (restore : Bool)
  | checkpointChunk (r : CheckpointReply)
  | powerWindow (watts : Nat)
  | junctionThrottle (die : Nat)
  | junctionShutdown (die : Nat)
  | flitResend (lane : PortLane)
  | laneRetrain (port : Nat)
  | fabricIdAssign (a : FabricAssign)
  | frameReceive (f : Frame)
  | frameAnswer (index : Nat) (a : FrameAnswer)
  | fabricUnreachable (pkg : Nat)
  | collectiveComplete (comm : Nat) (peers : List PeerPart)
  | podBarrierHomeArrival (pkg hart barrier : Nat) (count : Word)
  | podBarrierHomeWithdraw (pkg hart barrier : Nat)
  | podBarrierReply (hart barrier : Nat) (r : PodReply)
  | podBarrierCompletion (barrier : Nat) (phase : Word)
  | podBarrierRetry (hart barrier : Nat)
  | registerWrite (pa : Nat) (v : Word)
  | illegalEncoding (why : BadFetch)
  | hostLinkUp (cxl : Bool)
  | portLinkTrained (port : Nat) (width : BitVec 2)
  | sparingComplete (u : SparableUnit)
  deriving DecidableEq, Repr

end Sys2Proof
end

