-- ==== Sys2Proof/WellFormed.lean ====
section
/-! DEFINITION. Which operand fields an instruction accepts whatever the state: the field rules of spec/03_encoding.md R84
and of each entry. Rules that depend on `vew`, `vspace` or the other slots of a convoy are checked when it executes. -/

namespace Sys2Proof

open Sys2Proof.Machine (isInt isSigned isFp4 isMove isFloat isBlock tyWidth)

/-- A field that names v0 to v47 (R84). -/
def vregOk (r : VReg) : Bool := decide (r.toNat < 48)

/-- A mask operand field that names m0 to m11 (R149). -/
def mregOk (r : VReg) : Bool := decide (r.toNat < 12)

/-- A governing mask field: 0, or 1 to 12 (R81). -/
def maskOk (m : BitVec 4) : Bool := decide (m.toNat ≤ 12)

/-- Rows `v` to `v + g1` lie within one half (R84). -/
def groupOk (v : VReg) (g1 : Nat) : Bool :=
  decide (g1 < 24) && (decide (v.toNat + g1 < 24) || (decide (24 ≤ v.toNat) && decide (v.toNat + g1 < 48)))

/-- Two row ranges share no row. -/
def apart (a la b lb : Nat) : Bool := decide (a + la ≤ b) || decide (b + lb ≤ a)

/-- The second operand of a two-operand form: VB, a scalar, or an immediate (R149, R152). -/
def opnd2Ok (o : VOp) : Bool :=
  match o.src with
  | .vr vb vc tb =>
    decide (vc = 0) && decide (tb = .si8)
      && (if o.mod0 then decide (vb = 0) else vregOk vb && decide (o.ss = 0))
  | .vi imm => !o.mod0 && decide (o.ss = 0) && (isInt o.ta || decide (imm.toNat < pow2 16))

/-- The VR form with no second operand. -/
def noOpnd (o : VOp) : Bool := decide (o.src = .vr 0 0 .si8) && !o.mod0

/-- A unary form: no second operand and no scalar. -/
def unaryOk (o : VOp) : Bool := noOpnd o && decide (o.ss = 0)

def regs2 (o : VOp) : Bool := maskOk o.mask && vregOk o.vd && vregOk o.va

def noRound (o : VOp) : Bool := decide (o.rms = none)

/-- R159, two-operand integer rows. -/
def vintOk (sat : Bool) (o : VOp) : Bool :=
  regs2 o && noRound o && isInt o.ta && (sat || !o.mod1) && opnd2Ok o

/-- R159, unary integer rows. -/
def vunOk (sat : Bool) (o : VOp) : Bool :=
  regs2 o && noRound o && isInt o.ta && (sat || !o.mod1) && unaryOk o

/-- R163, two-operand floating-point rows. -/
def vfpOk (rounds : Bool) (o : VOp) : Bool :=
  regs2 o && isFp4 o.ta && opnd2Ok o && (rounds || (noRound o && !o.mod1))

/-- R172. -/
def vsfOk (o : VOp) : Bool :=
  regs2 o && unaryOk o && (decide (o.ta = .fp32) || decide (o.ta = .fp16) || decide (o.ta = .bf16))

/-- The fields of the mask logic rows of R166. -/
def mlogOk (o : VOp) : Bool :=
  maskOk o.mask && noRound o && !o.mod1 && !o.mod0 && decide (o.ta = .si8) && decide (o.ss = 0)
    && mregOk o.vd && mregOk o.va
    && (match o.src with
      | .vr vb vc tb => mregOk vb && decide (vc = 0) && decide (tb = .si8)
      | .vi _ => false)

def vcmpOk (tyOk : Bool) (o : VOp) : Bool :=
  maskOk o.mask && noRound o && !o.mod1 && tyOk && mregOk o.vd && vregOk o.va && opnd2Ok o
    && (match o.src with | .vr _ _ _ => true | .vi _ => false)

/-- `mpopc` and `mfirst` (R166). -/
def mscalOk (o : VOp) : Bool :=
  maskOk o.mask && noRound o && !o.mod1 && decide (o.ta = .si8) && noOpnd o && decide (o.vd = 0) && mregOk o.va

/-- `vslideup` and `vslidedn` (R167, R168). -/
def vslideOk (o : VOp) : Bool :=
  regs2 o && noRound o && !o.mod1 && isMove o.ta
    && (match o.src with
      | .vr vb vc tb => o.mod0 && decide (vb = 0) && decide (vc = 0) && decide (tb = .si8)
      | .vi imm => !o.mod0 && decide (o.ss = 0) && decide (imm.toNat < pow2 16))

/-- The element index of `vext` and `vins`: at most 1023 (R168). -/
def extIndexOk (o : VOp) : Bool :=
  !o.mod0 && (match o.src with | .vi imm => decide (imm.toNat ≤ 1023) | .vr _ _ _ => false)

/-- The reductions with a seed (R169). -/
def vredOk (tyOk sat rounds : Bool) (o : VOp) : Bool :=
  maskOk o.mask && vregOk o.va && decide (o.vd = 0) && noOpnd o && tyOk && (sat || !o.mod1) && (rounds || noRound o)

/-- `vld` and `vst` (R174). -/
def vunitOk (o : VOp) : Bool :=
  maskOk o.mask && vregOk o.vd && decide (o.va = 0) && noRound o && !o.mod1 && isMove o.ta
    && (match o.src with
      | .vr vb vc tb => decide (vb = 0) && decide (vc = 0) && decide (tb = .si8)
      | .vi _ => true)

def vstrideOk (o : VOp) : Bool :=
  maskOk o.mask && vregOk o.vd && decide (o.va = 0) && noRound o && !o.mod1 && !o.mod0 && isMove o.ta
    && (match o.src with | .vr _ _ _ => false | .vi _ => true)

def vindexOk (o : VOp) : Bool :=
  maskOk o.mask && vregOk o.vd && decide (o.va = 0) && noRound o && !o.mod1 && !o.mod0 && isMove o.ta
    && (match o.src with
      | .vr vb vc tb => vregOk vb && decide (vc = 0) && !decide (o.vd = vb)
          && (decide (tb = .ui16) || decide (tb = .ui32) || decide (tb = .ui64))
      | .vi _ => false)

def vsegOk (o : VOp) : Bool :=
  decide (o.mask = 0) && vregOk o.vd && decide (o.va = 0) && noRound o && !o.mod1 && !o.mod0 && isBlock o.ta
    && (match o.src with
      | .vr vb vc tb => decide (vb = 0) && vregOk vc && !decide (o.vd = vc) && decide (tb = .si8)
      | .vi _ => false)

/-- G − 1 of an attention instruction, its VC field (R249). -/
def VOp.g1 (o : VOp) : Nat :=
  match o.src with | .vr _ vc _ => vc.toNat | .vi _ => 0

/-- The VB field of an attention instruction. -/
def VOp.vb (o : VOp) : Nat :=
  match o.src with | .vr vb _ _ => vb.toNat | .vi _ => 0

/-- The TB field. -/
def VOp.tb (o : VOp) : Ty :=
  match o.src with | .vr _ _ tb => tb | .vi _ => .si8

def VOp.isVr (o : VOp) : Bool :=
  match o.src with | .vr _ _ _ => true | .vi _ => false

/-- A triple vB to vB + 2 that shares no row with the group at `g` (R249, R250). -/
def tripleOk (o : VOp) (g : VReg) : Bool := decide (o.vb ≤ 45) && apart o.vb 3 g.toNat (o.g1 + 1)

def akvmaskOk (o : VOp) : Bool :=
  o.isVr && maskOk o.mask && noRound o && !o.mod1 && groupOk o.vd o.g1 && decide (o.va = 0) && decide (o.vb < 32)
    && decide (o.ta = .fp32) && decide (o.tb = .si8)

def asmaxOk (o : VOp) : Bool :=
  o.isVr && maskOk o.mask && decide (o.ss = 0) && !o.mod1 && !o.mod0 && decide (o.vd = 0) && groupOk o.va o.g1
    && tripleOk o o.va && decide (o.ta = .fp32) && decide (o.tb = .si8)

def apexpOk (o : VOp) : Bool :=
  o.isVr && maskOk o.mask && decide (o.ss = 0) && !o.mod1 && !o.mod0 && groupOk o.vd o.g1 && groupOk o.va o.g1
    && apart o.vd.toNat (o.g1 + 1) o.va.toNat (o.g1 + 1) && tripleOk o o.vd && tripleOk o o.va
    && decide (o.ta = .fp32) && decide (o.tb = .si8)

def apvOk (o : VOp) : Bool :=
  o.isVr && maskOk o.mask && !o.mod0 && groupOk o.vd o.g1 && groupOk o.va o.g1
    && apart o.vd.toNat (o.g1 + 1) o.va.toNat (o.g1 + 1) && tripleOk o o.vd && tripleOk o o.va
    && (decide (o.ta = .pny) || decide (o.ta = .e4m3))
    && (decide (o.tb = .fp32) || decide (o.tb = .fp16) || decide (o.tb = .bf16) || decide (o.tb = .e4m3)
      || decide (o.tb = .e5m2))

def afinOk (o : VOp) : Bool :=
  o.isVr && maskOk o.mask && decide (o.ss = 0) && !o.mod0 && groupOk o.vd o.g1 && mregOk o.va && tripleOk o o.vd
    && decide (o.ta = .fp32) && decide (o.tb = .si8)

def amodeOk (o : VOp) : Bool :=
  o.isVr && decide (o.mask = 0) && noRound o && decide (o.vd = 0) && decide (o.va = 0) && decide (o.ta = .si8)
    && decide (o.tb = .si8)
    && (if o.mod1 then decide (o.g1 < 24) && decide (o.vb ≤ 45) else decide (o.g1 = 0) && decide (o.vb = 0))

/-- The accumulator type of an operand type (R185). -/
def accTy : Ty → Ty
  | .fp64 => .fp64
  | .si8 | .si4 => .si32
  | _ => .fp32

/-- The pairs of R186. -/
def pairOk (a b : Ty) : Bool :=
  match a, b with
  | .fp64, .fp64 | .fp32, .fp32 | .fp16, .fp16 | .bf16, .bf16 | .si8, .si8 | .e2m1, .e2m1 | .si4, .si4
  | .lg6, .lg6 | .mxi8, .mxi8 | .mxe2m1, .mxe2m1 | .sfp4, .sfp4 => true
  | .e4m3, .e4m3 | .e4m3, .e5m2 | .e5m2, .e4m3 | .e5m2, .e5m2 => true
  | .mxe4m3, .mxe4m3 | .mxe4m3, .mxe5m2 | .mxe5m2, .mxe4m3 | .mxe5m2, .mxe5m2 => true
  | _, _ => false

/-- The SQMOD bits of major 0x37 (R192). -/
def SqOp.sat (o : SqOp) : Bool := o.sqmod.getLsbD 6
def SqOp.ua (o : SqOp) : Bool := o.sqmod.getLsbD 5
def SqOp.ub (o : SqOp) : Bool := o.sqmod.getLsbD 4
def SqOp.maj (o : SqOp) : Bool := o.sqmod.getLsbD 3
def SqOp.spn (o : SqOp) : Bool := o.sqmod.getLsbD 2
def SqOp.acc (o : SqOp) : Nat := o.sqmod.toNat % 4

/-- Where MAJ = 1 is accepted: w of at least 8 and no block scales (R188). -/
def majOk (t : Ty) : Bool := isFp4 t || decide (t = .e4m3) || decide (t = .e5m2) || decide (t = .si8)

/-- A Square update (R186, R188, R192, R194). `mop` has no depth register; `sparse` selects `mmks`. -/
def updateOk (mop sparse : Bool) (o : SqOp) : Bool :=
  maskOk o.mask && groupOk o.vd o.gm1.toNat && pairOk o.ta o.tb
    && (decide (accTy o.ta = .si32) || (!o.ua && !o.ub))
    && (!o.maj || majOk o.ta)
    && (sparse || !o.spn)
    && !decide (o.acc = 3)
    && (!decide (accTy o.ta = .si32) || decide (o.rms = none))
    && (!mop || (decide (o.sc = 0) && !isBlock o.ta))
    && (!sparse || !(decide (o.ta = .fp64) || decide (o.ta = .fp32) || decide (o.ta = .lg6) || isBlock o.ta))

def mzeroOk (o : SqOp) : Bool :=
  maskOk o.mask && groupOk o.vd o.gm1.toNat && decide (o.ta = .si8) && decide (o.tb = .si8) && decide (o.sa = 0)
    && decide (o.sb = 0) && decide (o.sc = 0) && decide (o.rms = none) && decide (o.sqmod = 0)

/-- The register X of a view (R204). -/
def SqOp.x (o : SqOp) : Nat := o.sqmod.toNat % 64

def viewOk (o : SqOp) : Bool :=
  maskOk o.mask && groupOk o.vd o.gm1.toNat && isMove o.ta && decide (o.tb = .si8) && decide (o.sa = 0)
    && decide (o.sb = 0) && decide (o.rms = none) && decide (o.sqmod.toNat < 48)
    && apart o.x 1 o.vd.toNat (o.gm1.toNat + 1)

/-- The destination types of a drain (R208). -/
def drainDst : Ty → Bool
  | .fp64 | .fp32 | .fp16 | .bf16 | .e4m3 | .e5m2 | .si8 | .ui8 | .si16 | .ui16 | .si32 | .ui32 => true
  | _ => false

def drainOk (o : SqOp) : Bool :=
  maskOk o.mask && groupOk o.vd o.gm1.toNat
    && (decide (o.ta = .si32) || decide (o.ta = .fp32) || decide (o.ta = .fp64)) && drainDst o.tb
    && decide (tyWidth o.tb ≤ tyWidth o.ta) && (o.sqmod.getLsbD 6 || decide (o.sb = 0))
    && decide (o.sqmod.toNat % 16 = 0)

/-- The block register P of a stream form: bit 5 of its field is 0 (R230). -/
def pOk (o : StOp) : Bool := decide (o.vd.toNat < 32)

/-- The stream forms whose only modifier is CLR (R230). -/
def clrForm (o : StOp) : Bool := pOk o && decide (o.smod.toNat ≤ 1)

def slotOnly (o : StOp) : Bool := decide (o.sb = 0) && decide (o.vd = 0) && decide (o.imm = 0)

def avOk (mem : Bool) (o : ExOp) : Bool :=
  decide (o.sc = 0) && decide (o.va = 0) && decide (o.emod = 0) && (mem || (decide (o.sb = 0) && decide (o.imm = 0)))

def asRangeOk (o : ExOp) : Bool :=
  avOk true o && decide (1 ≤ o.imm.toNat) && decide (o.imm.toNat ≤ 4096)

/-- The element types of a reducing collective (R428). -/
def collTy (e : Nat) : Bool :=
  match tyOfCode e with
  | some .fp64 | some .fp32 | some .fp16 | some .bf16 | some .si32 | some .si64 | some .ui32 | some .ui64 => true
  | _ => false

def collOk (reduces : Bool) (o : ExOp) : Bool :=
  decide (o.va = 0) && decide (o.imm.toNat < 256)
    && (if reduces then collTy o.emod.toNat else decide (o.emod = 0))

/-- The pointer selector of `strip` (R112). -/
def stripOk (ra : SReg) (ps : BitVec 5) : Bool :=
  let q := ps.toNat / 4
  let np := ps.toNat % 4 + 1
  if q = 0 then decide (ps = 0) else !(decide (4 * q ≤ ra.toNat) && decide (ra.toNat < 4 * q + np))

/-- The unit code of slot `i` in a header's unit field (R80). -/
def unitAt (units : BitVec 18) (i : Nat) : Nat := (units.toNat / pow2 (15 - 3 * i)) % 8

def distinct : List Nat → Bool
  | [] => true
  | x :: xs => !xs.contains x && distinct xs

/-- A convoy header (R80, R86) with as many slots as it names. -/
def convoyOk (n : BitVec 3) (units : BitVec 18) (slots : List Word) : Bool :=
  decide (2 ≤ n.toNat) && decide (n.toNat ≤ 6) && decide (slots.length = n.toNat)
    && distinct ((List.range n.toNat).map (unitAt units))
    && decide (units.toNat % pow2 (18 - 3 * n.toNat) = 0)

/-- The operand rules of an instruction that hold whatever the state. Events are steps of an agent and always pass. -/
def Instr.wf : Instr → Bool
  | .fcvt dst src _ _ _ _ => !decide (dst = src) && !(cvtIsInt dst && cvtIsInt src)
  | .strip ra ps _ => stripOk ra ps
  | .convoy n units slots => convoyOk n units slots
  | .vadd o | .vsub o | .vrsub o | .vmul o | .vmacc o => vintOk true o
  | .vmulh o | .vdiv o | .vrem o | .vmin o | .vmax o | .vand o | .vor o | .vxor o | .vsll o | .vsrl o | .vsra o =>
    vintOk false o
  | .vabs o => vunOk true o && isSigned o.ta
  | .vclz o | .vpopc o => vunOk false o
  | .vmv o =>
    regs2 o && noRound o && !o.mod1 && isMove o.ta && opnd2Ok o
      && (match o.src with
        | .vr vb _ _ => if o.mod0 then decide (o.va = 0) else decide (vb = 0)
        | .vi _ => decide (o.va = 0))
  | .vmerge o => regs2 o && noRound o && !o.mod1 && isMove o.ta && opnd2Ok o && !decide (o.mask = 0)
  | .vid o => vunOk false o && decide (o.va = 0)
  | .vslide1Up o => regs2 o && noRound o && isMove o.ta && noOpnd o && !decide (o.vd = o.va)
  | .vslide1Dn o => regs2 o && noRound o && isMove o.ta && noOpnd o
  | .vfadd o | .vfsub o | .vfmul o | .vfdiv o | .vfmadd o | .vfnmsub o => vfpOk true o
  | .vfsqrt o => regs2 o && isFp4 o.ta && unaryOk o
  | .vfmin o | .vfmax o | .vfsgn o | .vfsgnN o | .vfsgnX o => vfpOk false o
  | .vfclass o => regs2 o && isFp4 o.ta && unaryOk o && noRound o && !o.mod1
  | .vcvt o =>
    regs2 o && isMove o.ta && isMove o.tb && !decide (o.ta = o.tb) && !o.mod0 && decide (o.ss = 0)
      && (match o.src with | .vr vb vc _ => decide (vb = 0) && decide (vc = 0) | .vi _ => false)
      && (!(isInt o.ta && isInt o.tb) || noRound o)
      && (decide (tyWidth o.ta = tyWidth o.tb) || !decide (o.vd = o.va))
  | .vcmp _ o => vcmpOk (isInt o.ta) o
  | .vfcmp _ o => vcmpOk (isFp4 o.ta) o
  | .mand o | .mor o | .mxor o | .mandn o => mlogOk o
  | .mpopc o | .mfirst o => mscalOk o
  | .mfill o =>
    maskOk o.mask && noRound o && !o.mod1 && decide (o.ta = .si8) && noOpnd o && mregOk o.vd && decide (o.va = 0)
  | .miota o => maskOk o.mask && noRound o && !o.mod1 && isInt o.ta && unaryOk o && vregOk o.vd && mregOk o.va
  | .vslideup o => vslideOk o && !decide (o.vd = o.va)
  | .vslidedn o => vslideOk o
  | .vrgather o =>
    regs2 o && noRound o && !o.mod1 && !o.mod0 && decide (o.ss = 0) && isMove o.ta && !decide (o.vd = o.va)
      && (match o.src with
        | .vr vb vc tb => vregOk vb && decide (vc = 0) && decide (tb = .si8) && !decide (o.vd = vb)
        | .vi _ => false)
  | .vcompress o => regs2 o && noRound o && !o.mod1 && isMove o.ta && unaryOk o && !decide (o.vd = o.va)
  | .vext o =>
    decide (o.mask = 0) && decide (o.vd = 0) && vregOk o.va && noRound o && isMove o.ta && extIndexOk o
  | .vins o => maskOk o.mask && vregOk o.vd && decide (o.va = 0) && noRound o && isMove o.ta && extIndexOk o
  | .vredsum o => vredOk (isInt o.ta || isFp4 o.ta) true (isFp4 o.ta) o
  | .vredmax o | .vredmin o => vredOk (isInt o.ta || isFp4 o.ta) false false o
  | .vredand o | .vredor o => vredOk (isInt o.ta) false false o
  | .vredbs o =>
    maskOk o.mask && vregOk o.va && decide (o.vd = 0) && !o.mod1 && !o.mod0 && isBlock o.ta
      && (match o.src with
        | .vr vb vc tb => vregOk vb && decide (vc = 0) && (decide (tb = .fp32) || decide (tb = .fp64))
        | .vi _ => false)
  | .vexp2 o | .vlog2 o | .vrsqrt o | .vrecip o | .vtanh o => vsfOk o
  | .vpenny o => vsfOk o && noRound o && !o.mod1 && !decide (o.vd = o.va)
  | .vld o | .vst o => vunitOk o
  | .vlds o | .vsts o => vstrideOk o
  | .vldx o | .vstx o => vindexOk o
  | .vldseg o | .vstseg o => vsegOk o
  | .mop o => updateOk true false o
  | .mmkO o | .mmkF o => updateOk false false o
  | .mmksO o | .mmksF o => updateOk false true o
  | .mzero o => mzeroOk o
  | .mcolGet o | .mcolPut o | .mdiagGet o | .mdiagPut o => viewOk o
  | .mdrain o => drainOk o
  | .akvmask o => akvmaskOk o
  | .asmax o => asmaxOk o
  | .apexp o => apexpOk o
  | .apv o => apvOk o
  | .afin o => afinOk o
  | .amode o => amodeOk o
  | .sld o | .sgather o | .spaged o => clrForm o
  | .sst o => pOk o && decide (o.smod = 0)
  | .sldv o => vregOk o.vd && decide (o.smod = 0)
  | .sscatter o => pOk o && decide (o.smod.toNat % 2 = 0)
  | .sbar o =>
    decide (o.slot = 0) && decide (o.sa = 0) && decide (o.sb = 0) && decide (o.vd = 0) && decide (o.smod.toNat ≤ 1)
      && decide (o.imm.toNat < pow2 16)
  | .swp o | .sstat o => slotOnly o && decide (o.smod = 0)
  | .sres o | .scancel o => slotOnly o && decide (o.sa = 0) && decide (o.smod = 0)
  | .sresLoad o | .sstatSave o => slotOnly o && decide (o.smod = 1)
  | .sfill o => pOk o && decide (o.sa = 0) && decide (o.imm = 0) && decide (o.smod.toNat ≤ 1)
  | .sfillM o => pOk o && decide (o.sb = 0) && decide (o.smod = 2)
  | .avpush o | .avpop o | .avpushTry o | .avpopTry o => avOk true o
  | .avstat o | .avstamp o => avOk false o
  | .asmeth o => avOk true o && decide (o.sb = 0) && decide (o.imm.toNat ≤ 3)
  | .assamp o | .asstart o | .asdrain o => asRangeOk o
  | .asabort o | .asstat o => avOk false o
  | .collAred _ o | .collRsct _ o => collOk true o
  | .collAgat o | .collBcast o => collOk false o
  | .collWait o => collOk false o && decide (o.sc = 0) && decide (o.sb = 0) && decide (o.imm = 0)
  | _ => true

end Sys2Proof
end

