-- ==== Sys2Proof/Decode.lean ====
section
/-! DEFINITION. The decoder and the encoder (spec/03_encoding.md R76 to R84). A word is read as a natural number: bit k
counts 2^k. Decoding is total: it gives an instruction or says by name why the bits are none. -/

namespace Sys2Proof

/-- Why bits are not an instruction (R84): nothing is assigned to them, or a field breaks an operand rule. -/
inductive Reject where
  | tooShort
  | unassigned
  | badOperands
  deriving DecidableEq, Repr

/-- The 5-bit fields of the one-parcel formats (R79). -/
def rD (w : Nat) : SReg := BitVec.ofNat 5 (w / pow2 21)
def rA (w : Nat) : SReg := BitVec.ofNat 5 (w / pow2 16)
def rB (w : Nat) : SReg := BitVec.ofNat 5 (w / pow2 11)

/-- FUNC of format A. -/
def func (w : Nat) : Nat := w % 2048

/-- IMM16 of format I. -/
def imm16n (w : Nat) : Nat := w % 65536
def imm16 (w : Nat) : BitVec 16 := BitVec.ofNat 16 w

/-- A two-bit FMT field at bit `lo` (R115, R118). -/
def fmtAt (w lo : Nat) : FFmt := ffmtOfCode (w / pow2 lo % 4)

/-- The instruction that a one-parcel word encodes (R79, R83), before the operand rules. -/
def fields32 (w : Nat) : Option Instr :=
  match w / pow2 26 with
  | 1 =>
    match func w with
    | 0 => some (.add (rD w) (rA w) (rB w))
    | 1 => some (.sub (rD w) (rA w) (rB w))
    | 2 => some (.and (rD w) (rA w) (rB w))
    | 3 => some (.or (rD w) (rA w) (rB w))
    | 4 => some (.xor (rD w) (rA w) (rB w))
    | 5 => some (.sll (rD w) (rA w) (rB w))
    | 6 => some (.srl (rD w) (rA w) (rB w))
    | 7 => some (.sra (rD w) (rA w) (rB w))
    | 8 => some (.slt (rD w) (rA w) (rB w))
    | 9 => some (.sltu (rD w) (rA w) (rB w))
    | 10 => some (.min (rD w) (rA w) (rB w))
    | 11 => some (.max (rD w) (rA w) (rB w))
    | 12 => some (.minu (rD w) (rA w) (rB w))
    | 13 => some (.maxu (rD w) (rA w) (rB w))
    | _ => none
  | 2 =>
    match func w with
    | 0 => some (.mul (rD w) (rA w) (rB w))
    | 1 => some (.mulh (rD w) (rA w) (rB w))
    | 2 => some (.mulhu (rD w) (rA w) (rB w))
    | 3 => some (.mulhsu (rD w) (rA w) (rB w))
    | 4 => some (.div (rD w) (rA w) (rB w))
    | 5 => some (.divu (rD w) (rA w) (rB w))
    | 6 => some (.rem (rD w) (rA w) (rB w))
    | 7 => some (.remu (rD w) (rA w) (rB w))
    | _ => none
  | 3 =>
    match func w with
    | 0 => if rB w = 0 then some (.clz (rD w) (rA w)) else none
    | 1 => if rB w = 0 then some (.ctz (rD w) (rA w)) else none
    | 2 => if rB w = 0 then some (.popc (rD w) (rA w)) else none
    | 3 => if rB w = 0 then some (.brev (rD w) (rA w)) else none
    | 4 => if rB w = 0 then some (.bswap (rD w) (rA w)) else none
    | 5 => some (.rotl (rD w) (rA w) (rB w))
    | 6 => some (.rotr (rD w) (rA w) (rB w))
    | _ => none
  | 4 =>
    if func w < 8 then some (.addx (rD w) (rA w) (rB w) (BitVec.ofNat 3 w))
    else if func w < 16 then some (.subx (rD w) (rA w) (rB w) (BitVec.ofNat 3 w))
    else none
  | 5 =>
    some (.addi (rD w) (rA w) (imm16 w))
  | 6 =>
    some (.andi (rD w) (rA w) (imm16 w))
  | 7 =>
    some (.ori (rD w) (rA w) (imm16 w))
  | 8 =>
    some (.xori (rD w) (rA w) (imm16 w))
  | 9 =>
    some (.slti (rD w) (rA w) (imm16 w))
  | 10 =>
    some (.sltiu (rD w) (rA w) (imm16 w))
  | 11 =>
    match imm16n w / 64 with
    | 0 => some (.slli (rD w) (rA w) (BitVec.ofNat 6 w))
    | 256 => some (.srli (rD w) (rA w) (BitVec.ofNat 6 w))
    | 512 => some (.srai (rD w) (rA w) (BitVec.ofNat 6 w))
    | _ => none
  | 12 =>
    if rA w = 0 then some (.lui (rD w) (imm16 w)) else none
  | 13 =>
    if rA w = 0 then some (.auipc (rD w) (imm16 w)) else none
  | 14 =>
    some (.beq (rD w) (rA w) (imm16 w))
  | 15 =>
    some (.bne (rD w) (rA w) (imm16 w))
  | 16 =>
    some (.blt (rD w) (rA w) (imm16 w))
  | 17 =>
    some (.bge (rD w) (rA w) (imm16 w))
  | 18 =>
    some (.bltu (rD w) (rA w) (imm16 w))
  | 19 =>
    some (.bgeu (rD w) (rA w) (imm16 w))
  | 20 =>
    some (.j (BitVec.ofNat 26 w))
  | 21 =>
    some (.jal (BitVec.ofNat 26 w))
  | 22 =>
    some (.jalr (rD w) (rA w) (imm16 w))
  | 23 =>
    some (.strip (rD w) (rA w) (imm16 w))
  | 25 =>
    match func w % 32, rmsOfCode (func w / 128) with
    | 0, some r => some (.fadd (fmtAt w 5) r (rD w) (rA w) (rB w))
    | 1, some r => some (.fsub (fmtAt w 5) r (rD w) (rA w) (rB w))
    | 2, some r => some (.fmul (fmtAt w 5) r (rD w) (rA w) (rB w))
    | 3, some r => some (.fdiv (fmtAt w 5) r (rD w) (rA w) (rB w))
    | 4, some r => if rB w = 0 then some (.fsqrt (fmtAt w 5) r (rD w) (rA w)) else none
    | 5, some none => some (.fmin (fmtAt w 5) (rD w) (rA w) (rB w))
    | 6, some none => some (.fmax (fmtAt w 5) (rD w) (rA w) (rB w))
    | 7, some r => some (.fmadd (fmtAt w 5) r (rD w) (rA w) (rB w))
    | 8, some r => some (.fnmsub (fmtAt w 5) r (rD w) (rA w) (rB w))
    | _, _ => none
  | 26 =>
    match func w / 16 % 8, rmsOfCode (func w / 128) with
    | 0, some r =>
      if (rB w).toNat < 8 then
        some (.fcvt (cvtOfCode (w / 2 % 8)) (cvtOfCode ((rB w).toNat)) (decide (w % 2 = 1)) r (rD w) (rA w))
      else none
    | 1, some none =>
      if rB w = 0 then
        match func w % 16 with
        | 0 => some (.fmvFs (rD w) (rA w))
        | 1 => some (.fmvSf (rD w) (rA w))
        | 2 => some (.fmvFf (rD w) (rA w))
        | _ => none
      else none
    | 2, some none =>
      match w % 4 with
      | 0 => some (.fsgn (fmtAt w 2) (rD w) (rA w) (rB w))
      | 1 => some (.fsgnN (fmtAt w 2) (rD w) (rA w) (rB w))
      | 2 => some (.fsgnX (fmtAt w 2) (rD w) (rA w) (rB w))
      | _ => none
    | 3, some none => if w % 4 = 0 then some (.feq (fmtAt w 2) (rD w) (rA w) (rB w)) else none
    | 4, some none => if w % 4 = 0 then some (.flt (fmtAt w 2) (rD w) (rA w) (rB w)) else none
    | 5, some none => if w % 4 = 0 then some (.fle (fmtAt w 2) (rD w) (rA w) (rB w)) else none
    | 6, some none => if w % 4 = 0 ∧ rB w = 0 then some (.fclass (fmtAt w 2) (rD w) (rA w)) else none
    | _, _ => none
  | 27 =>
    match w / pow2 13 % 8 with
    | 0 => some (.lb (rD w) (rA w) (BitVec.ofNat 13 w))
    | 1 => some (.lbu (rD w) (rA w) (BitVec.ofNat 13 w))
    | 2 => some (.lh (rD w) (rA w) (BitVec.ofNat 13 w))
    | 3 => some (.lhu (rD w) (rA w) (BitVec.ofNat 13 w))
    | 4 => some (.lw (rD w) (rA w) (BitVec.ofNat 13 w))
    | 5 => some (.lwu (rD w) (rA w) (BitVec.ofNat 13 w))
    | 6 => some (.ld (rD w) (rA w) (BitVec.ofNat 13 w))
    | 7 => some (.fld (rD w) (rA w) (BitVec.ofNat 13 w))
    | _ => none
  | 28 =>
    match w / pow2 13 % 8 with
    | 0 => some (.sb (rD w) (rA w) (BitVec.ofNat 13 w))
    | 1 => some (.sh (rD w) (rA w) (BitVec.ofNat 13 w))
    | 2 => some (.sw (rD w) (rA w) (BitVec.ofNat 13 w))
    | 3 => some (.sd (rD w) (rA w) (BitVec.ofNat 13 w))
    | 4 => some (.fsd (rD w) (rA w) (BitVec.ofNat 13 w))
    | _ => none
  | 29 =>
    match scopeOfCode (func w / 256) with
    | none => none
    | some sc =>
      let ord := ordOfCode (func w / 64 % 4)
      let wide := decide (func w / 32 % 2 = 1)
      match func w % 32 with
      | 9 => some (.cas wide ord sc (rD w) (rA w) (rB w))
      | 10 => if ord = .acq ∧ rB w = 0 then some (.ldAcq wide sc (rD w) (rA w)) else none
      | 11 => if ord = .rel ∧ rD w = 0 then some (.stRel wide sc (rA w) (rB w)) else none
      | k => match amoOfCode k with
        | some op => some (.amo op wide ord sc (rD w) (rA w) (rB w))
        | none => none
  | 30 =>
    match scopeOfCode (func w / 256) with
    | none => none
    | some sc =>
      match func w / 16 % 16 with
      | 0 =>
        if rD w = 0 ∧ rA w = 0 ∧ rB w = 0 then
          match func w % 16 with
          | 0 => some (.fence sc)
          | 1 => some (.fenceAcq sc)
          | 2 => some (.fenceRel sc)
          | _ => none
        else none
      | 1 => if w % pow2 26 = 16 then some .fenceI else none
      | 2 => if rD w = 0 ∧ func w % 16 = 0 then some (.bar sc (rA w) (rB w)) else none
      | 3 => if func w % 16 = 0 then some (.barArr sc (rD w) (rA w) (rB w)) else none
      | 4 => if rD w = 0 ∧ func w % 16 = 0 then some (.barWt sc (rA w) (rB w)) else none
      | 5 => match condOfCode (func w % 16) with
        | some c => some (.vwait c sc (rD w) (rA w) (rB w))
        | none => none
      | 6 => if w % pow2 26 = 96 then some .qpoint else none
      | 7 => if w % pow2 26 = 112 then some .pause else none
      | _ => none
  | 31 =>
    match func w with
    | 0 => if w % pow2 26 = 0 then some .eret else none
    | 1 => if w % pow2 26 = 1 then some .wfi else none
    | 2 => if rD w = 0 ∧ rB w = 0 then some (.ctxsave (rA w)) else none
    | 3 => if rD w = 0 ∧ rB w = 0 then some (.ctxrest (rA w)) else none
    | 4 => if rD w = 0 then some (.xlinvVa (rA w) (rB w)) else none
    | 5 => if rD w = 0 ∧ rA w = 0 then some (.xlinvAs (rB w)) else none
    | 6 => if w % pow2 26 = 6 then some .xlinvAll else none
    | 7 => if rD w = 0 ∧ rB w = 0 then some (.shoot (rA w)) else none
    | _ => none
  | 32 =>
    match imm16n w / 4096 with
    | 0 => if rA w = 0 then some (.csrr (rD w) (BitVec.ofNat 12 w)) else none
    | 1 => some (.csrw (rD w) (rA w) (BitVec.ofNat 12 w))
    | 2 => some (.csrs (rD w) (rA w) (BitVec.ofNat 12 w))
    | 3 => some (.csrc (rD w) (rA w) (BitVec.ofNat 12 w))
    | _ => none
  | 33 =>
    if rD w = 0 ∧ rA w = 0 then some (.trap (imm16 w)) else none
  | 34 =>
    match func w with
    | 0 => if rB w = 0 then some (.tspawnCore (rD w) (rA w)) else none
    | 1 => if rB w = 0 then some (.tspawnDie (rD w) (rA w)) else none
    | 2 => if rB w = 0 then some (.tspawnSwap (rD w) (rA w)) else none
    | 3 => if rD w = 0 ∧ rB w = 0 then some (.texit (rA w)) else none
    | 4 => some (.lreq (rD w) (rA w) (rB w))
    | 5 => if rB w = 0 then some (.lrel (rD w) (rA w)) else none
    | 6 => if rB w = 0 then some (.vgrant (rD w) (rA w)) else none
    | 7 => if rD w = 0 ∧ rB w = 0 then some (.lpub (rA w)) else none
    | 8 => some (.lbind (rD w) (rA w) (rB w))
    | 9 => if rA w = 0 ∧ rB w = 0 then some (.tyield (rD w)) else none
    | _ => none
  | 35 =>
    match func w with
    | 0 => some (.semWaitGe (rD w) (rA w) (rB w))
    | 1 => some (.semSig (rD w) (rA w) (rB w))
    | 17 => some (.semSigAdd (rD w) (rA w) (rB w))
    | 2 => if rB w = 0 then some (.launch (rD w) (rA w)) else none
    | 3 => if rB w = 0 then some (.copy (rD w) (rA w)) else none
    | 4 => if rD w = 0 ∧ rB w = 0 then some (.irq (rA w)) else none
    | 20 => if rD w = 0 then some (.irqHart (rA w) (rB w)) else none
    | 5 => if rB w = 0 then some (.qsel (rD w) (rA w)) else none
    | _ => none
  | _ => none

/-- The instruction of a vector or attention major and FUNC (R159, R163, R166, R167, R172, R174, R248). -/
def vecOf (major func : Nat) (o : VOp) : Option Instr :=
  match major, func with
  | 49, 0 => some (.vadd o)
  | 49, 1 => some (.vsub o)
  | 49, 2 => some (.vrsub o)
  | 49, 3 => some (.vmul o)
  | 49, 4 => some (.vmulh o)
  | 49, 5 => some (.vdiv o)
  | 49, 6 => some (.vrem o)
  | 49, 7 => some (.vmin o)
  | 49, 8 => some (.vmax o)
  | 49, 9 => some (.vand o)
  | 49, 10 => some (.vor o)
  | 49, 11 => some (.vxor o)
  | 49, 12 => some (.vsll o)
  | 49, 13 => some (.vsrl o)
  | 49, 14 => some (.vsra o)
  | 49, 15 => some (.vmacc o)
  | 49, 16 => some (.vabs o)
  | 49, 17 => some (.vclz o)
  | 49, 18 => some (.vpopc o)
  | 49, 19 => some (.vmv o)
  | 49, 20 => some (.vmerge o)
  | 49, 21 => some (.vid o)
  | 49, 22 => some (.vslide1Up o)
  | 49, 23 => some (.vslide1Dn o)
  | 50, 0 => some (.vfadd o)
  | 50, 1 => some (.vfsub o)
  | 50, 2 => some (.vfmul o)
  | 50, 3 => some (.vfdiv o)
  | 50, 4 => some (.vfsqrt o)
  | 50, 5 => some (.vfmin o)
  | 50, 6 => some (.vfmax o)
  | 50, 7 => some (.vfmadd o)
  | 50, 8 => some (.vfnmsub o)
  | 50, 9 => some (.vfsgn o)
  | 50, 10 => some (.vfsgnN o)
  | 50, 11 => some (.vfsgnX o)
  | 50, 12 => some (.vfclass o)
  | 50, 13 => some (.vcvt o)
  | 51, 16 => some (.mand o)
  | 51, 17 => some (.mor o)
  | 51, 18 => some (.mxor o)
  | 51, 19 => some (.mandn o)
  | 51, 20 => some (.mpopc o)
  | 51, 21 => some (.mfirst o)
  | 51, 22 => some (.mfill o)
  | 51, 23 => some (.miota o)
  | 52, 0 => some (.vslideup o)
  | 52, 1 => some (.vslidedn o)
  | 52, 2 => some (.vrgather o)
  | 52, 3 => some (.vcompress o)
  | 52, 4 => some (.vext o)
  | 52, 5 => some (.vins o)
  | 52, 8 => some (.vredsum o)
  | 52, 9 => some (.vredmax o)
  | 52, 10 => some (.vredmin o)
  | 52, 11 => some (.vredand o)
  | 52, 12 => some (.vredor o)
  | 52, 13 => some (.vredbs o)
  | 53, 0 => some (.vexp2 o)
  | 53, 1 => some (.vlog2 o)
  | 53, 2 => some (.vpenny o)
  | 53, 3 => some (.vrsqrt o)
  | 53, 4 => some (.vrecip o)
  | 53, 5 => some (.vtanh o)
  | 54, 0 => some (.vld o)
  | 54, 1 => some (.vst o)
  | 54, 2 => some (.vlds o)
  | 54, 3 => some (.vsts o)
  | 54, 4 => some (.vldx o)
  | 54, 5 => some (.vstx o)
  | 54, 6 => some (.vldseg o)
  | 54, 7 => some (.vstseg o)
  | 57, 0 => some (.akvmask o)
  | 57, 1 => some (.asmax o)
  | 57, 2 => some (.apexp o)
  | 57, 3 => some (.apv o)
  | 57, 4 => some (.afin o)
  | 57, 5 => some (.amode o)
  | 51, k =>
    if k < 8 then (cmpOfCode k).map (fun c => .vcmp c o)
    else if k < 16 then (cmpOfCode (k - 8)).map (fun c => .vfcmp c o) else none
  | _, _ => none

/-- The instruction of a Square major and FUNC (R192, R204). -/
def sqOf (major func : Nat) (o : SqOp) : Option Instr :=
  match major, func with
  | 55, 0 => some (.mop o)
  | 55, 1 => some (.mmkO o)
  | 55, 2 => some (.mmkF o)
  | 55, 3 => some (.mmksO o)
  | 55, 4 => some (.mmksF o)
  | 56, 0 => some (.mzero o)
  | 56, 1 => some (.mcolGet o)
  | 56, 2 => some (.mcolPut o)
  | 56, 3 => some (.mdiagGet o)
  | 56, 4 => some (.mdiagPut o)
  | 56, 5 => some (.mdrain o)
  | _, _ => none

/-- The instruction of major 0x3A (R230): LOAD, SAVE and MEM of SMOD select among two forms. -/
def strOf (func : Nat) (o : StOp) : Option Instr :=
  match func with
  | 0 => some (.sld o)
  | 1 => some (.sst o)
  | 2 => some (.sldv o)
  | 3 => some (.sgather o)
  | 4 => some (.sscatter o)
  | 5 => some (.spaged o)
  | 6 => some (.sbar o)
  | 7 => some (.swp o)
  | 8 => if o.smod.toNat % 2 = 1 then some (.sresLoad o) else some (.sres o)
  | 9 => if 2 ≤ o.smod.toNat then some (.sfillM o) else some (.sfill o)
  | 10 => some (.scancel o)
  | 11 => if o.smod.toNat % 2 = 1 then some (.sstatSave o) else some (.sstat o)
  | _ => none

/-- The instruction of an engine major and FUNC (R334, R362, R428). -/
noncomputable def engOf (major func : Nat) (o : ExOp) : Option Instr :=
  match major, func with
  | 59, 0 => some (.avpush o)
  | 59, 1 => some (.avpop o)
  | 59, 2 => some (.avpushTry o)
  | 59, 3 => some (.avpopTry o)
  | 59, 4 => some (.avstat o)
  | 59, 5 => some (.avstamp o)
  | 60, 0 => some (.asmeth o)
  | 60, 1 => some (.assamp o)
  | 60, 2 => some (.asstart o)
  | 60, 3 => some (.asdrain o)
  | 60, 4 => some (.asabort o)
  | 60, 5 => some (.asstat o)
  | 61, 8 => some (.collAgat o)
  | 61, 24 => some (.collBcast o)
  | 61, 32 => some (.collWait o)
  | 61, k =>
    match collOpOfCode (k % 8), k / 8 with
    | some op, 0 => some (.collAred op o)
    | some op, 2 => some (.collRsct op o)
    | _, _ => none
  | _, _ => none

/-- The operands of a VR or VI word (R81). -/
def vopOf (w : Nat) : Option VOp :=
  match rmsOfCode (w / pow2 56 % 16), tyOfCode (w / pow2 9 % 32), tyOfCode (w / pow2 32 % 32) with
  | some r, some ta, tb =>
    let mk := fun src : VSrc =>
      (⟨BitVec.ofNat 4 (w / pow2 60), r, BitVec.ofNat 5 (w / pow2 51), decide (w / pow2 50 % 2 = 1),
        decide (w / pow2 49 % 2 = 1), BitVec.ofNat 6 (w / pow2 20), BitVec.ofNat 6 (w / pow2 14), ta, src⟩ : VOp)
    if w % 2 = 1 then some (mk (.vi (BitVec.ofNat 17 (w / pow2 32))))
    else tb.map (fun b => mk (.vr (BitVec.ofNat 6 (w / pow2 43)) (BitVec.ofNat 6 (w / pow2 37)) b))
  | _, _, _ => none

/-- The operands of an SQ word (R81); bits [34:32] are reserved. -/
def sqopOf (w : Nat) : Option SqOp :=
  match tyOfCode (w / pow2 55 % 32), tyOfCode (w / pow2 50 % 32), rmsOfCode (w / pow2 7 % 16) with
  | some ta, some tb, some r =>
    if w / pow2 32 % 8 = 0 then
      some ⟨BitVec.ofNat 4 (w / pow2 60), ta, tb, BitVec.ofNat 5 (w / pow2 45), BitVec.ofNat 5 (w / pow2 40),
        BitVec.ofNat 5 (w / pow2 35), BitVec.ofNat 6 (w / pow2 20), BitVec.ofNat 5 (w / pow2 15), r, BitVec.ofNat 7 w⟩
    else none
  | _, _, _ => none

/-- The operands of an ST word (R81). -/
def stopOf (w : Nat) : StOp :=
  ⟨BitVec.ofNat 32 (w / pow2 32), BitVec.ofNat 4 (w / pow2 22), BitVec.ofNat 5 (w / pow2 13),
    BitVec.ofNat 5 (w / pow2 8), BitVec.ofNat 6 (w / 4), BitVec.ofNat 2 w⟩

/-- The operands of an EX word (R81). -/
def exopOf (w : Nat) : ExOp :=
  ⟨BitVec.ofNat 5 (w / pow2 59), BitVec.ofNat 6 (w / pow2 53), BitVec.ofNat 21 (w / pow2 32),
    BitVec.ofNat 5 (w / pow2 21), BitVec.ofNat 5 (w / pow2 16), BitVec.ofNat 5 (w / pow2 11), BitVec.ofNat 5 w⟩

/-- The instruction that a two-parcel word of majors 0x31 to 0x3A encodes (R81, R83), before the operand rules. -/
def vectorFields (w : Nat) : Option Instr :=
  let major := w / pow2 26 % 64
  if major ≤ 0x36 ∨ major = 0x39 then (vopOf w).bind (vecOf major (w / 2 % 256))
  else if major ≤ 0x38 then (sqopOf w).bind (sqOf major (w / pow2 11 % 16))
  else strOf (w / pow2 18 % 16) (stopOf w)

/-- The instruction that a two-parcel word encodes (R81, R83), before the operand rules. -/
noncomputable def fields64 (w : Nat) : Option Instr :=
  if w / pow2 26 % 64 ≤ 0x3A then vectorFields w else engOf (w / pow2 26 % 64) (w / 32 % 64) (exopOf w)

/-- Apply the operand rules (R84). -/
def checked (i : Option Instr) : Except Reject Instr :=
  match i with
  | none => .error .unassigned
  | some i => if i.wf then .ok i else .error .badOperands

/-- Decode a one-parcel word. -/
def decode32 (w : Nat) : Except Reject Instr := checked (fields32 w)

/-- Decode a two-parcel word of majors 0x31 to 0x3A. -/
def decodeVector (w : Nat) : Except Reject Instr :=
  if w / pow2 26 % 64 ≤ 0x30 then .error .unassigned else checked (vectorFields w)

/-- Decode a two-parcel word. -/
noncomputable def decode64 (w : Nat) : Except Reject Instr :=
  if w / pow2 26 % 64 ≤ 0x30 then .error .unassigned else checked (fields64 w)

/-- Decode a convoy from its header and slot words (R80). -/
def decodeConvoy (hdr : Nat) (slots : List Word) : Except Reject Instr :=
  if hdr % 32 = 0 then
    checked (some (.convoy (BitVec.ofNat 3 (hdr / pow2 23)) (BitVec.ofNat 18 (hdr / 32)) slots))
  else .error .badOperands

/-- The major opcode of a first parcel, which alone fixes the length (R76). -/
def majorOf (p : Nat) : Nat := p / pow2 26 % 64

/-- The parcels of the instruction whose first parcel is `p` (R76): the major alone fixes the length, so a convoy header has N
slots whatever N is. -/
def parcelCount (p : Nat) : Nat :=
  if majorOf p < 0x30 then 1
  else if majorOf p = 0x30 then 1 + 2 * (p / pow2 23 % 8)
  else 2

/-- The 64-bit words of a parcel list, low parcel first (R77). -/
def pairWords : List Nat → List Word
  | a :: b :: r => wordOf (a + b * pow2 32) :: pairWords r
  | _ => []

/-- Decode the parcels of one instruction. -/
noncomputable def decodeParcels : List Nat → Except Reject Instr
  | [] => .error .tooShort
  | p :: r =>
    if r.length + 1 < parcelCount p then .error .tooShort
    else if majorOf p < 0x30 then decode32 p
    else if majorOf p = 0x30 then decodeConvoy p (pairWords (r.take (parcelCount p - 1)))
    else
      match r with
      | q :: _ => decode64 (p + q * pow2 32)
      | [] => .error .tooShort

/-- The parcels of a byte list, little-endian (R76). -/
def parcelsOf : List Byte → List Nat
  | a :: b :: c :: d :: r => (a.toNat + b.toNat * 256 + c.toNat * 65536 + d.toNat * 16777216) :: parcelsOf r
  | _ => []

/-- Decode the instruction at the head of a byte list, with the bytes that follow it. -/
noncomputable def decodeBytes (bs : List Byte) : Except Reject (Instr × List Byte) :=
  match parcelsOf (bs.take 4) with
  | [] => .error .tooShort
  | p :: _ => (decodeParcels (parcelsOf (bs.take (4 * parcelCount p)))).map (fun i => (i, bs.drop (4 * parcelCount p)))

/-- The bits that an ILLEGAL trap reports for the parcels of one instruction (R40, R84): a two-parcel word whole, else
the first parcel. -/
def illegalBits : List Nat → Word
  | [] => 0
  | [p] => wordOf p
  | p :: q :: _ => if 0x31 ≤ majorOf p then wordOf (p + q * pow2 32) else wordOf p

/-- A format A word (R79). -/
def fmtA (major : Nat) (rd ra rb : SReg) (f : Nat) : Nat :=
  major * pow2 26 + rd.toNat * pow2 21 + ra.toNat * pow2 16 + rb.toNat * pow2 11 + f

/-- A format I, M or B word (R79). -/
def fmtI (major : Nat) (rd ra : SReg) (imm : Nat) : Nat :=
  major * pow2 26 + rd.toNat * pow2 21 + ra.toNat * pow2 16 + imm

def bitOf (b : Bool) : Nat := if b then 1 else 0

/-- A VR or VI word (R81). -/
def encV (major f : Nat) (o : VOp) : Nat :=
  o.mask.toNat * pow2 60 + rmsCode o.rms * pow2 56 + o.ss.toNat * pow2 51 + bitOf o.mod1 * pow2 50
    + bitOf o.mod0 * pow2 49
    + (match o.src with
      | .vr vb vc tb => vb.toNat * pow2 43 + vc.toNat * pow2 37 + tyCode tb * pow2 32
      | .vi imm => imm.toNat * pow2 32)
    + major * pow2 26 + o.vd.toNat * pow2 20 + o.va.toNat * pow2 14 + tyCode o.ta * pow2 9 + f * 2
    + (match o.src with | .vr _ _ _ => 0 | .vi _ => 1)

/-- An SQ word (R81). -/
def encSq (major f : Nat) (o : SqOp) : Nat :=
  o.mask.toNat * pow2 60 + tyCode o.ta * pow2 55 + tyCode o.tb * pow2 50 + o.sa.toNat * pow2 45 + o.sb.toNat * pow2 40
    + o.sc.toNat * pow2 35 + major * pow2 26 + o.vd.toNat * pow2 20 + o.gm1.toNat * pow2 15 + f * pow2 11
    + rmsCode o.rms * pow2 7 + o.sqmod.toNat

/-- An ST word (R81). -/
def encSt (f : Nat) (o : StOp) : Nat :=
  o.imm.toNat * pow2 32 + 0x3A * pow2 26 + o.slot.toNat * pow2 22 + f * pow2 18 + o.sa.toNat * pow2 13
    + o.sb.toNat * pow2 8 + o.vd.toNat * 4 + o.smod.toNat

/-- An EX word (R81). -/
def encEx (major f : Nat) (o : ExOp) : Nat :=
  o.sc.toNat * pow2 59 + o.va.toNat * pow2 53 + o.imm.toNat * pow2 32 + major * pow2 26 + o.sd.toNat * pow2 21
    + o.sa.toNat * pow2 16 + o.sb.toNat * pow2 11 + f * 32 + o.emod.toNat

/-- The bits that a trap reports for an EX word. -/
def exBits (major f : Nat) (o : ExOp) : Word := wordOf (encEx major f o)

/-- The word of a one-parcel instruction. -/
def enc32 : Instr → Option Nat
  | .add rd ra rb => some (fmtA 1 rd ra rb 0)
  | .sub rd ra rb => some (fmtA 1 rd ra rb 1)
  | .and rd ra rb => some (fmtA 1 rd ra rb 2)
  | .or rd ra rb => some (fmtA 1 rd ra rb 3)
  | .xor rd ra rb => some (fmtA 1 rd ra rb 4)
  | .sll rd ra rb => some (fmtA 1 rd ra rb 5)
  | .srl rd ra rb => some (fmtA 1 rd ra rb 6)
  | .sra rd ra rb => some (fmtA 1 rd ra rb 7)
  | .slt rd ra rb => some (fmtA 1 rd ra rb 8)
  | .sltu rd ra rb => some (fmtA 1 rd ra rb 9)
  | .min rd ra rb => some (fmtA 1 rd ra rb 10)
  | .max rd ra rb => some (fmtA 1 rd ra rb 11)
  | .minu rd ra rb => some (fmtA 1 rd ra rb 12)
  | .maxu rd ra rb => some (fmtA 1 rd ra rb 13)
  | .mul rd ra rb => some (fmtA 2 rd ra rb 0)
  | .mulh rd ra rb => some (fmtA 2 rd ra rb 1)
  | .mulhu rd ra rb => some (fmtA 2 rd ra rb 2)
  | .mulhsu rd ra rb => some (fmtA 2 rd ra rb 3)
  | .div rd ra rb => some (fmtA 2 rd ra rb 4)
  | .divu rd ra rb => some (fmtA 2 rd ra rb 5)
  | .rem rd ra rb => some (fmtA 2 rd ra rb 6)
  | .remu rd ra rb => some (fmtA 2 rd ra rb 7)
  | .clz rd ra => some (fmtA 3 rd ra 0 0)
  | .ctz rd ra => some (fmtA 3 rd ra 0 1)
  | .popc rd ra => some (fmtA 3 rd ra 0 2)
  | .brev rd ra => some (fmtA 3 rd ra 0 3)
  | .bswap rd ra => some (fmtA 3 rd ra 0 4)
  | .rotl rd ra rb => some (fmtA 3 rd ra rb 5)
  | .rotr rd ra rb => some (fmtA 3 rd ra rb 6)
  | .addx rd ra rb k => some (fmtA 4 rd ra rb k.toNat)
  | .subx rd ra rb k => some (fmtA 4 rd ra rb (8 + k.toNat))
  | .addi rd ra imm => some (fmtI 5 rd ra imm.toNat)
  | .andi rd ra imm => some (fmtI 6 rd ra imm.toNat)
  | .ori rd ra imm => some (fmtI 7 rd ra imm.toNat)
  | .xori rd ra imm => some (fmtI 8 rd ra imm.toNat)
  | .slti rd ra imm => some (fmtI 9 rd ra imm.toNat)
  | .sltiu rd ra imm => some (fmtI 10 rd ra imm.toNat)
  | .slli rd ra sh => some (fmtI 11 rd ra (0 + sh.toNat))
  | .srli rd ra sh => some (fmtI 11 rd ra (16384 + sh.toNat))
  | .srai rd ra sh => some (fmtI 11 rd ra (32768 + sh.toNat))
  | .lui rd imm => some (fmtI 12 rd 0 imm.toNat)
  | .auipc rd imm => some (fmtI 13 rd 0 imm.toNat)
  | .beq ra rb off => some (fmtI 14 ra rb off.toNat)
  | .bne ra rb off => some (fmtI 15 ra rb off.toNat)
  | .blt ra rb off => some (fmtI 16 ra rb off.toNat)
  | .bge ra rb off => some (fmtI 17 ra rb off.toNat)
  | .bltu ra rb off => some (fmtI 18 ra rb off.toNat)
  | .bgeu ra rb off => some (fmtI 19 ra rb off.toNat)
  | .j off => some (20 * pow2 26 + off.toNat)
  | .jal off => some (21 * pow2 26 + off.toNat)
  | .jalr rd ra imm => some (fmtI 22 rd ra imm.toNat)
  | .strip ra ps off => some (fmtI 23 ra ps off.toNat)
  | .fadd f r rd ra rb => some (fmtA 25 rd ra rb (rmsCode r * 128 + ffmtCode f * 32 + 0))
  | .fsub f r rd ra rb => some (fmtA 25 rd ra rb (rmsCode r * 128 + ffmtCode f * 32 + 1))
  | .fmul f r rd ra rb => some (fmtA 25 rd ra rb (rmsCode r * 128 + ffmtCode f * 32 + 2))
  | .fdiv f r rd ra rb => some (fmtA 25 rd ra rb (rmsCode r * 128 + ffmtCode f * 32 + 3))
  | .fsqrt f r rd ra => some (fmtA 25 rd ra 0 (rmsCode r * 128 + ffmtCode f * 32 + 4))
  | .fmin f rd ra rb => some (fmtA 25 rd ra rb (ffmtCode f * 32 + 5))
  | .fmax f rd ra rb => some (fmtA 25 rd ra rb (ffmtCode f * 32 + 6))
  | .fmadd f r rd ra rb => some (fmtA 25 rd ra rb (rmsCode r * 128 + ffmtCode f * 32 + 7))
  | .fnmsub f r rd ra rb => some (fmtA 25 rd ra rb (rmsCode r * 128 + ffmtCode f * 32 + 8))
  | .fcvt d s sat r rd ra => some (fmtI 26 rd ra (cvtCode s * 2048 + rmsCode r * 128 + cvtCode d * 2 + (if sat then 1 else 0)))
  | .fmvFs rd ra => some (fmtA 26 rd ra 0 (16 + 0))
  | .fmvSf rd ra => some (fmtA 26 rd ra 0 (16 + 1))
  | .fmvFf rd ra => some (fmtA 26 rd ra 0 (16 + 2))
  | .fsgn f rd ra rb => some (fmtA 26 rd ra rb (32 + ffmtCode f * 4 + 0))
  | .fsgnN f rd ra rb => some (fmtA 26 rd ra rb (32 + ffmtCode f * 4 + 1))
  | .fsgnX f rd ra rb => some (fmtA 26 rd ra rb (32 + ffmtCode f * 4 + 2))
  | .feq f rd ra rb => some (fmtA 26 rd ra rb (48 + ffmtCode f * 4))
  | .flt f rd ra rb => some (fmtA 26 rd ra rb (64 + ffmtCode f * 4))
  | .fle f rd ra rb => some (fmtA 26 rd ra rb (80 + ffmtCode f * 4))
  | .fclass f rd ra => some (fmtA 26 rd ra 0 (96 + ffmtCode f * 4))
  | .lb rd ra off => some (fmtI 27 rd ra (0 + off.toNat))
  | .lbu rd ra off => some (fmtI 27 rd ra (8192 + off.toNat))
  | .lh rd ra off => some (fmtI 27 rd ra (16384 + off.toNat))
  | .lhu rd ra off => some (fmtI 27 rd ra (24576 + off.toNat))
  | .lw rd ra off => some (fmtI 27 rd ra (32768 + off.toNat))
  | .lwu rd ra off => some (fmtI 27 rd ra (40960 + off.toNat))
  | .ld rd ra off => some (fmtI 27 rd ra (49152 + off.toNat))
  | .fld rd ra off => some (fmtI 27 rd ra (57344 + off.toNat))
  | .sb rd ra off => some (fmtI 28 rd ra (0 + off.toNat))
  | .sh rd ra off => some (fmtI 28 rd ra (8192 + off.toNat))
  | .sw rd ra off => some (fmtI 28 rd ra (16384 + off.toNat))
  | .sd rd ra off => some (fmtI 28 rd ra (24576 + off.toNat))
  | .fsd rd ra off => some (fmtI 28 rd ra (32768 + off.toNat))
  | .amo op wide ord sc rd ra rb => some (fmtA 29 rd ra rb (scopeCode sc * 256 + ordCode ord * 64 + (if wide then 32 else 0) + amoCode op))
  | .cas wide ord sc rd ra rb => some (fmtA 29 rd ra rb (scopeCode sc * 256 + ordCode ord * 64 + (if wide then 32 else 0) + 9))
  | .ldAcq wide sc rd ra => some (fmtA 29 rd ra 0 (scopeCode sc * 256 + 1 * 64 + (if wide then 32 else 0) + 10))
  | .stRel wide sc ra rb => some (fmtA 29 0 ra rb (scopeCode sc * 256 + 2 * 64 + (if wide then 32 else 0) + 11))
  | .fence sc => some (fmtA 30 0 0 0 (scopeCode sc * 256 + 0))
  | .fenceAcq sc => some (fmtA 30 0 0 0 (scopeCode sc * 256 + 1))
  | .fenceRel sc => some (fmtA 30 0 0 0 (scopeCode sc * 256 + 2))
  | .fenceI => some (fmtA 30 0 0 0 16)
  | .bar sc ra rb => some (fmtA 30 0 ra rb (scopeCode sc * 256 + 32))
  | .barArr sc rd ra rb => some (fmtA 30 rd ra rb (scopeCode sc * 256 + 48))
  | .barWt sc ra rb => some (fmtA 30 0 ra rb (scopeCode sc * 256 + 64))
  | .vwait c sc rd ra rb => some (fmtA 30 rd ra rb (scopeCode sc * 256 + 80 + condCode c))
  | .qpoint => some (fmtA 30 0 0 0 96)
  | .pause => some (fmtA 30 0 0 0 112)
  | .eret => some (fmtA 31 0 0 0 0)
  | .wfi => some (fmtA 31 0 0 0 1)
  | .ctxsave ra => some (fmtA 31 0 ra 0 2)
  | .ctxrest ra => some (fmtA 31 0 ra 0 3)
  | .xlinvVa ra rb => some (fmtA 31 0 ra rb 4)
  | .xlinvAs rb => some (fmtA 31 0 0 rb 5)
  | .xlinvAll => some (fmtA 31 0 0 0 6)
  | .shoot ra => some (fmtA 31 0 ra 0 7)
  | .csrr rd csr => some (fmtI 32 rd 0 csr.toNat)
  | .csrw rd ra csr => some (fmtI 32 rd ra (4096 + csr.toNat))
  | .csrs rd ra csr => some (fmtI 32 rd ra (8192 + csr.toNat))
  | .csrc rd ra csr => some (fmtI 32 rd ra (12288 + csr.toNat))
  | .trap imm => some (fmtI 33 0 0 imm.toNat)
  | .tspawnCore rd ra => some (fmtA 34 rd ra 0 0)
  | .tspawnDie rd ra => some (fmtA 34 rd ra 0 1)
  | .tspawnSwap rd ra => some (fmtA 34 rd ra 0 2)
  | .texit ra => some (fmtA 34 0 ra 0 3)
  | .lreq rd ra rb => some (fmtA 34 rd ra rb 4)
  | .lrel rd ra => some (fmtA 34 rd ra 0 5)
  | .vgrant rd ra => some (fmtA 34 rd ra 0 6)
  | .lpub ra => some (fmtA 34 0 ra 0 7)
  | .lbind rd ra rb => some (fmtA 34 rd ra rb 8)
  | .tyield rd => some (fmtA 34 rd 0 0 9)
  | .semWaitGe rd ra rb => some (fmtA 35 rd ra rb 0)
  | .semSig rd ra rb => some (fmtA 35 rd ra rb 1)
  | .semSigAdd rd ra rb => some (fmtA 35 rd ra rb 17)
  | .launch rd ra => some (fmtA 35 rd ra 0 2)
  | .copy rd ra => some (fmtA 35 rd ra 0 3)
  | .irq ra => some (fmtA 35 0 ra 0 4)
  | .irqHart ra rb => some (fmtA 35 0 ra rb 20)
  | .qsel rd ra => some (fmtA 35 rd ra 0 5)
  | _ => none

/-- The word of a two-parcel instruction. -/
def enc64 : Instr → Option Nat
  | .vadd o => some (encV 49 0 o)
  | .vsub o => some (encV 49 1 o)
  | .vrsub o => some (encV 49 2 o)
  | .vmul o => some (encV 49 3 o)
  | .vmulh o => some (encV 49 4 o)
  | .vdiv o => some (encV 49 5 o)
  | .vrem o => some (encV 49 6 o)
  | .vmin o => some (encV 49 7 o)
  | .vmax o => some (encV 49 8 o)
  | .vand o => some (encV 49 9 o)
  | .vor o => some (encV 49 10 o)
  | .vxor o => some (encV 49 11 o)
  | .vsll o => some (encV 49 12 o)
  | .vsrl o => some (encV 49 13 o)
  | .vsra o => some (encV 49 14 o)
  | .vmacc o => some (encV 49 15 o)
  | .vabs o => some (encV 49 16 o)
  | .vclz o => some (encV 49 17 o)
  | .vpopc o => some (encV 49 18 o)
  | .vmv o => some (encV 49 19 o)
  | .vmerge o => some (encV 49 20 o)
  | .vid o => some (encV 49 21 o)
  | .vslide1Up o => some (encV 49 22 o)
  | .vslide1Dn o => some (encV 49 23 o)
  | .vfadd o => some (encV 50 0 o)
  | .vfsub o => some (encV 50 1 o)
  | .vfmul o => some (encV 50 2 o)
  | .vfdiv o => some (encV 50 3 o)
  | .vfsqrt o => some (encV 50 4 o)
  | .vfmin o => some (encV 50 5 o)
  | .vfmax o => some (encV 50 6 o)
  | .vfmadd o => some (encV 50 7 o)
  | .vfnmsub o => some (encV 50 8 o)
  | .vfsgn o => some (encV 50 9 o)
  | .vfsgnN o => some (encV 50 10 o)
  | .vfsgnX o => some (encV 50 11 o)
  | .vfclass o => some (encV 50 12 o)
  | .vcvt o => some (encV 50 13 o)
  | .mand o => some (encV 51 16 o)
  | .mor o => some (encV 51 17 o)
  | .mxor o => some (encV 51 18 o)
  | .mandn o => some (encV 51 19 o)
  | .mpopc o => some (encV 51 20 o)
  | .mfirst o => some (encV 51 21 o)
  | .mfill o => some (encV 51 22 o)
  | .miota o => some (encV 51 23 o)
  | .vslideup o => some (encV 52 0 o)
  | .vslidedn o => some (encV 52 1 o)
  | .vrgather o => some (encV 52 2 o)
  | .vcompress o => some (encV 52 3 o)
  | .vext o => some (encV 52 4 o)
  | .vins o => some (encV 52 5 o)
  | .vredsum o => some (encV 52 8 o)
  | .vredmax o => some (encV 52 9 o)
  | .vredmin o => some (encV 52 10 o)
  | .vredand o => some (encV 52 11 o)
  | .vredor o => some (encV 52 12 o)
  | .vredbs o => some (encV 52 13 o)
  | .vexp2 o => some (encV 53 0 o)
  | .vlog2 o => some (encV 53 1 o)
  | .vpenny o => some (encV 53 2 o)
  | .vrsqrt o => some (encV 53 3 o)
  | .vrecip o => some (encV 53 4 o)
  | .vtanh o => some (encV 53 5 o)
  | .vld o => some (encV 54 0 o)
  | .vst o => some (encV 54 1 o)
  | .vlds o => some (encV 54 2 o)
  | .vsts o => some (encV 54 3 o)
  | .vldx o => some (encV 54 4 o)
  | .vstx o => some (encV 54 5 o)
  | .vldseg o => some (encV 54 6 o)
  | .vstseg o => some (encV 54 7 o)
  | .akvmask o => some (encV 57 0 o)
  | .asmax o => some (encV 57 1 o)
  | .apexp o => some (encV 57 2 o)
  | .apv o => some (encV 57 3 o)
  | .afin o => some (encV 57 4 o)
  | .amode o => some (encV 57 5 o)
  | .vcmp c o => some (encV 51 (cmpCode c) o)
  | .vfcmp c o => some (encV 51 (8 + cmpCode c) o)
  | .mop o => some (encSq 55 0 o)
  | .mmkO o => some (encSq 55 1 o)
  | .mmkF o => some (encSq 55 2 o)
  | .mmksO o => some (encSq 55 3 o)
  | .mmksF o => some (encSq 55 4 o)
  | .mzero o => some (encSq 56 0 o)
  | .mcolGet o => some (encSq 56 1 o)
  | .mcolPut o => some (encSq 56 2 o)
  | .mdiagGet o => some (encSq 56 3 o)
  | .mdiagPut o => some (encSq 56 4 o)
  | .mdrain o => some (encSq 56 5 o)
  | .sld o => some (encSt 0 o)
  | .sst o => some (encSt 1 o)
  | .sldv o => some (encSt 2 o)
  | .sgather o => some (encSt 3 o)
  | .sscatter o => some (encSt 4 o)
  | .spaged o => some (encSt 5 o)
  | .sbar o => some (encSt 6 o)
  | .swp o => some (encSt 7 o)
  | .sres o => some (encSt 8 o)
  | .sresLoad o => some (encSt 8 o)
  | .sfill o => some (encSt 9 o)
  | .sfillM o => some (encSt 9 o)
  | .scancel o => some (encSt 10 o)
  | .sstat o => some (encSt 11 o)
  | .sstatSave o => some (encSt 11 o)
  | .avpush o => some (encEx 59 0 o)
  | .avpop o => some (encEx 59 1 o)
  | .avpushTry o => some (encEx 59 2 o)
  | .avpopTry o => some (encEx 59 3 o)
  | .avstat o => some (encEx 59 4 o)
  | .avstamp o => some (encEx 59 5 o)
  | .asmeth o => some (encEx 60 0 o)
  | .assamp o => some (encEx 60 1 o)
  | .asstart o => some (encEx 60 2 o)
  | .asdrain o => some (encEx 60 3 o)
  | .asabort o => some (encEx 60 4 o)
  | .asstat o => some (encEx 60 5 o)
  | .collAgat o => some (encEx 61 8 o)
  | .collBcast o => some (encEx 61 24 o)
  | .collWait o => some (encEx 61 32 o)
  | .collAred op o => some (encEx 61 (collOpCode op) o)
  | .collRsct op o => some (encEx 61 (16 + collOpCode op) o)
  | _ => none

/-- The parcels of a 64-bit word. -/
def wordParcels (w : Nat) : List Nat := [w % pow2 32, w / pow2 32 % pow2 32]

/-- The parcels of an instruction, in address order; none for an event. -/
def encode (i : Instr) : Option (List Nat) :=
  match i with
  | .convoy n units slots =>
    some ((0x30 * pow2 26 + n.toNat * pow2 23 + units.toNat * 32) :: (slots.map (fun w => wordParcels w.toNat)).flatten)
  | i =>
    match enc32 i with
    | some w => some [w]
    | none => (enc64 i).map wordParcels

/-- The bits that a trap reports for an instruction (R40): those of `illegalBits`; 0 for an event. -/
def instrBits (i : Instr) : Word :=
  match encode i with
  | some ps => illegalBits ps
  | none => 0

/-- The four bytes of a parcel, lowest address first. -/
def parcelBytes (p : Nat) : List Byte :=
  [BitVec.ofNat 8 p, BitVec.ofNat 8 (p / 256), BitVec.ofNat 8 (p / 65536), BitVec.ofNat 8 (p / 16777216)]

/-- `n` bytes of a number, lowest first. -/
def bytesOfNat : Nat → Nat → List Byte
  | 0, _ => []
  | n + 1, x => BitVec.ofNat 8 x :: bytesOfNat n (x / 256)

/-- The bytes of an opcode-table word: its `nbits` bits and zeros up to the longest length, that of a convoy header with
N = 7 (60 bytes). -/
def tableBytes (nbits w : Nat) : List Byte := bytesOfNat 60 (w % pow2 nbits)

/-- What the decoder reads from an instruction whose bits are `w`, numbered as the opcode table numbers them. -/
noncomputable def decodeTableWord (nbits w : Nat) : Option Instr :=
  match decodeBytes (tableBytes nbits w) with
  | .ok r => some r.1
  | .error _ => none

end Sys2Proof
end

