-- ==== Sys2Proof/Config.lean ====
section
/-! DEFINITION. What an implementation fixes (fuses, spec/01_hart.md R39, spec/00_scope.md R1) and the free values that
the spec leaves open: constants without a body. -/

namespace Sys2Proof.Config

/-- The boot vector that the fuses give `mtvec` at reset (R39). -/
opaque bootVector : Word

/-- Clocks that pass in a step, by step number and die (dies 0 to 7, I/O dies 8 and 9): the spec fixes no duration of a
step that results depend on. -/
opaque stepCycles : Nat → Nat → Nat

/-- Whether the translation cache of a core (or command hart) still holds a cached translation at a step: R306 gives a
capacity and no replacement rule. -/
opaque cacheKeeps : Nat → Nat → Bool

/-- The first word of the error record that a junction shutdown logs, by step number: R417 names the record and not its
content. -/
opaque shutdownWord : Nat → Word

/-- The first word of the error record of a completion add that nothing backs, by step number: R311 names the record's BASE
and not its unit. -/
opaque discardWord : Nat → Word

/-- The HBM row of its die that holds a physical address, the bank that holds a row of a die, and the spare rows of a bank: the
spec names rows and banks (R318, R321) and not their layout. -/
opaque hbmRow : Nat → Nat
opaque hbmBank : Nat → Nat → Nat
opaque rowSpares : Nat

/-- The lines of an HBM row and of a pseudo-channel, by die and number, and the stack of a pseudo-channel. -/
opaque hbmRowLines : Nat → Nat → List Nat
opaque hbmChannelLines : Nat → Nat → List Nat
opaque hbmStack : Nat → Nat → Nat

/-- The rank that folds a reducing collective and sends its results, by communicator and sequence number, modulo the number of
ranks: R430 fixes the results and not who forms them. -/
opaque foldRank : Nat → Nat → Nat

/-- What `ctxsave` reads, by row and column, where a restored HREG names a row above 47: the spec has no such rows. -/
opaque absentCell : Nat → Nat → Word

/-- Spare cores per die at reset (R1, R321). -/
def spareCores : Nat := 4

/-- Active cores per die at reset (R1). -/
def activeCores : Nat := 64

end Sys2Proof.Config
end

