-- ==== Sys2Proof/Machine/Sparse.lean ====
section
/-! DEFINITION. Sparse data by key: a list of (key, value) pairs in one canonical form (keys strictly rising, no
value equal to what an unlisted key reads as). Memory, register files and every table of the machine use it, so
that equal contents are equal data. -/

namespace Sys2Proof.Machine

/-- Key and value pairs; what an unlisted key reads as is an argument of every operation. -/
abbrev Sparse (α : Type) := List (Nat × α)

/-- The value at a key; `d` where the key is not listed. -/
def sget {α : Type} (d : α) : Sparse α → Nat → α
  | [], _ => d
  | (k, v) :: m, i => if i = k then v else sget d m i

/-- Write `v` at key `i`, keeping the canonical form: writing the unlisted value removes the entry. -/
def sset {α : Type} [DecidableEq α] (d : α) : Sparse α → Nat → α → Sparse α
  | [], i, v => if v = d then [] else [(i, v)]
  | (k, w) :: m, i, v =>
    if i = k then (if v = d then sset d m i v else (i, v) :: m)
    else if v = d then (k, w) :: sset d m i v
    else if i < k then (i, v) :: (k, w) :: m
    else (k, w) :: sset d m i v

/-- Write `v` at key `i` and list it, whatever it is: for values whose unlisted form holds a constant without a body. -/
def sput {α : Type} : Sparse α → Nat → α → Sparse α
  | [], i, v => [(i, v)]
  | (k, w) :: m, i, v =>
    if i = k then (i, v) :: m
    else if i < k then (i, v) :: (k, w) :: m
    else (k, w) :: sput m i v

/-- Every listed key is above `lo` and the keys rise strictly, with no value equal to `d` of its key. -/
def swfFrom {α : Type} [DecidableEq α] (d : Nat → α) : Nat → Sparse α → Bool
  | _, [] => true
  | lo, (k, v) :: m => decide (lo ≤ k) && !decide (v = d k) && swfFrom d (k + 1) m

/-- The canonical form. -/
def swf {α : Type} [DecidableEq α] (d : Nat → α) (m : Sparse α) : Bool := swfFrom d 0 m

/-- The keys listed. -/
def skeys {α : Type} (m : Sparse α) : List Nat := m.map (fun p => p.1)

end Sys2Proof.Machine
end

