-- ==== Sys2Proof/Machine/State.lean ====
section
/-! DEFINITION. The state of the whole package as plain data: every hart, core, die and I/O die, the memories, and the
model's own schedule. INVENTORY.md lists each field with the rule that names it. -/

namespace Sys2Proof.Machine

/-- Bytes of a memory, in the canonical form of `swf`. -/
abbrev Memory := List Host.Cell

/-- What a byte of memory that nothing has written reads as (log 1; R215 for the Vault). -/
def unlistedByte : Byte := 0

/-- The canonical form: addresses strictly rising, no entry equal to the unlisted byte. -/
def Memory.wf (m : Memory) : Bool := swf (fun _ => unlistedByte) m

/-- Privilege levels (R29). -/
inductive Level where
  | u | s | m
  deriving DecidableEq, Repr

/-- Whether a hart runs (R269, R41, R394). -/
inductive RunState where
  | running | idle | halted
  deriving DecidableEq, Repr

/-- The boundary instructions of R271 with what their commit needs. -/
inductive BoundaryKind where
  | strip (ra : SReg) (ps : BitVec 5) (off : BitVec 16)
  | vgrant (rd ra : SReg)
  | swap (rd ra : SReg)
  deriving DecidableEq, Repr

/-- One entry of a command queue (R399). -/
inductive QueueEntry where
  | tasks (die : Nat) (count : Nat) (rec : Nat) (sem : Word)
  | pipeline (die slot : Nat) (rec : Nat) (sem : Word)
  | copy (src dst len : Nat) (sem : Word)
  deriving DecidableEq, Repr

/-- What a hart waits for. The matching event of the opcode table, or the hart's own next turn, ends the wait. -/
inductive Hold where
  | none
  | retry
  | pause
  | wfi
  | line (core line : Nat) (full : Bool)
  | landed (core row cluster : Nat)
  | rows (busy : BitVec 48)
  | bar (sc : Scope) (barrier : Nat) (phase : Word)
  | vwait (c : WaitCond) (sc : Scope) (rd : SReg) (va operand : Word)
  | avenue (push : Bool) (handle : BitVec 16) (va : Word) (sd : SReg)
  | boundary (k : BoundaryKind)
  | xlinv
  | qpoint
  | enqueue (io q : Nat) (e : QueueEntry) (rd : SReg)
  | exchange (target group bytes : Nat) (offs : List Nat)
  deriving DecidableEq, Repr

/-- One set of trap registers (R39). -/
structure TrapRegs where
  vec : Word
  cause : Word
  val : Word
  pc : Word
  vsi : BitVec 13
  scratch : Word
  deriving DecidableEq, Repr

/-- `hstat` without PRIV (R38). -/
structure HStat where
  mnest : Bool
  snest : Bool
  ceff : Bool
  mpp : Level
  mpie : Bool
  mie : Bool
  spp : Bool
  spie : Bool
  sie : Bool
  deriving DecidableEq, Repr

/-- Vector configuration, arithmetic mode and the task's own user registers (R32, R35, R37). -/
structure VConf where
  vl : BitVec 11
  vew : BitVec 2
  vsi : BitVec 13
  wbase : BitVec 36
  space : BitVec 2
  fmode : BitVec 16
  srseed : Word
  avh : BitVec 16
  deriving DecidableEq, Repr

/-- `hwm` (R33). -/
structure Hwm where
  any : Bool
  hreg : BitVec 6
  hvb : BitVec 14
  deriving DecidableEq, Repr

/-- A partition's pending record for a pod barrier (R432). -/
inductive PodRecord where
  | arrivalSent
  | joined (phase : Word)
  | withdrawSent (phase : Option Word)
  | withdrawn
  | completed (phase : Word)
  deriving DecidableEq, Repr

/-- An error of the quad exchange that the hart's next packet for a target and a group meets (R299, log 80). -/
structure ExchError where
  target : Nat
  group : Nat
  err : PacketError
  deriving DecidableEq, Repr

/-- The execution of an instruction that goes on after a stall: the index at which it began, and the multipliers that a drain has
read, by column (R211). -/
structure Begun where
  idx : Nat
  mults : List (Nat × Nat)
  deriving DecidableEq, Repr

/-- One hart (R17), compute or command. `begun` is the index at which the execution of a stalled instruction began, and `kept`
the rows that a stalled update or drain holds (R200, R202); both end with that execution. `counted` is set once FORCED has
gained 1 for a partition that the watchdog forced (R310). `parked` counts, for a partition without a task that took MCHECK, the
entries to M since: the return from the handler makes it idle again (R269). -/
structure Hart where
  pc : Word
  level : Level
  sregs : Sparse Word
  fregs : Sparse Word
  mregs : Sparse (BitVec 1024)
  conf : VConf
  grant : BitVec 8
  hwm : Hwm
  prio : BitVec 3
  stat : HStat
  strap : TrapRegs
  mtrap : TrapRegs
  run : RunState
  hold : Hold
  parked : Option Nat
  begun : Option Begun
  kept : BitVec 48
  exch : Option ExchError
  stopAt : Option Nat
  task : Option Nat
  root : BitVec 40
  asid : BitVec 16
  preempt : Bool
  offer : Option Word
  mcheck : Option Nat
  quiet : Bool
  xlinvWait : Bool
  forced : Bool
  counted : Bool
  updBusy : BitVec 48
  drainBusy : BitVec 48
  pod : Sparse (Option PodRecord)
  cq : BitVec 3
  xq : BitVec 4
  stopReq : Bool
  deriving DecidableEq, Repr

/-- A cached translation (R306): the page's virtual base and byte size, its physical base, and its permissions. -/
structure TlbEntry where
  asid : BitVec 16
  vbase : Nat
  size : Nat
  pbase : Nat
  sizeCode : Nat
  glob : Bool
  user : Bool
  x : Bool
  w : Bool
  r : Bool
  noat : Bool
  deriving DecidableEq, Repr

/-- A posted removal request (R307, R312); `mig` numbers the die whose migration posted it, and `posted` is the clock of
the core's die when it was queued (R310). -/
structure ShootReq where
  op : Nat
  asid : BitVec 16
  va : Nat
  done : Option Nat
  mig : Option Nat
  posted : Nat
  deriving DecidableEq, Repr

/-- The states of a stream slot (R219). -/
inductive SlotState where
  | idle | running | done | faulted
  deriving DecidableEq, Repr

/-- One entry of a fault batch record (R242). -/
structure FaultEntry where
  addr : Int
  kind : Nat
  access : Nat
  size : Nat
  nel : Nat
  deriving DecidableEq, Repr

/-- How the page-sorting unit translated one virtual page of a window (R238): its frame, the SIZE of the leaf and its G. -/
inductive PageResult where
  | ok (pa size : Nat) (glob : Bool)
  | fault (kind size : Nat)
  deriving DecidableEq, Repr

/-- One stream slot (R219 to R246). `block` is the parameter block and `residue` the residue mask, each as one
little-endian number. `next` to `hot` belong to the open window: the next element, the pages translated (R238), the table
entries read (R229), the faults met, the elements that faulted, and whether the cell being delivered took a marked element
(R157). `wrote` lists what the elements above a faulted one of the window have written: element, first physical bit and number of
bits; a slot that was saved and loaded has lost it (R234, R246). -/
structure Slot where
  state : SlotState
  bits : Word
  mbase : Word
  vbase : Word
  n : Nat
  s0 : Nat
  start : Nat
  winBase : Nat
  residue : Nat
  rvalid : Bool
  ovf : Bool
  root : BitVec 40
  asid : BitVec 16
  level : Level
  vl : BitVec 11
  vew : BitVec 2
  grant : BitVec 8
  block : Nat
  winOpen : Bool
  next : Nat
  pages : List (Nat × PageResult)
  table : List (Nat × Nat)
  faults : List FaultEntry
  fmask : Nat
  hot : Bool
  wrote : Option (List (Nat × Nat × Nat))
  deriving DecidableEq, Repr

/-- The states of a task table entry (R267). -/
inductive TaskState where
  | free | ready | running | suspended | exited
  deriving DecidableEq, Repr

/-- One task table entry (R265 to R267). `inst` names the pipeline slot and stage of an instance (R329); `popped` is set once it has
popped a record (R350); `core` the creating core of `tspawn.core`; `readySeq` and `readyAt` its order and decision count when it became READY (R340). -/
structure Task where
  state : TaskState
  gen : BitVec 32
  entry : Word
  arg : Word
  lkey : Word
  stack : Word
  done : Word
  cmin : Nat
  cpref : Nat
  tprio : BitVec 3
  tew : BitVec 2
  min : Nat
  pref : Nat
  producer : Option Nat
  bcur : Word
  phw : Word
  ceff : Bool
  started : Bool
  popped : Bool
  core : Option Nat
  inst : Option (Nat × Nat)
  readySeq : Nat
  readyAt : Nat
  deriving DecidableEq, Repr

/-- The dispatcher of a die (R340): bin B, count q, decisions so far and the order counter. -/
structure Dispatcher where
  bin : Nat
  q : Nat
  decisions : Nat
  seq : Nat
  deriving DecidableEq, Repr

/-- An avenue table entry (R323). -/
structure AvDesc where
  rsize : Nat
  cap : Nat
  deriving DecidableEq, Repr

/-- A stage table entry (R324). -/
structure StageDesc where
  entry : Word
  min : Nat
  max : Nat
  weight : Nat
  inmask : BitVec 32
  outmask : BitVec 32
  arg : Word
  stack : Word
  sstride : Nat
  cmin : Nat
  cpref : Nat
  tprio : BitVec 3
  tew : BitVec 2
  deadline : Nat
  dlthr : Nat
  deriving DecidableEq, Repr

/-- Where a pool core of a pipeline stands (R328, R345, R346), by its index within the die: it waits to join a stage,
serves one, or leaves one for another (or for none, when the pipeline stops). `todo` names the partitions of a serving
core whose instance has not started yet (R329). -/
inductive PoolPlace where
  | joining (stage : Nat)
  | serves (stage : Nat) (todo : BitVec 8)
  | leaving (src : Nat) (dst : Option Nat)
  deriving DecidableEq, Repr

/-- One pipeline slot (R327): generation, state 0 to 3, and the descriptor and tables read at START; `cores` is the CORES mask
(R322, R325). -/
structure Pipe where
  gen : BitVec 8
  state : Nat
  ivlog : Nat
  movemax : Nat
  asid : BitVec 16
  arena : Nat
  root : Word
  done : Nat
  cores : Nat
  avs : List AvDesc
  stages : List StageDesc
  pool : List (Nat × PoolPlace)
  allot : List Nat
  occ : List Nat
  target : List Nat
  deriving DecidableEq, Repr

/-- The states of a sample entry (R355). -/
inductive SampleState where
  | idle | held | run | finishing
  deriving DecidableEq, Repr

/-- Where an attempt of R357 stands: the work its sample does next, or the stage whose derivative it awaits. -/
inductive Attempt where
  | none
  | begin
  | request (j : Nat)
  | await (j : Nat)
  | finish
  deriving DecidableEq, Repr

/-- One sample entry (R355 to R367). The `fp32` fields hold codes. -/
structure Sample where
  state : SampleState
  t : BitVec 32
  h : BitVec 32
  tend : BitVec 32
  eprev : BitVec 32
  nacc : BitVec 32
  nrej : BitVec 32
  n : Nat
  method : BitVec 2
  kv : Bool
  y : Word
  hist : Word
  user : Word
  cstat : BitVec 32
  desc : Word
  root : BitVec 40
  asid : BitVec 16
  level : Level
  counter : BitVec 32
  tag : Option (BitVec 32)
  attempt : Attempt
  hcur : BitVec 32
  last : Bool
  faddr : Word
  deriving DecidableEq, Repr

/-- The Assayer of a die (R351 to R366): the binding (request avenue handle), work made ready in service order, held
requests, and completion records that wait. -/
structure Assayer where
  bound : Option (BitVec 16)
  work : List Nat
  requests : List Nat
  completions : List Nat
  requestsPushed : Word
  popped : Word
  unmatched : Word
  accepted : Word
  rejected : Word
  completionsPushed : Word
  deriving DecidableEq, Repr

/-- One migration request of R313 with its progress; `phase` is 0 posted, 1 its hold placed, 2 its removal posted. -/
structure Migration where
  size : Nat
  asid : BitVec 16
  va : Nat
  done : Nat
  ptea : Nat
  dst : Nat
  cores : Nat
  phase : Nat
  src : Nat
  line : Nat
  waiting : List Nat
  deriving DecidableEq, Repr

/-- One command queue (R398 to R402): `started` is set while its oldest entry runs; `made` counts the tasks that entry
has created, whose handles `handles` holds; `chunks` names the copy chunks performed. -/
structure Queue where
  entries : List QueueEntry
  head : BitVec 32
  failed : Option Nat
  started : Bool
  made : Nat
  handles : List Word
  chunks : Sparse Bool
  deriving DecidableEq, Repr

/-- The state of a collective at this package (R429 to R431): `sending` while a peer has yet to commit a chunk of it. -/
inductive CollState where
  | outstanding
  | sending
  | done
  | failed (sub : Nat) (value : Word)
  | retired (sub : Nat)
  deriving DecidableEq, Repr

/-- One collective issued here (R429), with the parameters and the context recorded at issue. -/
structure Coll where
  seq : BitVec 32
  kind : Nat
  op : Nat
  ty : Nat
  src : Word
  dst : Word
  count : Nat
  rootRank : Nat
  hart : Nat
  root : BitVec 40
  asid : BitVec 16
  level : Level
  st : CollState
  deriving DecidableEq, Repr

/-- A frame that this package sent and holds until it is answered (R424); `unsent` while no port is up to carry it (R420). -/
structure HeldFrame where
  frame : Frame
  refused : Bool
  unsent : Bool
  deriving DecidableEq, Repr

/-- One barrier (R132). -/
structure Barrier where
  phase : Word
  arrived : Nat
  expected : Nat
  deriving DecidableEq, Repr

/-- A tracked error unit (R318): the reporting die, the kind and the unit's number there, START and n of its window, and
whether it is lasting. -/
structure Tracked where
  die : Nat
  kind : ErrUnit
  unit : Nat
  start : Nat
  n : Nat
  lasting : Bool
  deriving DecidableEq, Repr

/-- Marks and per-line or per-group bits, by key: HBM lines by address/128, Vault lines by core·2^17 + line, cells by
core·6144 + row·128 + column, landed bits by (core·48 + row)·8 + cluster. An unlisted line is full and unmarked, an
unlisted group landed (R215). -/
structure Marks where
  mem : Sparse Bool
  hostMem : Sparse Bool
  vault : Sparse Bool
  cell : Sparse Bool
  empty : Sparse Bool
  unlanded : Sparse Bool
  deriving DecidableEq, Repr

/-- State of the cores, by core number 0 to 511 (`spareCluster` is set once the spare is in use; a command hart's translation cache has number 512 + ID, that of die d's Assayer 520 + d). -/
structure Cores where
  lpart : Sparse Word
  zeroing : Sparse (BitVec 8)
  badCluster : Sparse (BitVec 8)
  spareCluster : Sparse Bool
  dead : Sparse Bool
  tlb : Sparse (List TlbEntry)
  shootQ : Sparse (List ShootReq)
  extQ : Sparse (List Nat)
  extWait : Sparse (List Nat)
  cells : Sparse Word
  deriving DecidableEq, Repr

/-- State of the compute dies: tasks by die·4096 + slot, pipes by die·8 + k, avenue counters by (die·8 + k)·32 + a,
deadline counts and samples likewise. `sparing` lists the units whose sparing has started and is not applied, `spareUsed`
counts the spares taken, by the set of spares (R321). -/
structure Dies where
  tasks : Sparse Task
  disp : Sparse Dispatcher
  pipes : Sparse Pipe
  avHead : Sparse Nat
  avTail : Sparse Nat
  assayer : Sparse Assayer
  methods : Sparse (Option Nat)
  samples : Sparse Sample
  migs : Sparse (List Migration)
  tracked : List Tracked
  sparing : List SparableUnit
  spareUsed : Sparse Nat
  throttled : Sparse Bool
  deriving DecidableEq, Repr

/-- What Nargen powers (R417): every die runs, the compute dies are without power, or every die is held in reset. -/
inductive Power where
  | on | computeOff | heldInReset
  deriving DecidableEq, Repr

/-- State of the package: I/O dies, host link, fabric and barriers. `refusedIn` holds the refused frames that wait
for a RETRY (R425), `owedIn` every frame that has come and has yet to be performed, in order of arrival (R383), `portBytes`
the chunk bytes of a port that make no whole KiB yet (R419), `writers` the masters whose register writes the next such events
are, oldest first (R412), `ckDir` the direction of the checkpoint copy under way, and `ckParts` the tier's addresses of the
parts of its chunk that are not over (R414). -/
structure Package where
  power : Power
  queues : Sparse Queue
  barriers : Sparse Barrier
  podArrived : Sparse Barrier
  podMembers : List (Nat × Nat × Nat × Word)
  podCopies : Sparse Word
  colls : Sparse (List Coll)
  collSeq : Sparse (BitVec 32)
  held : List HeldFrame
  refusedIn : List Frame
  owedIn : List Frame
  portBytes : Sparse Nat
  answers : List (Nat × Nat × FrameAnswer)
  msi : List Nat
  msixPending : Sparse Bool
  hostReply : List (List Byte)
  bmcReports : Nat
  bmcHeard : Nat
  ckChunk : Nat
  writers : List (BitVec 2)
  ckDir : Bool
  ckParts : List Nat
  nargen : List Nat
  deriving DecidableEq, Repr

/-- The whole machine. `cur` is the hart whose turn it is, `turns` the schedule of the next turns, `agenda` the events
that run first, `tick` counts steps and indexes the free values (logs 3, 4 and 8). `clock` holds the `cyc` counts of dies
0 to 7 and of the I/O dies at 8 and 9. `regs` holds the registers reached through Plaza by address. -/
structure State where
  cur : Nat
  turns : List Nat
  agenda : List Event
  tick : Nat
  clock : Sparse Nat
  harts : Sparse Hart
  slots : Sparse Slot
  mem : List Host.Cell
  hostMem : List Host.Cell
  vault : List Host.Cell
  regs : Sparse Word
  marks : Marks
  cores : Cores
  dies : Dies
  pkg : Package
  deriving DecidableEq, Repr

/-- Why the machine stops with a fault. -/
inductive Fault where
  /-- Raised by `step` when Nargen holds every die in reset after a boot that failed (R417): nothing runs. Safe. -/
  | heldInReset
  deriving DecidableEq, Repr

/-- Why an instruction is refused. -/
inductive Refusal where
  /-- Raised by an arm of `exec` for an instruction that has no meaning in the model. Safe. -/
  | notModelled (mnemonic : String)
  deriving DecidableEq, Repr

/-- A set of trap registers at reset with vector `v` (R39). -/
def TrapRegs.reset (v : Word) : TrapRegs := ⟨v, 0, 0, 0, 0, 0⟩

/-- `hstat` at reset (R38); PRIV is `Hart.level`. -/
def HStat.reset : HStat := ⟨false, false, false, .u, false, false, false, false, false⟩

/-- R32, R35 and R37: `vew` resets to 0b11, the rest to 0. -/
def VConf.reset : VConf := ⟨0, 3, 0, 0, 0, 0, 0, 0⟩

/-- Hart `h` right after reset: compute harts (below 4096) run at M (R29, R417), command harts are halted with every
register zero (R394) and CQ 0, XQ 8 (R407). The pc is 0 (log 2); the sampled pair is 0 (log 6). -/
def Hart.reset (h : Nat) : Hart where
  pc := 0
  level := .m
  sregs := []
  fregs := []
  mregs := []
  conf := VConf.reset
  grant := 0
  hwm := ⟨false, 0, 0⟩
  prio := 0
  stat := HStat.reset
  strap := TrapRegs.reset 0
  mtrap := TrapRegs.reset (if h < 4096 then Config.bootVector &&& 0xFFFFFFFFFFFFFFFC#64 else 0)
  run := if h < 4096 then .running else .halted
  hold := .none
  parked := none
  begun := none
  kept := 0
  exch := none
  stopAt := none
  task := none
  root := 0
  asid := 0
  preempt := false
  offer := none
  mcheck := none
  quiet := false
  xlinvWait := false
  forced := false
  counted := false
  updBusy := 0
  drainBusy := 0
  pod := []
  cq := 0
  xq := 8
  stopReq := false

/-- An IDLE slot that has held no stream since reset (R219, R221). -/
def Slot.reset : Slot where
  state := .idle
  bits := 0
  mbase := 0
  vbase := 0
  n := 0
  s0 := 0
  start := 0
  winBase := 0
  residue := 0
  rvalid := false
  ovf := false
  root := 0
  asid := 0
  level := .u
  vl := 0
  vew := 0
  grant := 0
  block := 0
  winOpen := false
  next := 0
  pages := []
  table := []
  faults := []
  fmask := 0
  hot := false
  wrote := some []

/-- A FREE entry that has held no task (R267). -/
def Task.reset : Task where
  state := .free
  gen := 0
  entry := 0
  arg := 0
  lkey := 0
  stack := 0
  done := 0
  cmin := 0
  cpref := 0
  tprio := 0
  tew := 0
  min := 0
  pref := 0
  producer := none
  bcur := 0
  phw := 0
  ceff := false
  started := false
  popped := false
  core := none
  inst := none
  readySeq := 0
  readyAt := 0

def Dispatcher.reset : Dispatcher := ⟨0, 0, 0, 0⟩

/-- A FREE pipeline slot (R327). -/
def Pipe.reset : Pipe where
  gen := 0
  state := 0
  ivlog := 0
  movemax := 0
  asid := 0
  arena := 0
  root := 0
  done := 0
  cores := 0
  avs := []
  stages := []
  pool := []
  allot := []
  occ := []
  target := []

/-- An IDLE sample entry with its request counter 0 (R355). -/
def Sample.reset : Sample where
  state := .idle
  t := 0
  h := 0
  tend := 0
  eprev := 0
  nacc := 0
  nrej := 0
  n := 0
  method := 0
  kv := false
  y := 0
  hist := 0
  user := 0
  cstat := 0
  desc := 0
  root := 0
  asid := 0
  level := .u
  counter := 0
  tag := none
  attempt := .none
  hcur := 0
  last := false
  faddr := 0

/-- The Assayer unbound, every counter 0 (R366). -/
def Assayer.reset : Assayer := ⟨none, [], [], [], 0, 0, 0, 0, 0, 0⟩

/-- An idle command queue (R398, R402). -/
def Queue.reset : Queue := ⟨[], 0, none, false, 0, [], []⟩

/-- A barrier after reset (R132). -/
def Barrier.reset : Barrier := ⟨0, 0, 0⟩

def Marks.reset : Marks := ⟨[], [], [], [], [], []⟩

def Cores.reset : Cores := ⟨[], [], [], [], [], [], [], [], [], []⟩

def Dies.reset : Dies := ⟨[], [], [], [], [], [], [], [], [], [], [], [], []⟩

/-- The package after Nargen has released the dies (R417). -/
def Package.reset : Package where
  power := .on
  queues := []
  barriers := []
  podArrived := []
  podMembers := []
  podCopies := []
  colls := []
  collSeq := []
  held := []
  refusedIn := []
  owedIn := []
  portBytes := []
  answers := []
  msi := []
  msixPending := []
  hostReply := []
  bmcReports := 0
  bmcHeard := 0
  ckChunk := 0
  writers := []
  ckDir := false
  ckParts := []
  nargen := []

/-- The machine right after reset: every table lists nothing, so that each register reads as its reset value. -/
def State.reset : State where
  cur := 0
  turns := []
  agenda := []
  tick := 0
  clock := []
  harts := []
  slots := []
  mem := []
  hostMem := []
  vault := []
  regs := []
  marks := Marks.reset
  cores := Cores.reset
  dies := Dies.reset
  pkg := Package.reset

end Sys2Proof.Machine
end

