-- ==== Sys2Proof/Machine/Plaza.lean ====
section
/-! DEFINITION. Plaza, the physical map (spec/18_memory_model.md R385), and the registers that lie in its windows: where
each one is, its reset value and which of its bits a write reaches. -/

namespace Sys2Proof.Machine

/-- PB of R385. -/
def plazaBase : Nat := 0x000F000000000000

/-- Bytes of HBM behind each die (R385). -/
def hbmBytes : Nat := 72000000000

def vaultBytes : Nat := pow2 24

/-- Base of the Vault window of core `c`. -/
def vaultPa (c off : Nat) : Nat := plazaBase + c * pow2 32 + off

/-- The address of a cell in the Square window of core `c`. -/
def squarePa (c row col : Nat) : Nat := plazaBase + c * pow2 32 + pow2 28 + row * 1024 + col * 8

/-- Plaza address of a Square cell (R385). -/
def cellPa (c row col : Nat) : Nat := plazaBase + c * pow2 32 + pow2 28 + 1024 * row + 8 * col

/-- A register of the control window of core `c`. -/
def ctlPa (c off : Nat) : Nat := plazaBase + c * pow2 32 + pow2 30 + off

/-- A register of the control window of die `d`. -/
def diePa (d off : Nat) : Nat := plazaBase + pow2 41 + d * pow2 32 + off

/-- A place in the window of I/O die `i`. -/
def ioPa (i off : Nat) : Nat := plazaBase + pow2 41 + (8 + i) * pow2 32 + off

/-- What a physical address names. -/
inductive Region where
  | hbm (die : Nat)
  | vault (core off : Nat)
  | square (core row col byte : Nat)
  | ctl (core off : Nat)
  | dieCtl (die off : Nat)
  | io (i off : Nat)
  | hostWin (i off : Nat)
  | aperture (die n off : Nat)
  | hole
  deriving DecidableEq, Repr

/-- The map of R385. -/
def regionOf (pa : Nat) : Region :=
  if pa < plazaBase then
    (if pa / pow2 37 < 8 ∧ pa % pow2 37 < hbmBytes then .hbm (pa / pow2 37) else .hole)
  else
    let r := pa - plazaBase
    let o := r % pow2 32
    if r < pow2 41 then
      let c := r / pow2 32
      if o < vaultBytes then .vault c o
      else if pow2 28 ≤ o ∧ o < pow2 28 + 49152 then
        .square c ((o - pow2 28) / 1024) ((o - pow2 28) / 8 % 128) (o % 8)
      else if pow2 30 ≤ o ∧ o < pow2 30 + pow2 20 then .ctl c (o - pow2 30)
      else .hole
    else if r < pow2 42 then
      let q := (r - pow2 41) / pow2 32
      if q < 8 then (if o < pow2 20 then .dieCtl q o else .hole)
      else if q < 10 then (if o < pow2 31 then .io (q - 8) o else .hostWin (q - 8) (o - pow2 31))
      else .hole
    else
      let n := (r - pow2 42) / pow2 34
      if n < 128 then .aperture (n / 16) (n % 16) ((r - pow2 42) % pow2 34) else .hole

/-- The registers of a core's control window, by the offset of their 8 bytes. -/
def isCtlReg (o : Nat) : Bool :=
  decide (o = 0x100) || decide (o = 0x108) || decide (o = 0x110) || decide (o = 0x180)
    || (decide (0x200 ≤ o) && decide (o < 0x280)) || decide (o = 0x280) || decide (o = 0x300)
    || (decide (0x400 ≤ o) && decide (o < 0x440)) || (decide (0x10000 ≤ o) && decide (o < 0x18000))

/-- The registers of a die control window; those of the fabric lie on die 0 (R419). -/
def isDieReg (d o : Nat) : Bool :=
  (decide (0x300 ≤ o) && decide (o ≤ 0x320)) || decide (o = 0x380) || decide (o = 0x390)
    || (decide (0x400 ≤ o) && decide (o < 0x500)) || (decide (0x800 ≤ o) && decide (o < 0x1200))
    || (decide (d = 0) && (decide (o = 0x3000) || decide (o = 0x3008) || (decide (0x3040 ≤ o) && decide (o < 0x30C0))
      || (decide (0x3100 ≤ o) && decide (o < 0x3500))))
    || (decide (0x20000 ≤ o) && decide (o < 0x24000))

/-- The registers of an I/O die window (R395); die 1 has those marked "die 0" too, as zeros. -/
def isIoReg (o : Nat) : Bool :=
  decide (o = 0) || decide (o = 0x100) || decide (o = 0x108)
    || (decide (0x1000 ≤ o) && decide (o < 0x1080))
    || (decide (0x2000 ≤ o) && decide (o < 0x2180) && !decide (o % 32 = 0x18))
    || (decide (0x10000 ≤ o) && decide (o < 0x18100))
    || (decide (0x100000 ≤ o) && decide (o < 0x100400))
    || (decide (0x200000 ≤ o) && decide (o ≤ 0x200020))

/-- The offsets that R395 marks "die 0". -/
def isIoDie0Only (o : Nat) : Bool :=
  decide (o = 0) || decide (o = 0x108) || (decide (0x10000 ≤ o) && decide (o < 0x18100))
    || (decide (0x200000 ≤ o) && decide (o ≤ 0x200020))

/-- Whether the 8 bytes that hold `pa` are a register of a window (R388). -/
def isRegister (pa : Nat) : Bool :=
  match regionOf (pa - pa % 8) with
  | .ctl _ o => isCtlReg o
  | .dieCtl d o => isDieReg d o
  | .io _ o => isIoReg o
  | _ => false

/-- Semaphore n, placed as R395 gives. -/
def semPa (n : Nat) : Nat := ioPa (n / 128) (0x100000 + 8 * (n % 128))

/-- The semaphore at an address, if it is one. -/
def semOf (pa : Nat) : Option Nat :=
  match regionOf pa with
  | .io i o => if 0x100000 ≤ o ∧ o < 0x100400 then some (128 * i + (o - 0x100000) / 8) else none
  | _ => none

/-- Reset values of the registers whose value is not 0. -/
def regReset (pa : Nat) : Word :=
  match regionOf pa with
  | .ctl _ o => if o = 0x280 then 30000 else 0
  | .dieCtl _ o =>
    if o = 0x300 then 0x40000000
    else if o = 0x308 then 8
    else if o = 0x320 then wordOf (Config.spareCores * pow2 16 + Config.activeCores)
    else if o = 0x380 then wordOf (256 * pow2 16 + 64)
    else if 0x3100 ≤ o ∧ o < 0x3500 ∧ o % 16 = 0 then 1
    else 0
  | .io i o =>
    if i = 0 ∧ o = 0x200020 then 3600
    -- the vector-control word of an MSI-X entry resets masked (log 10)
    else if i = 0 ∧ 0x10000 ≤ o ∧ o < 0x18000 ∧ o % 16 = 8 then 0x100000000
    else 0
  | _ => 0

/-- A register as stored. -/
def rawReg (s : State) (pa : Nat) : Word := sget (regReset pa) s.regs pa

/-- Store a register. -/
def setReg (s : State) (pa : Nat) (v : Word) : State := { s with regs := sset (regReset pa) s.regs pa v }

/-- Bits [hi:lo] of a word as a number. -/
def bits (w : Word) (hi lo : Nat) : Nat := w.toNat / pow2 lo % pow2 (hi + 1 - lo)

/-- The word with bits [hi:lo] set. -/
def maskBits (hi lo : Nat) : Nat := (pow2 (hi + 1 - lo) - 1) * pow2 lo

/-- The bits of a register that a plain write stores (R10: RW fields); 0 for a register written only by the device. -/
def rwMask (pa : Nat) : Word :=
  match regionOf pa with
  | .ctl _ o =>
    if o = 0x100 ∨ o = 0x108 ∨ o = 0x110 ∨ o = 0x280 then allOnes64
    else if 0x200 ≤ o ∧ o < 0x280 then (if o % 16 = 0 then wordOf (maskBits 51 12) else wordOf (maskBits 15 0))
    else if o = 0x300 then wordOf (maskBits 47 32 + maskBits 9 8 + maskBits 4 0)
    else 0
  | .dieCtl _ o =>
    if o = 0x300 then wordOf (maskBits 39 0)
    else if o = 0x308 then wordOf (maskBits 15 0)
    else if o = 0x318 then wordOf (maskBits 15 15 + maskBits 11 0)
    else if o = 0x380 then wordOf (maskBits 31 0)
    else if 0x400 ≤ o ∧ o < 0x500 then
      (if o % 32 = 0 then wordOf (maskBits 51 6)
      else if o % 32 = 16 then wordOf (maskBits 15 15 + maskBits 11 0) else 0)
    else if 0x800 ≤ o ∧ o < 0x1000 then (if o % 16 = 0 then allOnes64 else 0)
    else if 0x1000 ≤ o ∧ o < 0x1200 then
      (if o % 32 = 0 then wordOf (maskBits 51 12)
      else if o % 32 = 8 then wordOf (maskBits 33 12)
      else if o % 32 = 16 then wordOf (maskBits 47 16 + maskBits 11 9 + maskBits 3 0) else 0)
    else if o = 0x3008 then wordOf (maskBits 51 6)
    else if 0x3040 ≤ o ∧ o < 0x30C0 then
      (if o % 16 = 0 then wordOf (maskBits 51 12 + maskBits 3 0) else wordOf (maskBits 51 12))
    else if 0x3100 ≤ o ∧ o < 0x3500 then (if o % 16 = 0 then 1 else allOnes64)
    else 0
  | .io i o =>
    if o = 0x100 then wordOf (maskBits 63 31)
    else if 0x1000 ≤ o ∧ o < 0x1080 then
      (if o % 32 = 8 then wordOf (maskBits 63 2)
      else if o % 32 = 16 then wordOf (maskBits 51 12)
      else if o % 32 = 24 then wordOf (maskBits 15 0) else 0)
    else if 0x2000 ≤ o ∧ o < 0x2180 then (if o % 32 = 0 then 7 else 0)
    else if i = 0 ∧ 0x10000 ≤ o ∧ o < 0x18000 then
      (if o % 16 = 0 then 0xFFFFFFFFFFFFFFFC#64 else 0x00000001FFFFFFFF#64)
    else if 0x100000 ≤ o ∧ o < 0x100400 then allOnes64
    else if i = 0 ∧ (o = 0x200008 ∨ o = 0x200010) then allOnes64
    else if i = 0 ∧ o = 0x200020 then wordOf (maskBits 15 0)
    else 0
  | _ => 0

/-- A plain write: the RW bits take the value, the others stay. -/
def writeRw (s : State) (pa : Nat) (v : Word) : State :=
  setReg s pa ((rawReg s pa &&& ~~~ rwMask pa) ||| (v &&& rwMask pa))

end Sys2Proof.Machine
end

