-- ==== Sys2Proof/Machine/Ops.lean ====
section
/-! DEFINITION. Named operations on the state: harts and their registers, results of an instruction, taking an exception
(spec/01_hart.md R41, R42) and returning from one (R43). -/

namespace Sys2Proof.Machine

open Host (Outcome)

/-- A synchronous cause with its SUB and VALUE (R40). -/
structure TrapInfo where
  code : Nat
  sub : Nat
  val : Word
  deriving DecidableEq, Repr

/-- How an instruction stops before completing: with a trap, or to wait. Each carries the state it leaves. -/
inductive Stop where
  | trap (s : State) (t : TrapInfo)
  | wait (s : State) (h : Hold)
  deriving DecidableEq, Repr

/-- A computation that may stop. -/
abbrev Eff (α : Type) := Except Stop α

def tIllegal (bits : Word) : TrapInfo := ⟨0x01, 0, bits⟩
def tPriv (bits : Word) : TrapInfo := ⟨0x02, 0, bits⟩
def tIfault (sub : Nat) (va : Word) : TrapInfo := ⟨0x03, sub, va⟩
def tLfault (sub : Nat) (va : Word) : TrapInfo := ⟨0x04, sub, va⟩
def tSfault (sub : Nat) (va : Word) : TrapInfo := ⟨0x05, sub, va⟩
def tMisalign (va : Word) : TrapInfo := ⟨0x06, 0, va⟩
def tStream (slot : Nat) (rec : Nat) : TrapInfo := ⟨0x07, slot, wordOf rec⟩
def tFpx (idx : Nat) : TrapInfo := ⟨0x08, idx, 0⟩
def tTrap (lvl imm : Nat) : TrapInfo := ⟨0x09, lvl, wordOf imm⟩
def tPoisonMem (pa : Nat) : TrapInfo := ⟨0x0A, 0, wordOf pa⟩
def tPoisonReg (row e : Nat) : TrapInfo := ⟨0x0A, 1, wordOf (row + e * 65536)⟩
def tAtompath (va : Word) : TrapInfo := ⟨0x0B, 0, va⟩
def tNolease (bits : Word) : TrapInfo := ⟨0x0C, 0, bits⟩
def tAvenue (sub : Nat) (h : Word) : TrapInfo := ⟨0x0D, sub, h⟩
def tAssayer (sub : Nat) (v : Word) : TrapInfo := ⟨0x0E, sub, v⟩
def tColl (sub : Nat) (v : Word) : TrapInfo := ⟨0x0F, sub, v⟩

/-- Hart `h`. -/
def State.hartAt (s : State) (h : Nat) : Hart := sget (Hart.reset h) s.harts h

/-- Replace hart `h`. -/
def State.setHart (s : State) (h : Nat) (x : Hart) : State := { s with harts := sput s.harts h x }

/-- The hart whose turn it is. -/
def State.hart (s : State) : Hart := s.hartAt s.cur

/-- Replace the hart whose turn it is. -/
def State.putHart (s : State) (x : Hart) : State := s.setHart s.cur x

/-- A compute hart's core, partition and die (R37); command harts number from 4096. -/
def isCommand (h : Nat) : Bool := decide (4096 ≤ h)
def coreOf (h : Nat) : Nat := h / 8
def partOf (h : Nat) : Nat := h % 8
def dieOfCore (c : Nat) : Nat := c / 64
def dieOf (h : Nat) : Nat := h / 512

/-- The harts of a core. -/
def hartsOf (c : Nat) : List Nat := (List.range 8).map (fun p => 8 * c + p)

/-- The I/O die of a command hart and its index there (R393). -/
def ioOf (h : Nat) : Nat := (h - 4096) / 4
def ioIdx (h : Nat) : Nat := (h - 4096) % 4

/-- The clock a hart reads: its die's, or its I/O die's at 8 and 9 (R37, R393, R416). -/
def clockOf (h : Nat) : Nat := if isCommand h then 8 + ioOf h else dieOf h

def State.cyc (s : State) (h : Nat) : Nat := sget 0 s.clock (clockOf h)

/-- The translation cache a hart uses: its core's, or its own (R306, R393). -/
def tlbOf (h : Nat) : Nat := if isCommand h then 512 + (h - 4096) else coreOf h

/-- `s[r]`: `s0` reads zero (R18). -/
def Hart.rS (x : Hart) (r : SReg) : Word := if r = 0 then 0 else sget 0 x.sregs r.toNat

/-- Write `s[r]`; a write to `s0` is discarded (R18). -/
def Hart.wS (x : Hart) (r : SReg) (v : Word) : Hart :=
  if r = 0 then x else { x with sregs := sset 0 x.sregs r.toNat v }

def Hart.rF (x : Hart) (r : SReg) : Word := sget 0 x.fregs r.toNat

def Hart.wF (x : Hart) (r : SReg) (v : Word) : Hart := { x with fregs := sset 0 x.fregs r.toNat v }

def Hart.rM (x : Hart) (k : Nat) : BitVec 1024 := sget 0 x.mregs k

def Hart.wM (x : Hart) (k : Nat) (v : BitVec 1024) : Hart := { x with mregs := sset 0 x.mregs k v }

/-- Advance the pc by `n` bytes. -/
def Hart.adv (x : Hart) (n : Nat) : Hart := { x with pc := x.pc + wordOf n }

def State.rS (s : State) (r : SReg) : Word := s.hart.rS r
def State.rF (s : State) (r : SReg) : Word := s.hart.rF r
def State.wS (s : State) (r : SReg) (v : Word) : State := s.putHart (s.hart.wS r v)
def State.wF (s : State) (r : SReg) (v : Word) : State := s.putHart (s.hart.wF r v)
def State.adv (s : State) (n : Nat) : State := s.putHart (s.hart.adv n)
def State.setPc (s : State) (v : Word) : State := s.putHart { s.hart with pc := v }

/-- Store a vector configuration. -/
def State.setConf (s : State) (c : VConf) : State := s.putHart { s.hart with conf := c }

/-- `vsi` of the current hart. -/
def State.vsi (s : State) : Nat := s.hart.conf.vsi.toNat

def State.setVsi (s : State) (k : Nat) : State := s.setConf { s.hart.conf with vsi := BitVec.ofNat 13 k }

/-- The index at which the execution of the current instruction began: `vsi`, unless it goes on after a stall. -/
def State.first (s : State) : Nat := (s.hart.begun.map Begun.idx).getD s.vsi

/-- The multipliers that the drain of this execution has read (R211). -/
def State.mults (s : State) : List (Nat × Nat) := (s.hart.begun.map Begun.mults).getD []

/-- The element width in bits that `vew` selects (R32). -/
def ewOf (v : BitVec 2) : Nat := 8 * pow2 v.toNat

def State.ew (s : State) : Nat := ewOf s.hart.conf.vew

def State.vl (s : State) : Nat := s.hart.conf.vl.toNat

/-- Clusters of a set, by number. -/
def clustersOf (g : BitVec 8) : List Nat := (List.range 8).filter (fun k => g.getLsbD k)

/-- The set of clusters listed. -/
def clusterSet (l : List Nat) : BitVec 8 := l.foldl (fun acc k => acc ||| BitVec.ofNat 8 (pow2 k)) 0

/-- The logical cluster of physical cluster `p` in a grant (R23). -/
def logicalOf (g : BitVec 8) (p : Nat) : Nat := ((clustersOf g).filter (fun k => decide (k < p))).length

/-- Record a write of row `r` with extent `ext` (R34). -/
def Hart.noteWrite (x : Hart) (r ext : Nat) : Hart :=
  { x with hwm := ⟨true, BitVec.ofNat 6 (Nat.max x.hwm.hreg.toNat r), BitVec.ofNat 14 (Nat.max x.hwm.hvb.toNat ext)⟩ }

/-- The hart of core `c` that holds physical cluster `p` (R270). -/
def holderOf (s : State) (c p : Nat) : Option Nat :=
  (List.range 8).findSome? (fun k => if (s.hartAt (8 * c + k)).grant.getLsbD p then some (8 * c + k) else none)

/-- c of R23. -/
def grantCount (g : BitVec 8) : Nat := (clustersOf g).length

/-- VLMAX for `c` clusters at element width `ew` (R23). -/
def vlmax (c ew : Nat) : Nat := 1024 * c / ew

/-- Clamp `vl` to VLMAX (R32). -/
def Hart.clampVl (x : Hart) : Hart :=
  let m := vlmax (grantCount x.grant) (ewOf x.conf.vew)
  if m < x.conf.vl.toNat then { x with conf := { x.conf with vl := BitVec.ofNat 11 m } } else x

/-- The PRIV code of a level (R29). -/
def levelCode : Level → Nat
  | .u => 0 | .s => 1 | .m => 3

/-- The level of a code; 2 names none (R29). -/
def levelOfCode : Nat → Option Level
  | 0 => some .u | 1 => some .s | 3 => some .m | _ => none

/-- Lower level `a` than `b`. -/
def Level.below (a b : Level) : Bool := decide (levelCode a < levelCode b)

/-- The register of a hart's sampled pair: `XLROOT`, `XLASID` of the partition, or `CHROOT`, `CHASID` (R301, R394). -/
def rootPa (h : Nat) : Nat :=
  if isCommand h then ioPa (ioOf h) (0x1000 + 32 * ioIdx h + 0x10) else ctlPa (coreOf h) (0x200 + 16 * partOf h)

def asidPa (h : Nat) : Nat := rootPa h + 8

/-- Sample the translation pair (R301). -/
def samplePair (s : State) (h : Nat) : State :=
  s.setHart h { s.hartAt h with
    root := BitVec.ofNat 40 (bits (rawReg s (rootPa h)) 51 12)
    asid := BitVec.ofNat 16 (bits (rawReg s (asidPa h)) 15 0) }

/-- The level a synchronous trap goes to, by cause code (R41). -/
def syncTarget (x : Hart) (code : Nat) : Level :=
  match x.level with
  | .u => .s
  | .s => if code = 0x09 ∨ x.stat.snest = true then .m else .s
  | .m => .m

/-- `tcause` as R42 forms it. -/
def causeWord (int : Bool) (code sub : Nat) : Word :=
  wordOf ((if int then pow2 63 else 0) + sub * 256 + code)

/-- `trap_entry` of R42 on a hart. -/
def Hart.enter (x : Hart) (int : Bool) (code sub : Nat) (val : Word) (target : Level) : Hart :=
  match target with
  | .s | .u =>
    { x with
      strap := { x.strap with cause := causeWord int code sub, val := val, pc := x.pc, vsi := x.conf.vsi }
      stat := { x.stat with spie := x.stat.sie, sie := false, spp := decide (x.level = .s), snest := true }
      level := .s
      pc := x.strap.vec
      conf := { x.conf with vsi := 0 }
      begun := none
      kept := 0 }
  | .m =>
    { x with
      mtrap := { x.mtrap with cause := causeWord int code sub, val := val, pc := x.pc, vsi := x.conf.vsi }
      stat := { x.stat with mpie := x.stat.mie, mie := false, mpp := x.level, mnest := true }
      level := .m
      pc := x.mtrap.vec
      parked := x.parked.map (fun n => n + 1)
      conf := { x.conf with vsi := 0 }
      begun := none
      kept := 0 }

/-- CHPC of a command hart (R396). -/
def chpcPa (h : Nat) : Nat := ioPa (ioOf h) (0x1000 + 32 * ioIdx h + 8)

/-- Halt a hart; a command hart also writes its pc to CHPC (R41, R394). -/
def haltHart (s : State) (h : Nat) : State :=
  let x := s.hartAt h
  let s := if isCommand h then setReg s (chpcPa h) (x.pc &&& 0xFFFFFFFFFFFFFFFC#64) else s
  s.setHart h { s.hartAt h with run := .halted, hold := .none, begun := none, kept := 0, stopAt := none, stopReq := false }

/-- Take a synchronous trap on the current hart (R41, R42). At M with MNEST = 1 the hart halts and Nargen is told. -/
def takeTrap (s : State) (t : TrapInfo) : State :=
  let x := s.hart
  if x.level = .m ∧ x.stat.mnest = true then
    let s := haltHart s s.cur
    { s with pkg := { s.pkg with nargen := s.pkg.nargen ++ [s.cur] } }
  else s.putHart ({ x with hold := .none, stopAt := none }.enter false t.code t.sub t.val (syncTarget x t.code))

/-- `trap_return` of R43 on a hart at S or M. A partition without a task that took MCHECK is idle again after the return from it
(R269). -/
def Hart.return (x : Hart) : Hart :=
  match x.level with
  | .s | .u =>
    { x with
      pc := x.strap.pc
      conf := { x.conf with vsi := x.strap.vsi }
      level := if x.stat.spp then .s else .u
      stat := { x.stat with sie := x.stat.spie, spie := true, snest := false } }
  | .m =>
    { x with
      pc := x.mtrap.pc
      run := if x.parked = some 0 then .idle else x.run
      parked := x.parked.bind (fun n => if n = 0 then none else some (n - 1))
      conf := { x.conf with vsi := x.mtrap.vsi }
      level := x.stat.mpp
      stat := { x.stat with mie := x.stat.mpie, mpie := true, mnest := false } }

/-- The outcome of a computation on the current hart. -/
def finish (r : Eff State) : Outcome State Fault Refusal :=
  match r with
  | .ok s => .next s
  | .error (.trap s t) => .next (takeTrap s t)
  | .error (.wait s h) => .next (s.putHart { s.hart with hold := h })

/-- Raise a cause. -/
def raise {α : Type} (s : State) (t : TrapInfo) : Eff α := .error (.trap s t)

/-- Wait. -/
def waitFor {α : Type} (s : State) (h : Hold) : Eff α := .error (.wait s h)

/-- Require a condition, or raise a cause. -/
def need (c : Bool) (s : State) (t : TrapInfo) : Eff Unit := if c then .ok () else raise s t

/-- An instruction of a compute hart only (R393), with its ILLEGAL bits. -/
def computeOnly (s : State) (i : Instr) : Eff Unit := need (!isCommand s.cur) s (tIllegal (instrBits i))

/-- An engine instruction (EX format) of a compute hart only, by its major and FUNC. -/
def engineOnly (s : State) (major f : Nat) (o : ExOp) : Eff Unit :=
  need (!isCommand s.cur) s (tIllegal (exBits major f o))

/-- An instruction whose lowest level is S (R29). -/
def needS (s : State) (i : Instr) : Eff Unit := need (!decide (s.hart.level = .u)) s (tPriv (instrBits i))

/-- Complete an instruction of `n` bytes. -/
def done (s : State) (n : Nat) : Eff State := .ok (s.adv n)

/-- A register-only instruction: write `s[rd]` and go on. -/
def putS (s : State) (rd : SReg) (v : Word) : Outcome State Fault Refusal := .next ((s.wS rd v).adv 4)

/-- Any element of a list with its position. -/
def enumList {α : Type} (l : List α) : List (Nat × α) := (List.range l.length).zip l

/-- The first entry whose key is `k`. -/
def assoc {α : Type} (k : Nat) (l : List (Nat × α)) : Option α := (l.find? (fun p => p.1 == k)).map (fun p => p.2)

end Sys2Proof.Machine
end

