-- ==== Sys2Proof/Machine/Memory.lean ====
section
/-! DEFINITION. Bytes of the memories, the full/empty bits and marks, transform apertures (R390, R391), what a register
reads as, and physical reads (spec/18_memory_model.md R385 to R392, spec/07_vault_streams.md R213, R217). -/

namespace Sys2Proof.Machine

/-- The value of a register field, 0 read as 1 (R320, R340). -/
def oneIfZero (n : Nat) : Nat := if n = 0 then 1 else n

def memByte (s : State) (pa : Nat) : Byte := sget unlistedByte s.mem pa

def setMemByte (s : State) (pa : Nat) (b : Byte) : State := { s with mem := sset unlistedByte s.mem pa b }

def hostByte (s : State) (a : Nat) : Byte := sget unlistedByte s.hostMem a

def setHostByte (s : State) (a : Nat) (b : Byte) : State := { s with hostMem := sset unlistedByte s.hostMem a b }

def vaultKey (c off : Nat) : Nat := c * pow2 24 + off % pow2 24

def vaultByte (s : State) (c off : Nat) : Byte := sget unlistedByte s.vault (vaultKey c off)

def setVaultByte (s : State) (c off : Nat) (b : Byte) : State :=
  { s with vault := sset unlistedByte s.vault (vaultKey c off) b }

/-- The key of a Vault line: core and line number. -/
def lineKey (c off : Nat) : Nat := c * pow2 17 + off % pow2 24 / 128

def lineEmpty (s : State) (c off : Nat) : Bool := sget false s.marks.empty (lineKey c off)

def setLineEmpty (s : State) (c off : Nat) (e : Bool) : State :=
  { s with marks := { s.marks with empty := sset false s.marks.empty (lineKey c off) e } }

def vaultMark (s : State) (c off : Nat) : Bool := sget false s.marks.vault (lineKey c off)

def setVaultMark (s : State) (c off : Nat) (m : Bool) : State :=
  { s with marks := { s.marks with vault := sset false s.marks.vault (lineKey c off) m } }

def memMark (s : State) (pa : Nat) : Bool := sget false s.marks.mem (pa / 128)

def setMemMark (s : State) (pa : Nat) (m : Bool) : State :=
  { s with marks := { s.marks with mem := sset false s.marks.mem (pa / 128) m } }

def hostMark (s : State) (a : Nat) : Bool := sget false s.marks.hostMem (a / 128)

def setHostMark (s : State) (a : Nat) (m : Bool) : State :=
  { s with marks := { s.marks with hostMem := sset false s.marks.hostMem (a / 128) m } }

/-- The key of Square cell [row, col] of a core. -/
def cellKey (c row col : Nat) : Nat := c * 6144 + row * 128 + col

def cell (s : State) (c row col : Nat) : Word := sget 0 s.cores.cells (cellKey c row col)

def setCell (s : State) (c row col : Nat) (v : Word) : State :=
  { s with cores := { s.cores with cells := sset 0 s.cores.cells (cellKey c row col) v } }

def cellMark (s : State) (c row col : Nat) : Bool := sget false s.marks.cell (cellKey c row col)

def setCellMark (s : State) (c row col : Nat) (m : Bool) : State :=
  { s with marks := { s.marks with cell := sset false s.marks.cell (cellKey c row col) m } }

/-- The landed bit of a row and physical cluster (R218), kept as "not landed". -/
def landKey (c row p : Nat) : Nat := (c * 48 + row) * 8 + p

def unlanded (s : State) (c row p : Nat) : Bool := sget false s.marks.unlanded (landKey c row p)

def setUnlanded (s : State) (c row p : Nat) (u : Bool) : State :=
  { s with marks := { s.marks with unlanded := sset false s.marks.unlanded (landKey c row p) u } }

/-- A core position that no working core holds (R298, R321). -/
def coreDead (s : State) (c : Nat) : Bool := sget false s.cores.dead c

/-- `n` little-endian bytes gathered by `f` from index `k` on. -/
def gather (f : Nat → Byte) : Nat → Nat → Nat
  | _, 0 => 0
  | k, n + 1 => (f k).toNat + 256 * gather f (k + 1) n

/-- Byte `k` of a number. -/
def byteOf (v k : Nat) : Byte := BitVec.ofNat 8 (v / pow2 (8 * k))

/-- The last `pa` of die d's HBM (R385). -/
def hbmEnd (d : Nat) : Nat := pow2 37 * d + hbmBytes

/-- A range that lies wholly within the HBM of one die. -/
def inHbm (base len : Nat) : Bool :=
  decide (base / pow2 37 < 8) && decide (base + len ≤ hbmEnd (base / pow2 37))

/-- The parameters of an aperture (R390): buffer base, view bytes, transform, element bytes or repack width, TR and TC,
and SX; none when it is empty or invalid. -/
structure Aperture where
  base : Nat
  view : Nat
  xform : Nat
  esz : Nat
  tr : Nat
  tc : Nat
  sx : Bool
  deriving DecidableEq, Repr

/-- Bytes of the buffer behind a view (R391). -/
def apBuffer (xform esz view : Nat) : Nat :=
  if xform = 3 then (if esz = 0 then view / 2 else 3 * view / 4) else view

/-- Aperture n of die d as its registers stand (R390). -/
def apertureOf (s : State) (d n : Nat) : Option Aperture :=
  let ctl := rawReg s (diePa d (0x1000 + 32 * n + 16))
  let base := bits (rawReg s (diePa d (0x1000 + 32 * n))) 51 12 * 4096
  let view := bits (rawReg s (diePa d (0x1000 + 32 * n + 8))) 33 12 * 4096
  let tc := bits ctl 47 32
  let tr := bits ctl 31 16
  let esz := bits ctl 11 10
  let x := bits ctl 3 1
  let e := pow2 esz
  let valid :=
    (!decide (x = 1) || (!decide (tr = 0) && !decide (tc = 0) && decide (view % (tr * tc * e) = 0)))
    && (!decide (x = 2) || decide (view % e = 0))
    && (!decide (x = 3) || (decide (esz < 2) && (decide (esz = 0) || decide (view % 4 = 0))))
    && inHbm base (apBuffer x esz view)
  if bits ctl 0 0 = 1 ∧ 0 < view ∧ valid = true then
    some ⟨base, view, x, esz, tr, tc, decide (bits ctl 9 9 = 1)⟩
  else none

/-- The buffer byte that view byte `o` reaches, for the transforms other than repack (R391). -/
def apByte (a : Aperture) (o : Nat) : Nat :=
  let e := pow2 a.esz
  if a.xform = 1 then
    let tb := a.tr * a.tc * e
    let w := o % tb
    let x := w / e
    a.base + o / tb * tb + (x % a.tr * a.tc + x / a.tr) * e + w % e
  else if a.xform = 2 then
    let n := a.view / e
    a.base + o % n * e + o / n
  else a.base + o

/-- The bit position of packed element `x` in an array, for 4-bit and 6-bit elements (R54). -/
def packBit (w x : Nat) : Nat := if w = 4 then 4 * x else 24 * (x / 4) + 6 * (x % 4)

/-- Element `x` of a packed array at HBM address `base`. -/
def packedAt (s : State) (base w x : Nat) : Nat :=
  let b := packBit w x
  gather (fun k => memByte s (base + k)) (b / 8) 2 / pow2 (b % 8) % pow2 w

/-- Write element `x` of a packed array, leaving the other bits (R223, R392). -/
def setPackedAt (s : State) (base w x v : Nat) : State :=
  let b := packBit w x
  let a := base + b / 8
  let old := gather (fun k => memByte s (a + k)) 0 2
  let sh := pow2 (b % 8)
  let new := old - old / sh % pow2 w * sh + v % pow2 w * sh
  let s := setMemByte s a (byteOf new 0)
  if b % 8 + w ≤ 8 then s else setMemByte s (a + 1) (byteOf new 1)

/-- A byte of a view (R391). -/
def viewByte (s : State) (a : Aperture) (o : Nat) : Byte :=
  if a.xform = 3 then
    let w := if a.esz = 0 then 4 else 6
    let v := packedAt s a.base w o
    if a.sx ∧ a.esz = 0 ∧ 8 ≤ v then BitVec.ofNat 8 (v + 240) else BitVec.ofNat 8 v
  else memByte s (apByte a o)

def setViewByte (s : State) (a : Aperture) (o : Nat) (b : Byte) : State :=
  if a.xform = 3 then setPackedAt s a.base (if a.esz = 0 then 4 else 6) o b.toNat
  else setMemByte s (apByte a o) b

/-- The buffer bytes that a view access to byte `o` touches: a packed element lies in one byte or in two, which may be of two
lines. -/
def viewReach (a : Aperture) (o : Nat) : List Nat :=
  if a.xform = 3 then
    let w := if a.esz = 0 then 4 else 6
    let b := packBit w o
    if b % 8 + w ≤ 8 then [a.base + b / 8] else [a.base + b / 8, a.base + b / 8 + 1]
  else [apByte a o]

/-- The aperture a view address names and its offset. -/
def viewOf (s : State) (pa : Nat) : Option (Aperture × Nat) :=
  match regionOf pa with
  | .aperture d n o => (apertureOf s d n).bind (fun a => if o < a.view then some (a, o) else none)
  | _ => none

/-- Host address behind a host-window address (R395). -/
def hostAddr (s : State) (i o : Nat) : Nat := bits (rawReg s (ioPa i 0x100)) 63 31 * pow2 31 + o

/-- The EXT queue of a partition, by core·8 + partition (R409). -/
def extQueue (s : State) (h : Nat) : List Nat := sget [] s.cores.extQ h

def pipeAt (s : State) (d k : Nat) : Pipe := sget Pipe.reset s.dies.pipes (d * 8 + k)

def setPipe (s : State) (d k : Nat) (p : Pipe) : State :=
  { s with dies := { s.dies with pipes := sset Pipe.reset s.dies.pipes (d * 8 + k) p } }

def queueAt (s : State) (io q : Nat) : Queue := sget Queue.reset s.pkg.queues (io * 12 + q)

def setQueue (s : State) (io q : Nat) (x : Queue) : State :=
  { s with pkg := { s.pkg with queues := sset Queue.reset s.pkg.queues (io * 12 + q) x } }

def nthD (l : List Nat) (k : Nat) : Nat := l.getD k 0

/-- Cores of a pipeline that move towards stage `st` (R327 LEAVING). -/
def leavingTo (p : Pipe) (st : Nat) : Nat :=
  (p.pool.filter (fun c => match c.2 with
    | .leaving _ (some t) => t == st
    | .joining t => t == st
    | _ => false)).length

/-- `STGSTAT` of stage `st` (R327). -/
def stgstat (p : Pipe) (st : Nat) : Word :=
  wordOf (nthD p.occ st * pow2 32 + nthD p.target st * pow2 16 + leavingTo p st * 256 + nthD p.allot st)

/-- `QSTAT` (R402). -/
def qstat (x : Queue) : Word :=
  let st := if x.failed.isSome then 2 else if x.entries.isEmpty then 0 else 1
  wordOf (x.failed.getD 0 * pow2 44 + st * pow2 40 + x.entries.length * pow2 32 + x.head.toNat)

/-- Where the one copy of `QBCTL` of a quad stands (R297). -/
def qbctlPa (quad : Nat) : Nat := ctlPa (4 * quad) 0x180

/-- 64 bits of the MSI-X pending-bit array (R395). -/
def msixWord (s : State) (k : Nat) : Word :=
  wordOf ((List.range 64).foldl (fun acc i => if sget false s.pkg.msixPending (64 * k + i) then acc + pow2 i else acc) 0)

/-- What a register reads as (R388): the stored bits, or what the device computes. -/
def regRead (s : State) (pa : Nat) : Word :=
  let raw := rawReg s pa
  match regionOf pa with
  | .ctl c o =>
    if o = 0x180 then rawReg s (qbctlPa (c / 4))
    else if 0x400 ≤ o ∧ o < 0x440 then
      match extQueue s (c * 8 + (o - 0x400) / 8) with
      | [] => 0
      | src :: _ => wordOf (0x1000 + src % 4096)
    else raw
  | .dieCtl d o =>
    if o = 0x300 ∨ o = 0x308 then (if raw = 0 then 1 else raw)
    else if o = 0x380 then wordOf (oneIfZero (bits raw 31 16) * 65536 + oneIfZero (bits raw 15 0))
    else if 0x400 ≤ o ∧ o < 0x500 ∧ o % 32 = 8 then
      let p := pipeAt s d ((o - 0x400) / 32)
      wordOf (p.gen.toNat * 256 + p.state)
    else if 0x800 ≤ o ∧ o < 0x1000 ∧ o % 16 = 8 then stgstat (pipeAt s d ((o - 0x800) / 256)) ((o - 0x800) / 16 % 16)
    else raw
  | .io i o =>
    if i = 1 ∧ isIoDie0Only o = true then 0
    else if 0x1000 ≤ o ∧ o < 0x1080 ∧ o % 32 = 0 then
      let j := (o - 0x1000) / 32
      let halted := decide ((s.hartAt (4096 + 4 * i + j)).run = .halted)
      wordOf ((4 * i + j) * 4 + (if halted then 2 else 0) + bits raw 0 0)
    else if 0x2000 ≤ o ∧ o < 0x2180 then
      (if o % 32 = 8 then qstat (queueAt s i ((o - 0x2000) / 32)) else if o % 32 = 16 then 0 else raw)
    else if 0x18000 ≤ o ∧ o < 0x18100 then msixWord s ((o - 0x18000) / 8)
    else if o = 0x200020 then
      let w := bits raw 15 0
      wordOf (bits raw 16 16 * 65536 + (if w < 1000 then 1000 else if 3600 < w then 3600 else w))
    else raw
  | _ => raw

/-- Whether anything backs a byte (R385): memory, a cell, a valid view, or a register. -/
def backed (s : State) (pa : Nat) : Bool :=
  match regionOf pa with
  | .hbm _ | .hostWin _ _ => true
  | .vault c _ | .square c _ _ _ => !coreDead s c
  | .aperture _ _ _ => (viewOf s pa).isSome
  | .hole => false
  | _ => isRegister pa

/-- The byte at a physical address, as an access without waits or checks reads it; a cell of a cluster that no hart holds
reads zero (R273). -/
def peekByte (s : State) (pa : Nat) : Byte :=
  match regionOf pa with
  | .hbm _ => memByte s pa
  | .vault c o => vaultByte s c o
  | .square c r j b => if (holderOf s c (j / 16)).isSome then byteOf (cell s c r j).toNat b else 0
  | .hostWin i o => hostByte s (hostAddr s i o)
  | .aperture _ _ _ =>
    match viewOf s pa with
    | some (a, o) => viewByte s a o
    | none => 0
  | .hole => 0
  | _ => byteOf (regRead s (pa - pa % 8)).toNat (pa % 8)

/-- `n` bytes at a physical address. -/
def peek (s : State) (pa n : Nat) : Nat := gather (fun k => peekByte s (pa + k)) 0 n

/-- `n` bytes are all backed. -/
def backedAll (s : State) (pa n : Nat) : Bool := (List.range n).all (fun k => backed s (pa + k))

/-- Memory backs a byte (R304, R307): it is backed, and no register. -/
def memBacked (s : State) (pa : Nat) : Bool :=
  match regionOf pa with
  | .ctl _ _ | .dieCtl _ _ | .io _ _ => false
  | _ => backed s pa

def memBackedAll (s : State) (pa n : Nat) : Bool := (List.range n).all (fun k => memBacked s (pa + k))

/-- A Square cell whose cluster no hart holds: it reads zero and discards writes (R273). -/
def unheld (s : State) (pa : Nat) : Bool :=
  match regionOf pa with
  | .square c _ j _ => (holderOf s c (j / 16)).isNone
  | _ => false

/-- Whether the line, or cell, of a byte carries a mark that a read of it finds (R316, R273). -/
def markAt (s : State) (pa : Nat) : Bool :=
  match regionOf pa with
  | .hbm _ => memMark s pa
  | .vault c o => vaultMark s c o
  | .square c r j _ => !unheld s pa && cellMark s c r j
  | .hostWin i o => hostMark s (hostAddr s i o)
  | .aperture _ _ _ =>
    match viewOf s pa with
    | some (a, o) => (viewReach a o).any (memMark s)
    | none => false
  | _ => false

def markAny (s : State) (pa n : Nat) : Bool := (List.range n).any (fun k => markAt s (pa + k))

/-- Set or clear the mark of a byte's line or cell. -/
def setMarkAt (s : State) (pa : Nat) (m : Bool) : State :=
  match regionOf pa with
  | .hbm _ => setMemMark s pa m
  | .vault c o => setVaultMark s c o m
  | .square c r j _ => setCellMark s c r j m
  | .hostWin i o => setHostMark s (hostAddr s i o) m
  | .aperture _ _ _ =>
    match viewOf s pa with
    | some (a, o) => (viewReach a o).foldl (fun t b => setMemMark t b m) s
    | none => s
  | _ => s

/-- A copy of marked data marks the line or cell of a byte that it wrote (R316). -/
def markCopied (s : State) (pa : Nat) : State := if unheld s pa then s else setMarkAt s pa true

/-- The marks of `n` bytes after a copy of marked data into them. -/
def markCopiedAll (s : State) (pa n : Nat) : State := (List.range n).foldl (fun t k => markCopied t (pa + k)) s

/-- An access to this address covers a 128-byte line whole and in one: not so through a view other than identity (R316,
R392). -/
def wholeLine (s : State) (pa : Nat) : Bool :=
  match regionOf pa with
  | .aperture _ _ _ =>
    match viewOf s pa with
    | some (a, _) => decide (a.xform = 0)
    | none => false
  | _ => true

/-- The marks after a 128-byte line is written whole with marked or unmarked data (R145, R316). -/
def markLine (s : State) (pa : Nat) (m : Bool) : State :=
  if m then markCopiedAll s pa 128 else if wholeLine s pa then setMarkAt s pa false else s

/-- The physical address of the 128-byte line, or of the cell, that holds a byte, as a POISON trap names it (R176,
R387). -/
def poisonPa (pa : Nat) : Nat :=
  match regionOf pa with
  | .square _ _ _ b => pa - b
  | _ => pa / 128 * 128

/-- Write byte `k` of a cell through its window: the holder's `hwm` follows, with the end of the cell's group as the extent
(R34, R387), and a cell of a cluster that no hart holds takes no write (R273). -/
def pokeCell (s : State) (c r j k : Nat) (b : Byte) : State :=
  match holderOf s c (j / 16) with
  | none => s
  | some h =>
    let old := (cell s c r j).toNat
    let s := setCell s c r j (wordOf (old - (old / pow2 (8 * k) % 256) * pow2 (8 * k) + b.toNat * pow2 (8 * k)))
    let x := s.hartAt h
    s.setHart h (x.noteWrite r (128 * (logicalOf x.grant (j / 16) + 1)))

/-- Write one byte of memory without waits or checks; a Vault line becomes full (R217). Registers are not written here. -/
def pokeByte (s : State) (pa : Nat) (b : Byte) : State :=
  match regionOf pa with
  | .hbm _ => setMemByte s pa b
  | .vault c o => setLineEmpty (setVaultByte s c o b) c o false
  | .square c r j k => pokeCell s c r j k b
  | .hostWin i o => setHostByte s (hostAddr s i o) b
  | .aperture _ _ _ =>
    match viewOf s pa with
    | some (a, o) => setViewByte s a o b
    | none => s
  | _ => s

/-- A row busy with an update or a drain of its hart (R200). -/
def Hart.busyRow (x : Hart) (r : Nat) : Bool := x.updBusy.getLsbD r || x.drainBusy.getLsbD r

/-- A row that another agent's write waits for: busy, or held by a stalled update or drain (R202). -/
def Hart.heldRow (x : Hart) (r : Nat) : Bool := x.busyRow r || x.kept.getLsbD r

/-- Another agent's access to a byte need not wait: its Square row is not held and its group is landed (R202, R387). -/
def byteReady (s : State) (pa : Nat) : Bool :=
  match regionOf pa with
  | .square c r j _ =>
    match holderOf s c (j / 16) with
    | some h => !(s.hartAt h).heldRow r && !unlanded s c r (j / 16)
    | none => true
  | _ => true

/-- A completion word can be written at once. -/
def wordReady (s : State) (pa : Nat) : Bool := (List.range 8).all (fun k => byteReady s (pa + k))

/-- Write a list of bytes from an address on. -/
def pokeBytes (s : State) (pa : Nat) : List Byte → State
  | [] => s
  | b :: r => pokeBytes (pokeByte s pa b) (pa + 1) r

/-- Write `n` bytes of a number. -/
def poke (s : State) (pa n v : Nat) : State := pokeBytes s pa (bytesOfNat n v)

end Sys2Proof.Machine
end

