-- ==== Sys2Proof/Machine/Frames.lean ====
section
/-! DEFINITION. The frames that this package sends (spec/21_fabric.md R422 to R424): their bytes, the counters of the port that
carries them (R419), and the chunks of the checkpoint copy (spec/19_command_host.md R414). -/

namespace Sys2Proof.Machine

/-- `FPKG` and this package's identity (R419). -/
def fpkg (s : State) : Word := rawReg s (diePa 0 0x3000)
def ownPkg (s : State) : Nat := bits (fpkg s) 11 0

/-! Line entries (R423) -/

/-- The sixteen 8-byte words of a line; bytes beyond its end are zero (R422). -/
def lineWords (b : List Byte) : List Nat := (List.range 16).map (fun k => gather (fun i => b.getD i 0) (8 * k) 8)

/-- Bit k set where word k is nonzero. -/
def packMap : List Nat → Nat
  | [] => 0
  | w :: ws => (if w = 0 then 0 else 1) + 2 * packMap ws

/-- The payload of the PACK form. -/
def packBytes (ws : List Nat) : List Byte :=
  bytesOfNat 2 (packMap ws) ++ ((ws.filter (fun w => !decide (w = 0))).map (bytesOfNat 8)).flatten

/-- The form and payload of the shortest entry: ZERO, WORD, PACK or RAW, in that order on ties. -/
def lineForm (b : List Byte) : Nat × List Byte :=
  let ws := lineWords b
  if ws.all (fun w => decide (w = 0)) then (0, [])
  else if ws.all (fun w => decide (w = ws.headD 0)) then (1, bytesOfNat 8 (ws.headD 0))
  else if (packBytes ws).length ≤ 128 then (2, packBytes ws)
  else (3, (ws.map (bytesOfNat 8)).flatten)

/-- The entry of a line: the tag with its POISON bit, and the payload. -/
def lineEntry (b : List Byte) (poison : Bool) : List Byte :=
  BitVec.ofNat 8 ((lineForm b).1 + (if poison then 4 else 0)) :: (lineForm b).2

/-- The words of a PACK payload after its map, `k` of them. -/
def unpackWords (map : Nat) : Nat → List Byte → List Byte × List Byte
  | 0, r => ([], r)
  | k + 1, r =>
    if map % 2 = 1 then
      let u := unpackWords (map / 2) k (r.drop 8)
      (r.take 8 ++ u.1, u.2)
    else
      let u := unpackWords (map / 2) k r
      (List.replicate 8 0 ++ u.1, u.2)

/-- The expander on one entry: the line's 128 bytes, its poison mark, and the bytes that follow. -/
def expandEntry : List Byte → Option (List Byte × Bool × List Byte)
  | [] => none
  | t :: r =>
    let poison := t.getLsbD 2
    if 8 ≤ t.toNat then none
    else
      match t.toNat % 4 with
      | 0 => some (List.replicate 128 0, poison, r)
      | 1 => if r.length < 8 then none else some ((List.replicate 16 (r.take 8)).flatten, poison, r.drop 8)
      | 2 =>
        let map := gather (fun i => r.getD i 0) 0 2
        if r.length < 2 + 8 * popNat 16 map then none
        else
          let u := unpackWords map 16 (r.drop 2)
          some (u.1, poison, u.2)
      | _ => if r.length < 128 then none else some (r.take 128, poison, r.drop 128)

/-- The lines of a chunk, at most `fuel` of them. -/
def chunkLines : Nat → List Byte → List (List Byte)
  | 0, _ => []
  | k + 1, b => if b.isEmpty then [] else b.take 128 :: chunkLines k (b.drop 128)

/-! The bytes of a frame (R422) -/

/-- Read requests and barrier frames carry no line entries. -/
def carriesLines (kind : Nat) : Bool := !decide (kind = 2) && !decide (kind = 6)

/-- The 32-byte header. -/
def frameHeader (f : Frame) : List Byte :=
  bytesOfNat 2 f.spkg ++ bytesOfNat 2 f.dpkg ++ bytesOfNat 1 f.kind ++ bytesOfNat 1 (if f.rel then 1 else 0)
    ++ bytesOfNat 2 (f.bytes.length - 1) ++ bytesOfNat 8 f.daddr ++ bytesOfNat 2 f.comm ++ bytesOfNat 2 0
    ++ bytesOfNat 4 f.seq ++ bytesOfNat 8 0

/-- The entries of a chunk's lines, with their marks. -/
def lineEntries : List (List Byte) → List Bool → List Byte
  | [], _ => []
  | l :: ls, ms => lineEntry l (ms.headD false) ++ lineEntries ls (ms.drop 1)

/-- A frame as the compressor forms it. -/
def frameImage (f : Frame) : List Byte :=
  frameHeader f ++ (if carriesLines f.kind then lineEntries (chunkLines 32 f.bytes) f.marks else [])

/-- The expander on `n` line entries: bytes and marks. -/
def expandLines : Nat → List Byte → Option (List Byte × List Bool)
  | 0, _ => some ([], [])
  | n + 1, b =>
    (expandEntry b).bind (fun e => (expandLines n e.2.2).map (fun r => (e.1 ++ r.1, e.2.1 :: r.2)))

/-- The frame that bytes stand for; a KIND 4 frame's atomic and a barrier frame's zero length aside. -/
def expandFrame (b : List Byte) : Option Frame :=
  let field := fun (o n : Nat) => gather (fun i => b.getD i 0) o n
  let len := field 6 2 + 1
  let f : Frame := ⟨field 0 2, field 2 2, field 4 1, decide (field 5 1 % 2 = 1), field 8 8, field 0x10 2, field 0x14 4, [], [], none⟩
  if b.length < 32 then none
  else if f.kind = 6 then some f
  else if f.kind = 2 then some { f with bytes := List.replicate len 0 }
  else (expandLines ((len + 127) / 128) (b.drop 32)).map (fun r => { f with bytes := r.1.take len, marks := r.2 })

/-- A chunk is 1 to 4,096 bytes that cross no 4 KiB boundary of the destination. -/
def frameOk (f : Frame) : Bool :=
  decide (f.kind = 4) || decide (f.kind = 6)
    || (decide (1 ≤ f.bytes.length) && decide (f.daddr % 4096 + f.bytes.length ≤ 4096))

/-- Flits of a frame (R423). -/
def frameFlits (f : Frame) : Nat := ((frameImage f).length + 239) / 240

/-! Sending -/

def fportPa (n : Nat) : Nat := diePa 0 (0x3100 + 16 * n)
def fpcntPa (n : Nat) : Nat := diePa 0 (0x3108 + 16 * n)

/-- A port is enabled and up. -/
def portUp (s : State) (n : Nat) : Bool := decide (bits (rawReg s (fportPa n)) 1 0 = 3)

/-- The port that carries a frame: the lowest that is enabled and up. R418 to R420 leave the choice open (log 61). -/
def sendPort (s : State) : Option Nat := (List.range 64).find? (portUp s)

/-- Count a frame on its port: flits, and the KiB of chunk data, of which the bytes that make no whole KiB yet are kept
(R419). Read requests and barrier frames carry no chunk data. -/
def countFrame (s : State) (port : Option Nat) (f : Frame) : State :=
  match port with
  | none => s
  | some n =>
    let w := rawReg s (fpcntPa n)
    let t := sget 0 s.pkg.portBytes n + (if carriesLines f.kind then f.bytes.length else 0)
    let s := setReg s (fpcntPa n) (wordOf ((bits w 63 32 + frameFlits f) % pow2 32 * pow2 32 + (bits w 31 0 + t / 1024) % pow2 32))
    { s with pkg := { s.pkg with portBytes := sset 0 s.pkg.portBytes n (t % 1024) } }

/-- Send a frame over a port; the sender keeps it until it is answered (R424). With no port it has yet to leave. -/
def sendOver (s : State) (port : Option Nat) (f : Frame) : State :=
  let s := countFrame s port f
  { s with pkg := { s.pkg with held := s.pkg.held ++ [⟨f, false, port.isNone⟩] } }

def sendFrame (s : State) (f : Frame) : State := sendOver s (sendPort s) f

/-- The marks of the lines of a chunk, counted from its first byte (R422). -/
def chunkMarks (s : State) (pa n : Nat) : List Bool :=
  (List.range ((n + 127) / 128)).map (fun i => markAny s (pa + 128 * i) (Nat.min 128 (n - 128 * i)))

/-! The checkpoint copy (R414) -/

def ckctlPa : Nat := ioPa 0 0x200018
def ckdst (s : State) : Word := rawReg s (ioPa 0 0x200008)
def ckports (s : State) : Word := rawReg s (ioPa 0 0x200010)

/-- `CKCTL` with a STATUS and DIR. -/
def ckWord (status : Nat) (dir : Bool) : Word := wordOf (status * 4 + (if dir then 2 else 0))

def ckStatus (s : State) : Nat := bits (rawReg s ckctlPa) 4 2

/-- STATUS changes and DIR stays. -/
def setCkStatus (s : State) (st : Nat) : State := setReg s ckctlPa (ckWord st ((rawReg s ckctlPa).getLsbD 1))

/-- 4 KiB chunks of one die's HBM (R385). -/
def ckPerDie : Nat := hbmBytes / 4096

/-- The physical address of chunk `n` of the whole memory. -/
def ckPa (n : Nat) : Nat := pow2 37 * (n / ckPerDie) + 4096 * (n % ckPerDie)

/-- The tier's address of chunk `n`: the image is contiguous from `CKDST` on. -/
def ckTierPa (s : State) (n : Nat) : Nat := bits (ckdst s) 51 0 + 4096 * n

/-- The parts of a 4 KiB range at `a` that cross no 4 KiB boundary: offset and length (R422). -/
def ckCuts (a : Nat) : List (Nat × Nat) :=
  if a % 4096 = 0 then [(0, 4096)] else [(0, 4096 - a % 4096), (4096 - a % 4096, a % 4096)]

/-- The frames of chunk `n`: writes of its bytes and marks to the tier, or read requests for them. -/
def ckFrames (s : State) (n : Nat) : List Frame :=
  (ckCuts (ckTierPa s n)).map (fun c =>
    let f : Frame := ⟨ownPkg s, bits (ckdst s) 63 52, 0, false, ckTierPa s n + c.1, 0, 0, [], [], none⟩
    if s.pkg.ckDir then { f with kind := 2, bytes := List.replicate c.2 0 }
    else { f with
      bytes := (List.range c.2).map (fun k => peekByte s (ckPa n + c.1 + k))
      marks := chunkMarks s (ckPa n + c.1) c.2 })

/-- The port of chunk `n`: the ports of `CKPORTS` that are up take the chunks in turn; when all of them are down, traffic uses
another port (R414, R420). -/
def ckPort (s : State) (n : Nat) : Option Nat :=
  let l := (List.range 64).filter (fun p => (ckports s).getLsbD p && portUp s p)
  if l = [] then sendPort s else l[n % l.length]?

/-- The chunk under way leaves this package; one for its own identity is refused (R421). -/
def ckSend (s : State) : State :=
  let n := s.pkg.ckChunk
  let fs := ckFrames s n
  if bits (ckdst s) 63 52 = ownPkg s then setCkStatus s 4
  else
    let s := { s with pkg := { s.pkg with ckParts := fs.map (fun f => f.daddr) } }
    fs.foldl (fun s f => sendOver s (ckPort s n) f) s

/-! Frames that leave again or late -/

/-- The port that carries a frame now: KIND 0 and 2 are the checkpoint's. -/
def framePort (s : State) (f : Frame) : Option Nat :=
  if f.kind = 0 ∨ f.kind = 2 then ckPort s s.pkg.ckChunk else sendPort s

/-- A held frame leaves, and is counted (R419); with no port up it has yet to leave. -/
def leaveHeld (s : State) (i : Nat) : State :=
  match s.pkg.held[i]? with
  | none => s
  | some x =>
    let port := framePort s x.frame
    let s := countFrame s port x.frame
    { s with pkg := { s.pkg with held := s.pkg.held.modify i (fun x => { x with refused := false, unsent := port.isNone }) } }

/-- A port came up: the frames that no port could carry leave (R420), but for those that wait for a retry. -/
def sendUnsent (s : State) : State :=
  ((enumList s.pkg.held).filter (fun p => p.2.unsent && !p.2.refused)).foldl (fun s p => leaveHeld s p.1) s

/-! The checkpoint's chunks -/

/-- The chunk under way is over: the next one leaves, or the copy is done. -/
def ckAdvance (s : State) : State :=
  let n := s.pkg.ckChunk + 1
  let s := { s with pkg := { s.pkg with ckChunk := n, ckParts := [] } }
  if 8 * ckPerDie ≤ n then setCkStatus s 2 else ckSend s

/-- A part of the chunk under way is over. -/
def ckPartOver (s : State) (daddr : Nat) : State :=
  if ckStatus s = 1 ∧ s.pkg.ckParts.contains daddr = true then
    let l := s.pkg.ckParts.erase daddr
    if l = [] then ckAdvance s else { s with pkg := { s.pkg with ckParts := l } }
  else s

/-- Write delivered bytes with the marks of their lines. -/
def ckDeliver (s : State) (pa : Nat) (b : List Byte) (marks : List Bool) : State :=
  (enumList (b.zip ((List.range b.length).map (fun k => marks.getD (k / 128) false)))).foldl
    (fun s p => if p.2.2 then setMemMark s (pa + p.1) true else s) (pokeBytes s pa b)

/-- GO of the checkpoint (R414, R415): ignored while a copy runs. -/
def ckGo (s : State) (dir ready : Bool) : State :=
  if ckStatus s = 1 then s
  else if ready ∧ ¬ ckports s = 0 then
    ckSend { setReg s ckctlPa (ckWord 1 dir) with pkg := { s.pkg with ckChunk := 0, ckDir := dir, ckParts := [] } }
  else setReg s ckctlPa (ckWord 3 dir)

end Sys2Proof.Machine
end

