-- ==== Sys2Proof/Machine/Translate.lean ====
section
/-! DEFINITION. Translation (spec/13_die_translation.md R300 to R306) and the permission checks of the Plaza windows
(spec/18_memory_model.md R385 to R389). -/

namespace Sys2Proof.Machine

/-- The kinds of access a translation serves (R304). -/
inductive Acc where
  | fetch | read | write | rmw
  deriving DecidableEq, Repr

/-- A translation context: level, root and address space, and the cache it goes through. -/
structure Ctx where
  level : Level
  root : BitVec 40
  asid : BitVec 16
  tlb : Nat
  deriving DecidableEq, Repr

/-- A hart's own context: its level and its sampled pair (R301). -/
def hartCtx (s : State) (h : Nat) : Ctx :=
  let x := s.hartAt h
  ⟨x.level, x.root, x.asid, tlbOf h⟩

/-- What a translation answers. -/
inductive XRes where
  | ok (pa : Nat) (sizeCode : Nat) (noat glob : Bool)
  | fault (sub size : Nat)
  | poison (line : Nat)
  | held
  deriving DecidableEq, Repr

/-- Canonical addresses: bits [63:57] all equal bit 56 (R300). -/
def canonical (va : Nat) : Bool :=
  decide (va / pow2 56 = 0) || decide (va / pow2 56 = 255)

/-- log2 of the page size of a SIZE code (R4, R302). -/
def pageLog : Nat → Nat
  | 0 => 12 | 1 => 14 | 2 => 16 | 3 => 18 | 4 => 20 | 5 => 21 | 6 => 22 | 7 => 24 | 8 => 26 | 9 => 28 | 10 => 30
  | _ => 32

/-- The SIZE reported when the walk fails at a level (R303). -/
def sizeAt : Nat → Nat
  | 0 => 0 | 1 => 5 | _ => 10

/-- Leaf sizes of a level (R303). -/
def leafSize (lv code : Nat) : Bool :=
  match lv with
  | 0 => decide (code ≤ 4)
  | 1 => decide (5 ≤ code) && decide (code ≤ 9)
  | 2 => decide (code = 10) || decide (code = 11)
  | _ => false

/-- A page-table entry (R302). -/
structure Pte where
  pfn : Nat
  size : Nat
  noat : Bool
  g : Bool
  u : Bool
  x : Bool
  w : Bool
  r : Bool
  v : Bool
  res0 : Bool
  deriving DecidableEq, Repr

def pteOf (w : Nat) : Pte where
  pfn := w / pow2 12 % pow2 40
  size := w / 256 % 16
  noat := w.testBit 6
  g := w.testBit 5
  u := w.testBit 4
  x := w.testBit 3
  w := w.testBit 2
  r := w.testBit 1
  v := w.testBit 0
  res0 := decide (w / pow2 52 % 256 = 0) && !w.testBit 7

/-- `permitted` of R304 on the permission bits. -/
def permitted (u x w r : Bool) (acc : Acc) (lvl : Level) : Bool :=
  (match acc with
    | .fetch => x && (decide (lvl = .u) || !u)
    | .read => r
    | .write => w
    | .rmw => r && w)
  && (!decide (lvl = .u) || u)

/-- A migration holds the entry at an address (R313). -/
def ptehHeld (s : State) (pa : Nat) : Bool :=
  s.dies.migs.any (fun q => match q.2 with
    | m :: _ => decide (1 ≤ m.phase) && decide (m.ptea = pa)
    | [] => false)

/-- The walk of R304 from level `lv` down, the table at `a`. -/
def walk (s : State) (va : Nat) (acc : Acc) (lvl : Level) : Nat → Nat → Except XRes TlbEntry
  | fuel, a =>
    let lv := fuel
    let ea := a + 8 * (va / pow2 (12 + 9 * lv) % 512)
    if !memBackedAll s ea 8 then .error (.fault 0 (sizeAt lv))
    else if ptehHeld s ea then .error .held
    else if markAt s ea then .error (.poison (poisonPa ea))
    else
      let p := pteOf (peek s ea 8)
      if !p.v || !p.res0 then .error (.fault 0 (sizeAt lv))
      else if !p.r && !p.w && !p.x then
        match fuel with
        | 0 => .error (.fault 0 (sizeAt lv))
        | k + 1 => if p.size = 0 then walk s va acc lvl k (p.pfn * 4096) else .error (.fault 0 (sizeAt lv))
      else
        let k := pageLog p.size
        if !leafSize lv p.size || !decide (p.pfn % pow2 (k - 12) = 0) then .error (.fault 0 (sizeAt lv))
        else if !permitted p.u p.x p.w p.r acc lvl then .error (.fault 1 p.size)
        else .ok ⟨0, va / pow2 k * pow2 k, pow2 k, p.pfn * 4096, p.size, p.g, p.u, p.x, p.w, p.r, p.noat⟩

/-- A cached entry covers an address of an address space (R306). -/
def TlbEntry.covers (t : TlbEntry) (asid : BitVec 16) (va : Nat) : Bool :=
  decide (t.vbase ≤ va) && decide (va < t.vbase + t.size) && (t.glob || decide (t.asid = asid))

def tlbAt (s : State) (k : Nat) : List TlbEntry := sget [] s.cores.tlb k

def setTlb (s : State) (k : Nat) (l : List TlbEntry) : State :=
  { s with cores := { s.cores with tlb := sset [] s.cores.tlb k l } }

/-- A Vault window onto a core position that holds no working core: an atomic aimed at it has no path (R298). -/
def deadVault (s : State) (pa : Nat) : Bool :=
  match regionOf pa with
  | .vault c _ => coreDead s c
  | _ => false

/-- The answer that a translation entry gives (R304): permission refused, or the address. -/
def entryAnswer (t : TlbEntry) (va : Nat) (acc : Acc) (lvl : Level) : XRes :=
  if !permitted t.user t.x t.w t.r acc lvl then .fault 1 t.sizeCode
  else .ok (t.pbase + (va - t.vbase)) t.sizeCode t.noat t.glob

/-- A translated address that nothing backs is not mapped (R304). -/
def backedAnswer (s : State) (acc : Acc) : XRes → XRes
  | .ok pa size noat glob =>
    if backed s pa || (decide (acc = .rmw) && deadVault s pa) then .ok pa size noat glob else .fault 0 size
  | r => r

/-- A cached translation that the cache no longer keeps is gone (R306). -/
def dropGone (s : State) (c : Ctx) (va : Nat) : State :=
  if (tlbAt s c.tlb).any (fun t => t.covers c.asid va) && !Config.cacheKeeps s.tick c.tlb then
    setTlb s c.tlb ((tlbAt s c.tlb).filter (fun t => !t.covers c.asid va))
  else s

/-- The translation is completed without a fault. -/
def completes (s : State) (acc : Acc) (r : XRes) : Bool :=
  match backedAnswer s acc r with
  | .ok _ _ _ _ => true
  | _ => false

/-- Cache a translation, unless its result faults (R306). -/
def cacheEntry (s : State) (c : Ctx) (va : Nat) (acc : Acc) (t : TlbEntry) : State :=
  if completes s acc (entryAnswer t va acc c.level) then setTlb s c.tlb (t :: (tlbAt s c.tlb).take 4095) else s

/-- Translate at S or U (R304, R306), without the check of what backs the result. A cached translation acts while the
cache keeps it; else a walk is made and its translation cached. -/
def translateEntry (s : State) (c : Ctx) (va : Nat) (acc : Acc) : State × XRes :=
  if !canonical va then (s, .fault 0 10)
  else
    let s := dropGone s c va
    match (tlbAt s c.tlb).find? (fun t => t.covers c.asid va) with
    | some t => (s, entryAnswer t va acc c.level)
    | none =>
      match walk s va acc c.level 4 (c.root.toNat * 4096) with
      | .error r => (s, r)
      | .ok t =>
        let t := { t with asid := c.asid }
        (cacheEntry s c va acc t, entryAnswer t va acc c.level)

/-- Translate at S or U (R304, R306). -/
def translate (s : State) (c : Ctx) (va : Nat) (acc : Acc) : State × XRes :=
  let r := translateEntry s c va acc
  (r.1, backedAnswer r.1 acc r.2)

/-- `PZPERM` refuses an access at a level in an address space to the Vault (or Square) window of a core (R389). -/
def pzRefuses (s : State) (lvl : Level) (asid : BitVec 16) (acc : Acc) (c : Nat) (square : Bool) : Bool :=
  let p := rawReg s (ctlPa c 0x300)
  let sh := if square then 2 else 0
  let rd := p.getLsbD sh
  let wr := p.getLsbD (sh + 1)
  let ok := (match acc with
      | .fetch | .read => rd
      | .write => wr
      | .rmw => rd && wr)
    && (!p.getLsbD 4 || decide (bits p 47 32 = asid.toNat))
  decide (lvl = .u) && !ok

/-- The SUB of the fault that an access of `n` bytes by an agent of the device meets in the physical map, if any: 0 not
mapped, 1 permission (R385, R387, R388, R389). -/
def windowSub (s : State) (lvl : Level) (asid : BitVec 16) (acc : Acc) (pa n : Nat) : Option Nat :=
  match regionOf pa with
  | .hole => some 0
  | .hbm _ | .hostWin _ _ => if backed s (pa + n - 1) then none else some 0
  | .vault c _ =>
    if coreDead s c && decide (acc = .rmw) then none
    else if coreDead s c || !backed s (pa + n - 1) then some 0
    else if pzRefuses s lvl asid acc c false then some 1 else none
  | .square c _ _ b =>
    if coreDead s c || !decide (b % n = 0) || !(decide (n = 1) || decide (n = 2) || decide (n = 4) || decide (n = 8))
    then some 0
    else if pzRefuses s lvl asid acc c true then some 1 else none
  | .aperture _ _ _ => if (viewOf s pa).isSome && (viewOf s (pa + n - 1)).isSome then none else some 0
  | _ =>
    if !isRegister pa then some 0
    else if decide (acc = .fetch) || decide (lvl = .u) || !decide (n = 8) || !decide (pa % 8 = 0) then some 1
    else none

/-- The trap of a fault on an access by a hart (R40, R127). -/
def faultTrap (acc : Acc) (sub : Nat) (va : Word) : TrapInfo :=
  match acc with
  | .fetch => tIfault sub va
  | .read => tLfault sub va
  | .write | .rmw => tSfault sub va

/-- The requests queued in a core (R308). -/
def shootQueue (s : State) (c : Nat) : List ShootReq := sget [] s.cores.shootQ c

/-- The physical address of an access of `n` bytes by the current hart, with its checks (R300, R304, R309, R385 to
R389). At M the address is physical. -/
def hartPa (s : State) (va : Word) (acc : Acc) (n : Nat) : Eff (State × Nat) :=
  let c := hartCtx s s.cur
  if c.level = .m then
    match windowSub s .m c.asid acc va.toNat n with
    | some sub => raise s (faultTrap acc sub va)
    | none => .ok (s, va.toNat)
  else if s.hart.quiet && !isCommand s.cur && !(shootQueue s (coreOf s.cur)).isEmpty then waitFor s .retry
  else
    match translate s c va.toNat acc with
    | (s, .fault sub _) => raise s (faultTrap acc sub va)
    | (s, .poison line) => raise s (tPoisonMem line)
    | (s, .held) => waitFor s .retry
    | (s, .ok pa _ noat _) =>
      if noat && decide (acc = .rmw) then raise s (tAtompath va)
      else
        match windowSub s c.level c.asid acc pa n with
        | some sub => raise s (faultTrap acc sub va)
        | none => .ok (s, pa)

end Sys2Proof.Machine
end

