-- ==== Sys2Proof/Machine/StreamIdx.lean ====
section
/-! DEFINITION. What each element of a stream names (spec/07_vault_streams.md R222 to R231): parameter blocks, element
indices, the places on the memory side and on the Vault or register side, and the lines a stream still owes. -/

namespace Sys2Proof.Machine

/-- A field of `n` bytes at byte `off` of a block held as one little-endian number. -/
def fieldAt (b off n : Nat) : Nat := b / pow2 (8 * off) % pow2 (8 * n)

/-- A signed field. -/
def sfieldAt (b off n : Nat) : Int := sxNat (fieldAt b off n) (8 * n)

/-- Bits of an element by ESIZE (R222). -/
def esizeBits : Nat → Nat
  | 0 => 4 | 1 => 6 | 2 => 8 | 3 => 16 | 4 => 32 | _ => 64

def Slot.func (x : Slot) : Nat := x.bits.toNat / pow2 18 % 16
def Slot.smod (x : Slot) : Nat := x.bits.toNat % 4

/-- The slot the issuing instruction names, and for `sldv` its register. -/
def Slot.vd (x : Slot) : Nat := x.bits.toNat / 4 % 64

/-- CLR (R217, R230): bit 0 of SMOD on the load forms. -/
def Slot.clr (x : Slot) : Bool :=
  decide (x.smod % 2 = 1) && (decide (x.func = 0) || decide (x.func = 3) || decide (x.func = 5) || decide (x.func = 9))

/-- `sfill.m` (R230). -/
def Slot.fillMem (x : Slot) : Bool := decide (x.func = 9) && decide (2 ≤ x.smod)

/-- The ordered forms (R231). -/
def Slot.ordered (x : Slot) : Bool :=
  match x.func with
  | 1 | 9 => true
  | 4 => decide (2 ≤ x.smod)
  | _ => false

/-- The form reads its memory side. -/
def Slot.reads (x : Slot) : Bool := decide (x.func = 0) || decide (x.func = 2) || decide (x.func = 3) || decide (x.func = 5)

/-- The form writes its memory side. -/
def Slot.stores (x : Slot) : Bool := decide (x.func = 1) || decide (x.func = 4) || x.fillMem

/-- The form writes the Vault. -/
def Slot.loads (x : Slot) : Bool :=
  decide (x.func = 0) || decide (x.func = 3) || decide (x.func = 5) || (decide (x.func = 9) && !x.fillMem)

def Slot.esize (x : Slot) : Nat := fieldAt x.block 1 1
def Slot.flags (x : Slot) : Nat := fieldAt x.block 2 1
def Slot.ndim (x : Slot) : Nat := fieldAt x.block 3 1
def Slot.fill (x : Slot) : Nat := fieldAt x.block 8 8
def Slot.wbits (x : Slot) : Nat := esizeBits x.esize

/-- Fields of dimension `d` of an affine block (R224). -/
def dimCnt (b d : Nat) : Nat := fieldAt b (0x10 + 32 * d) 4
def dimLimit (b d : Nat) : Nat := fieldAt b (0x14 + 32 * d) 4
def dimOrigin (b d : Nat) : Int := sfieldAt b (0x18 + 32 * d) 4
def dimM (b d : Nat) : Int := sfieldAt b (0x20 + 32 * d) 8
def dimV (b d : Nat) : Int := sfieldAt b (0x28 + 32 * d) 8

/-- Coordinates of element `e` over dimensions `d` to `d + k` (R225): the last dimension is unbounded. -/
def coords (b : Nat) : Nat → Nat → Nat → List (Nat × Nat)
  | _, 0, _ => []
  | d, 1, e => [(d, e)]
  | d, k + 2, e => (d, e % dimCnt b d) :: coords b (d + 1) (k + 1) (e / dimCnt b d)

/-- P of R225: the product of the counts. -/
def affineCount (b ndim : Nat) : Nat := (List.range ndim).foldl (fun acc d => acc * dimCnt b d) 1

/-- xm, xv and whether the element is clipped (R225). -/
def affineElem (b ndim e : Nat) : Int × Int × Bool :=
  let cs := coords b 0 ndim e
  let xm := cs.foldl (fun acc c => acc + (dimOrigin b c.1 + (c.2 : Int)) * dimM b c.1) (0 : Int)
  let xv := cs.foldl (fun acc c => acc + (c.2 : Int) * dimV b c.1) (0 : Int)
  let clip := cs.any (fun c =>
    let p := dimOrigin b c.1 + (c.2 : Int)
    !decide (dimLimit b c.1 = 0) && (decide (p < 0) || decide ((dimLimit b c.1 : Int) ≤ p)))
  (xm, xv, clip || decide (affineCount b ndim ≤ e))

/-- Where an element lies: whole bytes, or single bits as (byte address, bit) from its low bit on; `negative` is a packed index
below 0 (kind 2 of R239), and `below` a repacked one (R226) with its lowest offset. Addresses are exact (R15). -/
inductive Place where
  | bytes (addr : Int) (len : Nat)
  | bits (l : List (Int × Nat))
  | none
  | negative
  | below (lo : Int)
  deriving DecidableEq, Repr

def bitPlaces (base start w : Nat) : Place :=
  .bits ((List.range w).map (fun i => (((base + (start + i) / 8 : Nat) : Int), (start + i) % 8)))

/-- Element `x` of an array of `w`-bit elements at `base` (R54, R223). -/
def arrayPlace (base w : Nat) (x : Int) : Place :=
  if w < 8 then (if x < 0 then .negative else bitPlaces base (packBit w x.toNat) w)
  else .bytes ((base : Int) + x * ((w / 8 : Nat) : Int)) (w / 8)

/-- The LG6 lane-word place of Vault index `x` under REPACK (R226). DEDUCED: an element of a negative index faults with the offset at
which its lane word would start (R239, R242, log 106). -/
def repackPlace (v : Nat) (x : Int) : Place :=
  let lane := x / 16
  let a : Int := (v : Int) + 256 * (lane / 16) + 8 * (lane % 16)
  if x < 0 then .below a
  else
    .bits ((List.range 6).map (fun i =>
      let p := 6 * (x.toNat % 16) + i
      (a + ((if p / 8 < 8 then p / 8 else 128 + (p / 8 - 8) : Nat) : Int), p % 8)))

/-- The bytes a place touches. -/
def Place.addrs : Place → List Int
  | .bytes a n => (List.range n).map (fun (k : Nat) => a + (k : Int))
  | .bits l => l.map (fun p => p.1)
  | .below lo => [lo]
  | _ => []

/-- Those of them that are no negative offset. -/
def Place.offs (p : Place) : List Nat := (p.addrs.filter (fun a => decide (0 ≤ a))).map Int.toNat

/-- A memory-side place: virtual addresses have 64 bits. -/
def Place.wrap : Place → Place
  | .bytes a n => .bytes (a % (pow2 64 : Int)) n
  | .bits l => .bits (l.map (fun p => (p.1 % (pow2 64 : Int), p.2)))
  | p => p

/-- The window tokens of a paged block (R229): t0 and T. -/
def pagedT0 (b : Nat) : Nat := fieldAt b 0x38 4 / fieldAt b 0x32 2 * fieldAt b 0x32 2
def pagedT (b : Nat) : Nat :=
  let bs := fieldAt b 0x32 2
  (fieldAt b 0x3C 4 + bs - 1) / bs * bs - pagedT0 b

def pagedCount (b : Nat) : Nat :=
  if fieldAt b 0x3C 4 ≤ fieldAt b 0x38 4 then 0 else fieldAt b 0x34 2 * pagedT b

/-- Head, token and table entry of element `e` of a paged stream (R229). -/
def pagedElem (b e : Nat) : Nat × Nat × Nat :=
  let t := pagedT0 b + e % pagedT b
  (e / pagedT b, t, t / fieldAt b 0x32 2)

/-- The Vault-side place of element `e`, known without reading memory. -/
def vaultPlace (x : Slot) (e : Nat) : Place :=
  match x.func with
  | 0 | 1 | 9 =>
    if x.fillMem then .none
    else
      let xv := (affineElem x.block x.ndim e).2.1
      if x.flags / 2 % 2 = 1 then repackPlace x.vbase.toNat xv else arrayPlace x.vbase.toNat x.wbits xv
  | 3 | 4 => arrayPlace x.vbase.toNat x.wbits ((e : Int) * sfieldAt x.block 0x28 8)
  | 5 =>
    let p := pagedElem x.block e
    let tau := e % pagedT x.block
    .bytes ((x.vbase.toNat + p.1 * fieldAt x.block 0x28 8 + tau * fieldAt x.block 0x30 2 : Nat) : Int)
      (fieldAt x.block 0x30 2)
  | _ => .none

/-- A Vault-side place lies within the Vault (R239 kind 3). -/
def placeInVault (p : Place) : Bool :=
  match p with
  | .negative | .below _ => false
  | q => q.addrs.all (fun a => decide (0 ≤ a) && decide (a < (vaultBytes : Int)))

/-- An element that the stream has still to perform: outside the window the start index decides, inside a stopped window
the residue mask (R241, R244), and inside an open one the next index and the elements that faulted. -/
def Slot.pending (x : Slot) (e : Nat) : Bool :=
  decide (e < x.n)
    && (if x.rvalid && decide (e / 1024 * 1024 = x.winBase) then
          x.residue.testBit (e % 1024) && (!x.winOpen || decide (x.next ≤ e) || x.fmask.testBit (e % 1024))
        else if x.winOpen && decide (e / 1024 * 1024 = x.winBase) then
          decide (x.next ≤ e) || x.fmask.testBit (e % 1024)
        else if x.winOpen then decide (x.winBase + 1024 ≤ e)
        else decide (x.start ≤ e))

/-- The elements still to perform. -/
def Slot.pendingList (x : Slot) : List Nat := (List.range x.n).filter (fun e => decide (x.s0 ≤ e) && x.pending e)

/-- The place touches the Vault line at offset `line`·128. -/
def placeHits (p : Place) (line : Nat) : Bool := p.offs.any (fun a => decide (a / 128 = line))

/-- The stream still writes Vault line `line`, counting no element but those for which `p` holds (R217, R243). DEDUCED: only
lines that it writes on its Vault side are owed, not those that it reaches on its memory side through a Plaza window, of which
R243 says nothing (log 82). -/
def Slot.owesLineIf (x : Slot) (p : Nat → Bool) (line : Nat) : Bool :=
  x.loads && x.pendingList.any (fun e => p e && placeHits (vaultPlace x e) line)

def Slot.owesLine (x : Slot) (line : Nat) : Bool := x.owesLineIf (fun _ => true) line

/-- The element group (R89) of element `e` at width `ew`. -/
def groupOf (ew e : Nat) : Nat := e / (1024 / ew)

/-- An `sldv` still delivers elements of logical group `j` of its register. -/
def Slot.owesGroupIf (x : Slot) (p : Nat → Bool) (row j : Nat) : Bool :=
  decide (x.func = 2) && decide (x.vd = row)
    && x.pendingList.any (fun e => p e && decide (groupOf (ewOf x.vew) e = j))

def slotKey (h k : Nat) : Nat := h * 16 + k

def slotAt (s : State) (h k : Nat) : Slot := sget Slot.reset s.slots (slotKey h k)

def setSlot (s : State) (h k : Nat) (x : Slot) : State :=
  { s with slots := sset Slot.reset s.slots (slotKey h k) x }

/-- The Plaza address of a slot's record area (R242). -/
def recordPa (h k : Nat) : Nat := ctlPa (coreOf h) (0x10000 + (16 * partOf h + k) * 256)

/-- The lowest FAULTED slot of a hart that satisfies `p`. -/
def faultedSlot (s : State) (h : Nat) (p : Nat → Slot → Bool) : Option Nat :=
  (List.range 16).find? (fun k => decide ((slotAt s h k).state = .faulted) && p k (slotAt s h k))

def tStreamOf (h k : Nat) : TrapInfo := tStream k (recordPa h k)

/-- A `.clr` stream of core `c` still owes the line at offset `off`, so that the line reads as empty (R217). -/
def clrOwes (s : State) (c off : Nat) : Bool :=
  s.slots.any (fun p => decide (p.1 / 128 = c) && p.2.clr
    && (decide (p.2.state = .running) || decide (p.2.state = .faulted)) && p.2.owesLine (off % pow2 24 / 128))

/-- A Vault line reads as empty: its bit is clear, or a `.clr` stream owes it (R217). -/
def lineReadsEmpty (s : State) (c off : Nat) : Bool := lineEmpty s c off || clrOwes s c off

/-- Stall on a Vault line: STREAM when a FAULTED slot of the hart owes it (R243), else a wait for the bit (R178). -/
def stallLine {α : Type} (s : State) (c off : Nat) (full : Bool) : Eff α :=
  let line := off % pow2 24 / 128
  match (if isCommand s.cur || !decide (c = coreOf s.cur) then none
    else faultedSlot s s.cur (fun _ x => x.owesLine line)) with
  | some k => raise s (tStreamOf s.cur k)
  | none => waitFor s (.line c line full)

/-- Stall on an element group that is not landed: STREAM when a FAULTED slot of the hart owes it (R156, R243). -/
def stallGroup {α : Type} (s : State) (row p : Nat) : Eff α :=
  let j := logicalOf s.hart.grant p
  match faultedSlot s s.cur (fun _ x => x.owesGroupIf (fun _ => true) row j) with
  | some k => raise s (tStreamOf s.cur k)
  | none => waitFor s (.landed (coreOf s.cur) row p)

end Sys2Proof.Machine
end

