-- ==== Sys2Proof/Machine/Control.lean ====
section
/-! DEFINITION. Operations on control registers and the units behind them: EXT sources (spec/19_command_host.md R409),
barriers (spec/04_scalar.md R132, R133), pipelines' START and STOP (spec/15_pipelines.md R325 to R330, R344), queues
(R401), ownership (R412), device pre-emption (R413), checkpoint (R414), and the write of any register (R388). -/

namespace Sys2Proof.Machine

/-! EXT sources -/

/-- Queue an EXT source; a die source that finds 16 sources waits (R409). -/
def extPush (s : State) (h src : Nat) : State :=
  let q := extQueue s h
  if q.length < 16 then { s with cores := { s.cores with extQ := sset [] s.cores.extQ h (q ++ [src]) } }
  else { s with cores := { s.cores with extWait := sset [] s.cores.extWait h (sget [] s.cores.extWait h ++ [src]) } }

/-- Remove the oldest source; a waiting die source then enters (R409). -/
def extAck (s : State) (h : Nat) : State :=
  let q := (extQueue s h).drop 1
  match sget [] s.cores.extWait h with
  | [] => { s with cores := { s.cores with extQ := sset [] s.cores.extQ h q } }
  | w :: ws =>
    if q.length < 16 then
      { s with cores := { s.cores with extQ := sset [] s.cores.extQ h (q ++ [w]), extWait := sset [] s.cores.extWait h ws } }
    else { s with cores := { s.cores with extQ := sset [] s.cores.extQ h q } }

/-- The hart a notification register names (R320, R327). -/
def notedHart (w : Word) : Nat := bits w 11 3 * 8 + bits w 2 0

/-- EXT source `src` at the hart that `ERRNOTE` of a die names, when EN = 1 (R320, R350). -/
def errNotify (s : State) (d src : Nat) : State :=
  let r := rawReg s (diePa d 0x318)
  if bits r 15 15 = 1 then extPush s (notedHart r) src else s

/-! Barriers -/

/-- The instance of a scope that holds a hart (R1, R132, R368). -/
def scopeInst (sc : Scope) (h : Nat) : Nat :=
  match sc with
  | .core => if isCommand h then 65536 + h else coreOf h
  | .quad => if isCommand h then 65536 + h else coreOf h / 4
  | .die => if isCommand h then 65536 + h else dieOf h
  | .pkg | .pod => 0

def barrierKey (sc : Scope) (inst b : Nat) : Nat := (scopeCode sc * pow2 20 + inst) * 16 + b

def barrierAt (s : State) (k : Nat) : Barrier := sget Barrier.reset s.pkg.barriers k

def setBarrier (s : State) (k : Nat) (b : Barrier) : State :=
  { s with pkg := { s.pkg with barriers := sset Barrier.reset s.pkg.barriers k b } }

/-- Complete the current phase (R133); the next phase takes its count from its first arrival. -/
def Barrier.complete (b : Barrier) : Barrier := ⟨b.phase + 1, 0, 0⟩

/-- One arrival with count `n` (R132, R133): the first of a phase fixes the expected count. -/
def Barrier.arrive (b : Barrier) (n : Nat) : Barrier :=
  let e := if b.expected = 0 then n else b.expected
  if b.arrived + 1 = e then b.complete else ⟨b.phase, b.arrived + 1, e⟩

/-- A withdrawal: the count falls by 1 and the expected count stays (R134). -/
def Barrier.withdraw (b : Barrier) : Barrier := { b with arrived := b.arrived - 1 }

/-- Abort the quad barriers of a set and mark them (R297). -/
def quadAbort (s : State) (quad : Nat) (m : BitVec 16) : State :=
  let s := (List.range 16).foldl (fun s b =>
    if m.getLsbD b then
      let k := barrierKey .quad quad b
      setBarrier s k (barrierAt s k).complete
    else s) s
  setReg s (qbctlPa quad) (rawReg s (qbctlPa quad) ||| (wordOf (m.toNat * 65536)))

/-- Clear ABORTED bits (R297). -/
def quadAbortedClear (s : State) (quad : Nat) (m : BitVec 16) : State :=
  setReg s (qbctlPa quad) (rawReg s (qbctlPa quad) &&& ~~~ (wordOf (m.toNat * 65536)))

/-! Pipelines -/

/-- `n` bytes of memory at a physical address, none where nothing backs them. -/
def peekBacked (s : State) (pa n : Nat) : Option Nat := if memBackedAll s pa n then some (peek s pa n) else none

/-- One avenue table entry (R323). -/
def parseAv (b : Nat) : Option AvDesc :=
  let r := fieldAt b 0 2
  let c := fieldAt b 4 4
  if 16 ≤ r ∧ r ≤ 256 ∧ r % 16 = 0 ∧ 1 ≤ c ∧ c ≤ 1048576 ∧ fieldAt b 2 2 = 0 ∧ fieldAt b 8 8 = 0 then some ⟨r, c⟩
  else none

/-- One stage table entry (R324, R325). -/
def parseStage (nav b : Nat) : Option StageDesc :=
  let mn := fieldAt b 8 1
  let mx := fieldAt b 9 1
  let im := fieldAt b 0x10 4
  let om := fieldAt b 0x14 4
  let cm := fieldAt b 0x2C 1
  let cp := fieldAt b 0x2D 1
  if fieldAt b 0 8 % 4 = 0 ∧ mn ≤ 64 ∧ mn ≤ mx ∧ mx ≤ 64 ∧ 1 ≤ fieldAt b 0xA 2 ∧ fieldAt b 0xC 4 = 0
      ∧ im < pow2 nav ∧ om < pow2 nav ∧ im &&& om = 0 ∧ 1 ≤ cm ∧ cm ≤ cp ∧ cp ≤ 8 ∧ fieldAt b 0x2E 1 ≤ 7
      ∧ fieldAt b 0x2F 1 ≤ 3 ∧ fieldAt b 0x38 8 = 0 then
    some {
      entry := wordOf (fieldAt b 0 8)
      min := mn
      max := mx
      weight := fieldAt b 0xA 2
      inmask := BitVec.ofNat 32 im
      outmask := BitVec.ofNat 32 om
      arg := wordOf (fieldAt b 0x18 8)
      stack := wordOf (fieldAt b 0x20 8)
      sstride := fieldAt b 0x28 4
      cmin := cm
      cpref := cp
      tprio := BitVec.ofNat 3 (fieldAt b 0x2E 1)
      tew := BitVec.ofNat 2 (fieldAt b 0x2F 1)
      deadline := fieldAt b 0x30 4
      dlthr := fieldAt b 0x34 4 }
  else none

/-- Every entry of a list, or none. -/
def allSome {α : Type} : List (Option α) → Option (List α)
  | [] => some []
  | none :: _ => none
  | some a :: r => (allSome r).map (fun l => a :: l)

def sumNat (l : List Nat) : Nat := l.foldl (fun a b => a + b) 0

/-- The index of the entry that satisfies `ok` and is best by `better` (strictly), ties to the lowest. -/
def bestIdx {α : Type} (ok : Nat → α → Bool) (better : α → α → Bool) (l : List α) : Option Nat :=
  ((enumList l).foldl (fun acc p =>
    if ok p.1 p.2 then
      match acc with
      | none => some p
      | some q => if better p.2 q.2 then some p else acc
    else acc) (none : Option (Nat × α))).map (fun p => p.1)

/-- One stage of the target rule: target, remainder, demand, MIN and MAX. -/
structure Share where
  t : Nat
  r : Int
  d : Nat
  min : Nat
  max : Nat
  deriving DecidableEq, Repr

def clampNat (x lo hi : Nat) : Nat := if x < lo then lo else if hi < x then hi else x

/-- The first loop of R344: hand out cores while the targets sum below C. -/
def growShares (total : Nat) (c : Nat) : Nat → List Share → List Share
  | 0, l => l
  | k + 1, l =>
    if sumNat (l.map (fun x => x.t)) < c then
      match bestIdx (fun _ (x : Share) => decide (x.t < x.max))
          (fun a b => decide (b.r < a.r) || (decide (a.r = b.r) && decide (b.d < a.d))) l with
      | some i => growShares total c k (l.modify i (fun x => { x with t := x.t + 1, r := x.r - (total : Int) }))
      | none => l
    else l

/-- The second loop of R344: take cores back while they sum above C. -/
def shrinkShares (c : Nat) : Nat → List Share → List Share
  | 0, l => l
  | k + 1, l =>
    if c < sumNat (l.map (fun x => x.t)) then
      match bestIdx (fun _ (x : Share) => decide (x.min < x.t)) (fun a b => decide (a.d < b.d)) l with
      | some i => shrinkShares c k (l.modify i (fun x => { x with t := x.t - 1 }))
      | none => l
    else l

/-- The targets of R344 for demands `ds`; none when every demand is 0. -/
def targets (c : Nat) (stages : List StageDesc) (ds : List Nat) : Option (List Nat) :=
  let total := sumNat ds
  if total = 0 then none
  else
    let l := (stages.zip ds).map (fun p =>
      (⟨clampNat (c * p.2 / total) p.1.min p.1.max, ((c * p.2 % total : Nat) : Int), p.2, p.1.min, p.1.max⟩ : Share))
    some ((shrinkShares c 2048 (growShares total c 2048 l)).map (fun x => x.t))

/-- The pool cores of a CORES mask that hold a working core (R325). -/
def poolCores (s : State) (d mask : Nat) : List Nat :=
  (List.range 64).filter (fun c => mask.testBit c && !coreDead s (64 * d + c))

/-- Cores of die `d` taken by pipelines other than slot `k` that run or stop (R325). -/
def coreTaken (s : State) (d k c : Nat) : Bool :=
  (List.range 8).any (fun j =>
    let p := pipeAt s d j
    !decide (j = k) && (decide (p.state = 1) || decide (p.state = 2)) && p.cores.testBit c)

/-- Stage of each pool core in ascending order for an allotment (R328). -/
def assignStages (cores : List Nat) (allot : List Nat) : List (Nat × PoolPlace) :=
  let stages := ((enumList allot).map (fun p => List.replicate p.2 p.1)).flatten
  (cores.zip stages).map (fun p => (p.1, .joining p.2))

/-- Read and check the descriptor of slot `k` of die `d` (R322 to R325). -/
def readPipe (s : State) (d k : Nat) : Option Pipe :=
  (peekBacked s (bits (rawReg s (diePa d (0x400 + 32 * k))) 51 6 * 64) 64).bind (fun b =>
    let nav := fieldAt b 0 2
    let nst := fieldAt b 2 2
    let avtab := fieldAt b 8 8
    let sttab := fieldAt b 0x10 8
    let arena := fieldAt b 0x18 8
    let dn := fieldAt b 0x30 8
    if 1 ≤ nav ∧ nav ≤ 32 ∧ 1 ≤ nst ∧ nst ≤ 16 ∧ 12 ≤ fieldAt b 4 1 ∧ fieldAt b 4 1 ≤ 24 ∧ 1 ≤ fieldAt b 5 1
        ∧ fieldAt b 5 1 ≤ 64 ∧ avtab % 16 = 0 ∧ sttab % 64 = 0 ∧ arena % 4096 = 0 ∧ inHbm arena 1 = true
        ∧ fieldAt b 0x38 8 = 0 ∧ dn % 8 = 0 ∧ (dn = 0 ∨ memBackedAll s dn 8 = true) then
      (allSome ((List.range nav).map (fun a => (peekBacked s (avtab + 16 * a) 16).bind parseAv))).bind (fun avs =>
        (allSome ((List.range nst).map (fun i => (peekBacked s (sttab + 64 * i) 64).bind (parseStage nav)))).bind (fun sts =>
          let cores := poolCores s d (fieldAt b 0x20 8)
          let c := cores.length
          if sumNat (sts.map (fun x => x.min)) ≤ c ∧ c ≤ sumNat (sts.map (fun x => x.max))
              ∧ (List.range 64).all (fun i => !((fieldAt b 0x20 8).testBit i && coreTaken s d k i)) = true then
            (targets c sts (sts.map (fun x => x.weight))).map (fun al =>
              { Pipe.reset with
                ivlog := fieldAt b 4 1
                movemax := fieldAt b 5 1
                asid := BitVec.ofNat 16 (fieldAt b 6 2)
                arena := arena
                root := wordOf (fieldAt b 0x28 8)
                done := dn
                cores := fieldAt b 0x20 8
                avs := avs
                stages := sts
                pool := assignStages cores al
                allot := al
                occ := []
                target := [] })
          else none))
    else none)

/-- Avenue counters of slot `k` of die `d`. -/
def avKey (d k a : Nat) : Nat := (d * 8 + k) * 32 + a

def setAvCounters (s : State) (d k a hd tl : Nat) : State :=
  { s with dies := { s.dies with
    avHead := sset 0 s.dies.avHead (avKey d k a) hd
    avTail := sset 0 s.dies.avTail (avKey d k a) tl } }

/-- START of slot `k` of die `d` (R327, R328), ignored while it runs or stops. -/
def pipeStart (s : State) (d k : Nat) : State :=
  let old := pipeAt s d k
  if old.state = 0 ∨ old.state = 3 then
    match readPipe s d k with
    | none => setPipe s d k { old with state := 3 }
    | some p =>
      let s := setPipe s d k { p with gen := if old.gen = 255 then 1 else old.gen + 1, state := 1 }
      let s := (List.range 32).foldl (fun s a => setAvCounters s d k a 0 0) s
      let s := (List.range 16).foldl (fun s st => setReg s (diePa d (0x800 + 256 * k + 16 * st)) 0) s
      setReg s (diePa d (0x400 + 32 * k + 0x18)) 0
  else s

/-- The instance a hart runs: pipeline slot and stage (R329). -/
def instanceOf (s : State) (h : Nat) : Option (Nat × Nat) :=
  ((s.hartAt h).task).bind (fun k => (sget Task.reset s.dies.tasks (dieOf h * 4096 + k)).inst)

/-- The harts that run an instance of slot `k` of die `d` (R329). -/
def instanceHarts (s : State) (d k : Nat) : List Nat :=
  ((skeys s.harts).filter (fun h => !isCommand h && dieOf h == d)).filter (fun h =>
    match instanceOf s h with
    | some (j, _) => j == k
    | none => false)

def assayerAt (s : State) (d : Nat) : Assayer := sget Assayer.reset s.dies.assayer d

def setAssayer (s : State) (d : Nat) (a : Assayer) : State :=
  { s with dies := { s.dies with assayer := sset Assayer.reset s.dies.assayer d a } }

/-- A RUN sample becomes HELD, its attempt discarded (R360). -/
def holdSample (x : Sample) : Sample :=
  if x.state = .run then { x with state := .held, attempt := .none, tag := none } else x

/-- The binding of die `d` ends (R360): outstanding and held requests are dropped. -/
def assayerUnbind (s : State) (d : Nat) : State :=
  let s := setAssayer s d { assayerAt s d with bound := none, work := [], requests := [] }
  { s with dies := { s.dies with
    samples := s.dies.samples.map (fun p => if p.1 / 4096 = d then (p.1, holdSample p.2) else p) } }

/-- The Assayer of die `d` is bound to pipeline slot `k`. -/
def assayerUses (s : State) (d k : Nat) : Bool :=
  match (assayerAt s d).bound with
  | some h => decide (h.toNat / 8192 = k)
  | none => false

/-- A hart that is no instance of slot `k` of die `d` waits to push there, on the handle that it holds (R337). -/
def stoppedPush (s : State) (d k h : Nat) : Option Word :=
  match (s.hartAt h).hold with
  | .avenue true w _ _ =>
    if dieOf h = d ∧ isCommand h = false ∧ w.toNat / 8192 = k ∧ (s.hartAt h).forced = false
        ∧ (match instanceOf s h with | some (j, _) => decide (j = k) | none => false) = false then some (w.zeroExtend 64)
    else none
  | _ => none

/-- Such a push raises AVENUE with SUB 2 as soon as the pipeline becomes STOPPING (R337). -/
def raiseStopped (s : State) (d k h : Nat) : State :=
  match stoppedPush s d k h with
  | some w => { takeTrap { s with cur := h } (tAvenue 2 w) with cur := s.cur }
  | none => s

/-- STOP of a RUNNING pipeline (R330): every pool core leaves, each instance's hart receives source 0x0E2, a binding
to the pipeline ends (R360), and a push that waits there by a hart that is no instance traps (R337). -/
def pipeStop (s : State) (d k : Nat) : State :=
  let p := pipeAt s d k
  if p.state = 1 then
    let pool := p.pool.map (fun e => (e.1, match e.2 with
      | .serves st _ => PoolPlace.leaving st none
      | .leaving st _ => .leaving st none
      | .joining st => .leaving st none))
    let s' := setPipe s d k { p with state := 2, pool := pool }
    let s' := if assayerUses s' d k then assayerUnbind s' d else s'
    let s' := (instanceHarts s d k).foldl (fun s h => extPush s h 0x0E2) s'
    (skeys s.harts).foldl (fun s h => raiseStopped s d k h) s'
  else s

/-- Acknowledge stage deadlines (R348). -/
def pldlAck (s : State) (d k : Nat) (m : BitVec 16) : State :=
  let a := diePa d (0x400 + 32 * k + 0x18)
  setReg s a (rawReg s a &&& ~~~ wordOf m.toNat)

/-! Command harts -/

/-- RUN of command hart `id` in its `CHCTL` (R396). -/
def chctlPa (id : Nat) : Nat := ioPa (id / 4) (0x1000 + 32 * (id % 4))

/-- Start a halted command hart at S (R394, R407). -/
def chStart (s : State) (id : Nat) : State :=
  let h := 4096 + id
  let x := s.hartAt h
  if x.run = .halted then
    let s := setReg s (chctlPa id) 1
    let s := s.setHart h { x with
      run := .running
      level := .s
      pc := rawReg s (chpcPa h) &&& 0xFFFFFFFFFFFFFFFC#64
      stat := { x.stat with sie := false, snest := false }
      hold := .none
      stopReq := false
      cq := 0
      xq := 8 }
    samplePair s h
  else setReg s (chctlPa id) 1

/-- Ask a command hart to stop (R394). -/
def chStop (s : State) (id : Nat) : State :=
  let h := 4096 + id
  let s := setReg s (chctlPa id) 0
  let x := s.hartAt h
  if x.run = .running then s.setHart h { x with stopReq := true } else s

/-- The command hart reaches a boundary: CHPC takes the pc and HALTED is set (R394). -/
def chStopped (s : State) (id : Nat) : State :=
  let h := 4096 + id
  if (s.hartAt h).stopReq then haltHart s h else s

/-! Queues -/

def clearRun (x : Queue) : Queue := { x with started := false, made := 0, handles := [], chunks := [] }

/-- Discard the failing entry and resume (R401). -/
def queueSkip (s : State) (io q : Nat) : State :=
  let x := queueAt s io q
  if x.failed.isSome then
    setQueue s io q { clearRun x with entries := x.entries.drop 1, head := x.head + 1, failed := none }
  else s

/-- Discard every held entry (R401). -/
def queueFlush (s : State) (io q : Nat) : State :=
  let x := queueAt s io q
  setQueue s io q { clearRun x with
    entries := [], head := x.head + BitVec.ofNat 32 x.entries.length, failed := none }

/-! Ownership, device pre-emption, checkpoint -/

def ownPa : Nat := ioPa 0 0
def ownerOf (s : State) : Nat := bits (rawReg s ownPa) 9 8

/-- `OWNCTL` from its fields (R412). -/
def ownWord (epoch pend owner : Nat) : Word := wordOf (epoch % pow2 32 * pow2 32 + pend * 1024 + owner * 256)

def ownEpoch (s : State) : Nat := bits (rawReg s ownPa) 63 32
def ownPend (s : State) : Nat := bits (rawReg s ownPa) 11 10

/-- A write by a master takes effect where it owns the device; 0 stands for a hart, which ownership does not govern (R412). -/
def mayWrite (s : State) (master : BitVec 2) : Bool := decide (master = 0) || decide (ownerOf s = master.toNat)

/-- Take the writer of the next register-write event. -/
def dropWriter (s : State) : State := { s with pkg := { s.pkg with writers := s.pkg.writers.drop 1 } }

/-- The effect of a register write by the next of `writers`, or by a hart when none is listed; that of a master which is not the
owner is discarded (R412). -/
def governed (s : State) (f : State → State) : State :=
  match s.pkg.writers with
  | [] => f s
  | m :: _ => if mayWrite s m then f (dropWriter s) else dropWriter s

/-- CLAIM by a master, which alone raises EPOCH (R412, log 30). -/
def ownClaim (s : State) (m : Nat) : State :=
  if 1 ≤ m ∧ (ownerOf s = 0 ∨ ownPend s = m) then setReg s ownPa (ownWord (ownEpoch s + 1) 0 m) else s

/-- RELEASE by the owner, or the loss of it (R412). -/
def ownRelease (s : State) (m : Nat) : State :=
  if 1 ≤ m ∧ ownerOf s = m then setReg s ownPa (ownWord (ownEpoch s) (ownPend s) 0) else s

/-- HAND by the owner (R412). -/
def ownHand (s : State) (m target : Nat) : State :=
  if 1 ≤ m ∧ ownerOf s = m then setReg s ownPa (ownWord (ownEpoch s) target m) else s

def devprePa : Nat := ioPa 0 0x200000
def pwrcapPa : Nat := ioPa 0 0x200020

def devReq (s : State) : Bool := (rawReg s devprePa).getLsbD 0
def devDone (s : State) : Bool := (rawReg s devprePa).getLsbD 1

/-- A partition without a task is idle (R269); a hart that runs without one, at boot, is not yet. -/
def partIdle (s : State) (h : Nat) : Bool := !decide ((s.hartAt h).run = .running) && (s.hartAt h).task.isNone

/-- DONE of `DEVPRE` becomes 1 when every command hart is halted, every compute partition idle and no chunk in flight
(R413). A chunk moves in one step, so none is in flight between steps. -/
def devSettle (s : State) : State :=
  if devReq s ∧ ((List.range 8).all (fun id => decide ((s.hartAt (4096 + id)).run = .halted))
      && (List.range 4096).all (partIdle s)) = true then
    setReg s devprePa 3
  else s

/-- REQ = 1 (R413): command harts are asked to stop and every hart that runs a task receives source 0x0F0. -/
def devRequest (s : State) : State :=
  let s := setReg s devprePa (rawReg s devprePa ||| 1)
  let s := (List.range 8).foldl chStop s
  ((s.harts.filter (fun p => !isCommand p.1 && p.2.task.isSome)).map (fun p => p.1)).foldl
    (fun s h => extPush s h 0x0F0) s

/-- REQ = 0 (R413). -/
def devResume (s : State) : State := setReg s devprePa 0

/-! The write of a register -/

/-- A write of `CKCTL`: DIR is stored and GO acts. -/
def writeCkctl (s : State) (v : Word) : State :=
  if v.getLsbD 0 then ckGo s (v.getLsbD 1) (devDone s) else setReg s ckctlPa (ckWord (ckStatus s) (v.getLsbD 1))

def writeDevpre (s : State) (v : Word) : State :=
  if v.getLsbD 0 then devRequest s else if devReq s then devResume s else s

/-- A write of `QBCTL`: it clears ABORTED bits first and then aborts (R297). -/
def writeQbctl (s : State) (c : Nat) (v : Word) : State :=
  quadAbort (quadAbortedClear s (c / 4) (BitVec.ofNat 16 (bits v 31 16))) (c / 4) (BitVec.ofNat 16 (bits v 15 0))

/-- A write of `PLCTL` (R327): START or STOP by the STATE before the write. -/
def writePlctl (s : State) (d k : Nat) (v : Word) : State :=
  let st := (pipeAt s d k).state
  if st = 1 ∧ v.getLsbD 5 = true then pipeStop s d k
  else if (st = 0 ∨ st = 3) ∧ v.getLsbD 4 = true then pipeStart s d k
  else s

/-- A write of `OWNCTL` by a master (R412). -/
def writeOwn (s : State) (m : Nat) (v : Word) : State :=
  let s := if v.getLsbD 0 then ownClaim s m else s
  let s := if v.getLsbD 2 then ownHand s m (bits v 4 3) else s
  if v.getLsbD 1 then ownRelease s m else s

/-- `APCTL` keeps XFORM on a write of 4 to 7 (R390). -/
def writeApctl (s : State) (pa : Nat) (v : Word) : State :=
  if v.getLsbD 3 then
    writeRw s pa ((v &&& ~~~ 0xE#64) ||| (rawReg s pa &&& 0xE#64))
  else writeRw s pa v

/-- A write of the MSI-X table (R395, R408): unmasking a vector whose pending bit is set sends its message, as PCIe
defines; it is discarded while the link is down. -/
def writeMsix (s : State) (pa o : Nat) (v : Word) : State :=
  let n := (o - 0x10000) / 16
  let s := writeRw s pa v
  if o % 16 = 8 ∧ v.getLsbD 32 = false ∧ sget false s.pkg.msixPending n = true then
    let msi := if (rawReg s (ioPa 0 0x108)).getLsbD 0 then s.pkg.msi ++ [n] else s.pkg.msi
    { s with pkg := { s.pkg with msi := msi, msixPending := sset false s.pkg.msixPending n false } }
  else s

/-- Write a register of a window (R388): each write takes effect once, under the access codes of R10. A write of `OWNCTL`
counts as one by `master`, 0 for an agent that is no master. -/
def regStore (s : State) (master pa : Nat) (v : Word) : State :=
  match regionOf pa with
  | .ctl c o =>
    if o = 0x180 then writeQbctl s c v
    else if 0x400 ≤ o ∧ o < 0x440 then (if v.getLsbD 63 then extAck s (c * 8 + (o - 0x400) / 8) else s)
    else writeRw s pa v
  | .dieCtl d o =>
    if o = 0x310 then
      setReg s pa (rawReg s pa &&& ~~~ (v &&& 0xFFFFFFFF00000000#64))
    else if 0x400 ≤ o ∧ o < 0x500 ∧ o % 32 = 8 then writePlctl s d ((o - 0x400) / 32) v
    else if 0x400 ≤ o ∧ o < 0x500 ∧ o % 32 = 0x18 then pldlAck s d ((o - 0x400) / 32) (BitVec.ofNat 16 v.toNat)
    else if 0x1000 ≤ o ∧ o < 0x1200 ∧ o % 32 = 16 then writeApctl s pa v
    else if 0x3100 ≤ o ∧ o < 0x3500 ∧ o % 16 = 0 then sendUnsent (writeRw s pa v)
    else writeRw s pa v
  | .io i o =>
    if i = 1 ∧ isIoDie0Only o = true then s
    else if o = 0 then writeOwn s master v
    else if 0x1000 ≤ o ∧ o < 0x1080 ∧ o % 32 = 0 then
      (let id := 4 * i + (o - 0x1000) / 32
       if v.getLsbD 0 then chStart s id else chStop s id)
    else if 0x2000 ≤ o ∧ o < 0x2180 ∧ o % 32 = 16 then
      (let q := (o - 0x2000) / 32
       let s := if v.getLsbD 0 then queueSkip s i q else s
       if v.getLsbD 1 then queueFlush s i q else s)
    else if i = 0 ∧ 0x10000 ≤ o ∧ o < 0x18000 then writeMsix s pa o v
    else if o = 0x200000 then writeDevpre s v
    else if o = 0x200018 then writeCkctl s v
    else writeRw s pa v
  | _ => s

end Sys2Proof.Machine
end

