-- ==== Sys2Proof/Machine/Access.lean ====
section
/-! DEFINITION. Memory accesses of a hart (spec/04_scalar.md R122 to R127, spec/18_memory_model.md R386 to R392,
spec/12_quad.md R294, R295, spec/21_fabric.md R426). -/

namespace Sys2Proof.Machine

/-- The waits of an access through a Square window (R387): the row's scoreboard and the landed bit. -/
def squareReady (s : State) (c r p : Nat) : Eff Unit :=
  match holderOf s c p with
  | none => .ok ()
  | some h =>
    if h = s.cur ∧ s.hart.busyRow r = true then waitFor s (.rows (BitVec.ofNat 48 (pow2 r)))
    else if ¬ h = s.cur ∧ (s.hartAt h).heldRow r = true then waitFor s .retry
    else if unlanded s c r p then (if h = s.cur then stallGroup s r p else waitFor s (.landed c r p))
    else .ok ()

/-- A read waits for a full Vault line, and for a Square cell (R386, R387). -/
def readReady (s : State) (pa : Nat) : Eff Unit :=
  match regionOf pa with
  | .vault c o => if lineReadsEmpty s c o then stallLine s c o true else .ok ()
  | .square c r j _ => squareReady s c r (j / 16)
  | _ => .ok ()

/-- A write waits only for a Square cell. -/
def writeReady (s : State) (pa : Nat) : Eff Unit :=
  match regionOf pa with
  | .square c r j _ => squareReady s c r (j / 16)
  | _ => .ok ()

/-- The value of a ready read, with its POISON trap. -/
def readAt (s : State) (pa n : Nat) : Eff Nat :=
  if markAny s pa n then raise s (tPoisonMem (poisonPa pa))
  else .ok (peek s pa n)

/-- Write `n` bytes of `v` at a physical address, to memory, a cell or a register. -/
def storeAt (s : State) (pa n v : Nat) : State :=
  match regionOf pa with
  | .square c r j _ => if n = 8 ∧ unheld s pa = false then setCellMark (poke s pa n v) c r j false else poke s pa n v
  | .ctl _ _ | .dieCtl _ _ | .io _ _ => regStore s 0 pa (wordOf v)
  | _ => poke s pa n v

/-- The physical address of an access to a save area at `a`, whose faults name the area's address (R147, R246). -/
def areaPa (a : Word) (s : State) (va : Word) (acc : Acc) (n : Nat) : Eff (State × Nat) :=
  match hartPa s va acc n with
  | .error (.trap t x) => raise t (if x.code = 0x04 ∨ x.code = 0x05 then { x with val := a } else x)
  | r => r

/-- Read `n` bytes at a virtual address for the current hart. -/
def hartRead (s : State) (va : Word) (n : Nat) : Eff (State × Nat) := do
  let p ← hartPa s va .read n
  readReady p.1 p.2
  let v ← readAt p.1 p.2 n
  .ok (p.1, v)

/-- Write `n` bytes at a virtual address for the current hart. -/
def hartWrite (s : State) (va : Word) (n v : Nat) : Eff State := do
  let p ← hartPa s va .write n
  writeReady p.1 p.2
  .ok (storeAt p.1 p.2 n v)

/-! Accesses of 8-byte parts -/

/-- Every listed place is ready. -/
def partsReady (s : State) (ready : State → Nat → Eff Unit) : List Nat → Eff Unit
  | [] => .ok ()
  | p :: ps => do
    ready s p
    partsReady s ready ps

/-- Read 8-byte parts as one number. -/
def readParts (s : State) : List Nat → Eff Nat
  | [] => .ok 0
  | p :: ps => do
    let v ← readAt s p 8
    let r ← readParts s ps
    .ok (v + pow2 64 * r)

/-- Store a number in 8-byte parts. -/
def storeParts (s : State) (v : Nat) : List Nat → State
  | [] => s
  | p :: ps => storeParts (storeAt s p 8 (v % pow2 64)) (v / pow2 64) ps

/-- The physical addresses of `n` consecutive 8-byte accesses at a virtual address. -/
def wordPas (s : State) (acc : Acc) : Nat → Word → Eff (State × List Nat)
  | 0, _ => .ok (s, [])
  | n + 1, va => do
    let p ← hartPa s va acc 8
    let r ← wordPas p.1 acc n (va + 8)
    .ok (r.1, p.2 :: r.2)

/-- Read `n` 8-byte words, each as `ld` does (R362). DEDUCED: a parameter block and the records of `tspawn`, `launch` and `copy`
are read in the same way (log 98). -/
def hartReadWords (s : State) (va : Word) (n : Nat) : Eff (State × Nat) := do
  let p ← wordPas s .read n va
  partsReady p.1 readReady p.2
  let v ← readParts p.1 p.2
  .ok (p.1, v)

/-- Write `n` 8-byte words, each as `sd` does, once every one of them may be written (R362). -/
def hartWriteWords (s : State) (va : Word) (n v : Nat) : Eff State := do
  let p ← wordPas s .write n va
  partsReady p.1 writeReady p.2
  .ok (storeParts p.1 v p.2)

/-- The alignment check of a scalar access (R123). -/
def aligned (s : State) (va : Word) (n : Nat) : Eff Unit := need (decide (va.toNat % n = 0)) s (tMisalign va)

/-- `HLINK` (R433). -/
def hlink (s : State) : Word := rawReg s (ioPa 0 0x108)

/-- The host link carries an atomic to host memory (R426, R433). -/
def hostCarries (s : State) (simple : Bool) (sc : Scope) : Bool :=
  !decide (sc = .pod) && ((hlink s).getLsbD 3 || ((hlink s).getLsbD 2 && simple))

/-- Whether the path to a target carries an atomic of the current hart (R295, R298, R392, R397, R426). `simple` holds for
`add`, `swap` and `cas`. -/
def atomCarried (s : State) (simple : Bool) (sc : Scope) (pa : Nat) : Bool :=
  match regionOf pa with
  | .hbm _ => true
  | .vault c _ =>
    !isCommand s.cur && decide (coreOf s.cur / 4 = c / 4) && (decide (sc = .core) || decide (sc = .quad)) && !coreDead s c
  | .aperture _ _ _ =>
    match viewOf s pa with
    | some (a, _) => decide (a.xform = 0)
    | none => false
  | .hostWin _ _ => hostCarries s simple sc
  | .io _ _ => (semOf pa).isSome && (decide (sc = .pkg) || decide (sc = .pod))
  | _ => false

/-- One indivisible read and write (R126): `f old` is the new value, none for no write. A performed access sets CEFF. -/
def atomicAt (s : State) (va : Word) (n : Nat) (simple : Bool) (sc : Scope) (f : Nat → Option Nat) :
    Eff (State × Nat) := do
  aligned s va n
  let p ← hartPa s va .rmw n
  need (atomCarried p.1 simple sc p.2) p.1 (tAtompath va)
  readReady p.1 p.2
  let old ← readAt p.1 p.2 n
  let s := match f old with
    | some v => storeAt p.1 p.2 n v
    | none => p.1
  .ok (s.putHart { s.hart with stat := { s.hart.stat with ceff := true } }, old)

end Sys2Proof.Machine
end

