-- ==== Sys2Proof/Machine/Csr.lean ====
section
/-! DEFINITION. Control and status registers (spec/01_hart.md R30 to R39, spec/04_scalar.md R139) and the pending
interrupts (R38). -/

namespace Sys2Proof.Machine

open Host (Outcome)

/-- The pending deadlines of one pipeline slot at hart `h` (R348): the least VALUE, if any. -/
def slotDeadline (s : State) (h d k : Nat) : Option Nat :=
  let note := rawReg s (diePa d (0x400 + 32 * k + 16))
  let pend := rawReg s (diePa d (0x400 + 32 * k + 24))
  if bits note 15 15 = 1 ∧ notedHart note = h then
    ((List.range 16).find? (fun st => pend.getLsbD st)).map (fun st => 128 * d + 16 * k + st)
  else none

/-- The pending deadline whose VALUE is lowest (R348). -/
def deadlineOf (s : State) (h : Nat) : Option Nat :=
  if isCommand h then none
  else (List.range 64).findSome? (fun j => slotDeadline s h (j / 8) (j % 8))

/-- SHOOT is pending while the core holds a request (R308, R311). -/
def shootPending (s : State) (h : Nat) : Bool := !isCommand h && !(shootQueue s (coreOf h)).isEmpty

/-- The `hip` bits of a hart, bit 0 first (R38). -/
def hipBits (s : State) (h : Nat) : List Bool :=
  let x := s.hartAt h
  [x.mcheck.isSome, x.preempt, shootPending s h, (deadlineOf s h).isSome, !(extQueue s h).isEmpty]

/-- A number from bits, the least significant first. -/
def ofBits : List Bool → Nat
  | [] => 0
  | b :: r => (if b then 1 else 0) + 2 * ofBits r

def hipWord (s : State) (h : Nat) : Word := wordOf (ofBits (hipBits s h))

/-- `hstat` as it reads at level M; at S bits 11 and 8 to 5 read zero (R38). -/
def hstatWord (x : Hart) : Word :=
  let t := x.stat
  let m := decide (x.level = .m)
  let mpp := if m then levelCode t.mpp else 0
  wordOf (ofBits [decide (levelCode x.level % 2 = 1), decide (levelCode x.level / 2 = 1), t.sie, t.spie, t.spp, m && t.mie,
    m && t.mpie, decide (mpp % 2 = 1), decide (mpp / 2 = 1), t.ceff, t.snest, m && t.mnest])

/-- A write of `hstat` (R38). -/
def writeHstat (x : Hart) (v : Word) : Hart :=
  let m := decide (x.level = .m)
  { x with stat := {
      sie := v.getLsbD 2
      spie := v.getLsbD 3
      spp := v.getLsbD 4
      mie := if m then v.getLsbD 5 else x.stat.mie
      mpie := if m then v.getLsbD 6 else x.stat.mpie
      mpp := if m then (levelOfCode (bits v 8 7)).getD x.stat.mpp else x.stat.mpp
      ceff := v.getLsbD 9
      snest := v.getLsbD 10
      mnest := if m then v.getLsbD 11 else x.stat.mnest } }

def hwmWord (m : Hwm) : Word := wordOf ((if m.any then pow2 20 else 0) + m.hreg.toNat * pow2 14 + m.hvb.toNat)

/-- `lpart` of a core, all ones at reset (R33). -/
def lpartOf (s : State) (c : Nat) : Word := sget allOnes64 s.cores.lpart c

def setLpart (s : State) (c : Nat) (v : Word) : State :=
  { s with cores := { s.cores with lpart := sset allOnes64 s.cores.lpart c v } }

def vspaceWord (c : VConf) : Word := wordOf (c.wbase.toNat * 65536 + c.space.toNat)

/-- A trap register of a set, by its place after the vector (R30, R39). -/
def trapField (t : TrapRegs) : Nat → Word
  | 0 => t.vec | 1 => t.cause | 2 => t.val | 3 => t.pc | 4 => wordOf t.vsi.toNat | _ => t.scratch

def maskLow2 (v : Word) : Word := v &&& 0xFFFFFFFFFFFFFFFC#64

/-- Write a trap register under its field map (R39). -/
def setTrapField (t : TrapRegs) (k : Nat) (v : Word) : TrapRegs :=
  match k with
  | 0 => { t with vec := maskLow2 v }
  | 1 => { t with cause := v &&& 0x800000000000FFFF#64 }
  | 2 => { t with val := v }
  | 3 => { t with pc := maskLow2 v }
  | 4 => { t with vsi := BitVec.ofNat 13 v.toNat }
  | _ => { t with scratch := v }

/-- The value of a listed register; none for a number that R30 does not list. -/
def csrValue (s : State) (n : Nat) : Option Word :=
  let x := s.hart
  let cmd := isCommand s.cur
  match n with
  | 0x000 => some (wordOf x.conf.vl.toNat)
  | 0x001 => some (wordOf x.conf.vew.toNat)
  | 0x002 => some (wordOf x.conf.vsi.toNat)
  | 0x003 => some (vspaceWord x.conf)
  | 0x004 => some (wordOf x.conf.fmode.toNat)
  | 0x005 => some x.conf.srseed
  | 0x006 => some (wordOf x.conf.avh.toNat)
  | 0x010 => some (wordOf x.grant.toNat)
  | 0x011 => some (hwmWord x.hwm)
  | 0x012 => some (wordOf (s.cyc s.cur))
  | 0x013 => some (if cmd then 0 else wordOf s.cur)
  | 0x014 => some (if cmd then 0 else wordOf (coreOf s.cur))
  | 0x015 => some (wordOf x.prio.toNat)
  | 0x100 => some (hstatWord x)
  | 0x101 => some (hipWord s s.cur)
  | 0x102 => some (lpartOf s (coreOf s.cur))
  | 0x103 | 0x104 | 0x105 | 0x106 | 0x107 | 0x108 => some (trapField x.strap (n - 0x103))
  | 0x300 | 0x301 | 0x302 | 0x303 | 0x304 | 0x305 => some (trapField x.mtrap (n - 0x300))
  | _ => none

/-- The registers that a command hart does not have (R393). -/
def csrComputeOnly (n : Nat) : Bool :=
  n == 0x000 || n == 0x001 || n == 0x002 || n == 0x003 || n == 0x006 || n == 0x010 || n == 0x011 || n == 0x102 || n == 0x015

/-- Write a register under its field rules; a write of an RO register is ignored (R10, R32 to R39). -/
def csrWrite (s : State) (n : Nat) (v : Word) : State :=
  let x := s.hart
  let c := x.conf
  match n with
  | 0x000 => s.setConf { c with vl := BitVec.ofNat 11 (Nat.min v.toNat (vlmax (grantCount x.grant) (ewOf c.vew))) }
  | 0x001 => s.putHart ({ x with conf := { c with vew := BitVec.ofNat 2 v.toNat } }.clampVl)
  | 0x002 => s.setConf { c with vsi := BitVec.ofNat 13 v.toNat }
  | 0x003 => s.setConf { c with
      wbase := BitVec.ofNat 36 (bits v 51 16)
      space := if bits v 1 0 = 3 then c.space else BitVec.ofNat 2 v.toNat }
  | 0x004 => s.setConf { c with fmode :=
      (BitVec.ofNat 16 v.toNat &&& 0xFFF8) ||| (if bits v 2 0 < 6 then BitVec.ofNat 16 (bits v 2 0) else c.fmode &&& 7) }
  | 0x005 => s.setConf { c with srseed := v }
  | 0x006 => s.setConf { c with avh := BitVec.ofNat 16 v.toNat }
  | 0x100 => s.putHart (writeHstat x v)
  | 0x102 => setLpart s (coreOf s.cur) v
  | 0x103 | 0x104 | 0x105 | 0x106 | 0x107 | 0x108 => s.putHart { x with strap := setTrapField x.strap (n - 0x103) v }
  | 0x300 | 0x301 | 0x302 | 0x303 | 0x304 | 0x305 => s.putHart { x with mtrap := setTrapField x.mtrap (n - 0x300) v }
  | _ => s

/-- The registers whose reads wait for earlier updates and drains (R31). -/
def csrWaits (n : Nat) : Bool := n == 0x002 || n == 0x004 || n == 0x010 || n == 0x011

/-- An access to register `n` by the instruction with the given bits: ILLEGAL, then PRIV, then the wait of R31; the old
value is read and `f old` written, if any. -/
def csrAccess (s : State) (bitsv : Word) (rd : SReg) (n : Nat) (f : Word → Option Word) : Eff State :=
  match csrValue s n with
  | none => raise s (tIllegal bitsv)
  | some old => do
    need (!(isCommand s.cur && csrComputeOnly n)) s (tIllegal bitsv)
    need (decide (n / 256 ≤ levelCode s.hart.level)) s (tPriv bitsv)
    let busy := s.hart.updBusy ||| s.hart.drainBusy
    if csrWaits n && !decide (busy = 0) then waitFor s (.rows busy)
    else
      let s := match f old with
        | some v => csrWrite s n v
        | none => s
      done (s.wS rd old) 4

def execCsrr (rd : SReg) (csr : BitVec 12) (s : State) : Outcome State Fault Refusal :=
  finish (csrAccess s (instrBits (.csrr rd csr)) rd csr.toNat (fun _ => none))

def execCsrw (rd ra : SReg) (csr : BitVec 12) (s : State) : Outcome State Fault Refusal :=
  finish (csrAccess s (instrBits (.csrw rd ra csr)) rd csr.toNat (fun _ => some (s.rS ra)))

def execCsrs (rd ra : SReg) (csr : BitVec 12) (s : State) : Outcome State Fault Refusal :=
  finish (csrAccess s (instrBits (.csrs rd ra csr)) rd csr.toNat
    (fun old => if ra = 0 then none else some (old ||| s.rS ra)))

def execCsrc (rd ra : SReg) (csr : BitVec 12) (s : State) : Outcome State Fault Refusal :=
  finish (csrAccess s (instrBits (.csrc rd ra csr)) rd csr.toNat
    (fun old => if ra = 0 then none else some (old &&& ~~~ s.rS ra)))

end Sys2Proof.Machine
end

