-- ==== Sys2Proof/Machine/ErrorLog.lean ====
section
/-! DEFINITION. The error log (spec/13_die_translation.md R316 to R321): the sparable units, their windows, the records and
their notification, the start of sparing, and machine checks. -/

namespace Sys2Proof.Machine

/-! Sparable units -/

/-- UNIT of a record (R319). -/
def errUnitCode : ErrUnit → Nat
  | .hbm | .hbmChannel => 0 | .memCache => 1 | .vault => 2 | .cell => 3 | .coreReg => 4 | .dieToDie => 5 | .port => 6
  | .exchange => 7 | .tcache => 8

/-- The sparable unit that an error belongs to (R318): the memory-side cache and the exchange have none, nor have a die's own
registers and its task table. -/
def unitOf (e : ErrorReport) : Option SparableUnit :=
  match e.kind with
  | .hbm => some (.hbmRow e.die e.index)
  | .hbmChannel => some (.hbmChannel e.die e.index)
  | .vault => some (.vaultLine e.core e.index)
  | .cell => some (.cluster e.core e.cluster)
  | .coreReg =>
    match e.owner with
    | .hart _ | .core => some (.core e.core)
    | .die | .task _ => none
  | .tcache => if e.core < 512 then some (.core e.core) else none
  | .dieToDie => some (.wire e.die e.index)
  | .port => some (.lane (e.index / 2) (e.index % 2))
  | .memCache | .exchange => none

/-- The kind and number under which an error's unit is tracked: a core is one unit for its registers and its cache, and the
state of a die that belongs to no core has a number of its own. -/
def errUnitKey (e : ErrorReport) : ErrUnit × Nat :=
  match e.kind with
  | .vault => (.vault, e.core * pow2 17 + e.index)
  | .cell => (.cell, e.core * 8 + e.cluster)
  | .coreReg | .tcache => (.coreReg, if (unitOf e).isSome then e.core else 1024 + e.core)
  | k => (k, e.index)

/-- The set of spares that serves a unit (R321): a cluster region's, a bank's, a stack's, those of 128 wires of an edge. -/
def spareKey : SparableUnit → Nat
  | .vaultLine c line => pow2 50 + c * 8 + line / pow2 14
  | .hbmRow d row => 2 * pow2 50 + d * pow2 40 + Config.hbmBank d row
  | .hbmChannel d ch => 3 * pow2 50 + d * pow2 40 + Config.hbmStack d ch
  | .wire d w => 4 * pow2 50 + d * pow2 40 + w / 128
  | .core _ | .cluster _ _ | .lane _ _ => 0

def sparesTaken (s : State) (u : SparableUnit) : Nat := sget 0 s.dies.spareUsed (spareKey u)

def diecfgPa (d : Nat) : Nat := diePa d 0x320

/-- Spare cores left on a die (R320). -/
def sparesLeft (s : State) (d : Nat) : Nat := bits (rawReg s (diecfgPa d)) 23 16

/-- A spare is left for a unit (R321); a port has none (R420). -/
def spareLeft (s : State) (u : SparableUnit) : Bool :=
  match u with
  | .core c => decide (0 < sparesLeft s (dieOfCore c))
  | .cluster c _ => !sget false s.cores.spareCluster c
  | .vaultLine _ _ => decide (sparesTaken s u < 64)
  | .hbmRow _ _ => decide (sparesTaken s u < Config.rowSpares)
  | .hbmChannel _ _ => decide (sparesTaken s u < 1)
  | .wire _ _ => decide (sparesTaken s u < 4)
  | .lane _ _ => false

def takeSpare (s : State) (u : SparableUnit) : State :=
  { s with dies := { s.dies with spareUsed := sset 0 s.dies.spareUsed (spareKey u) (sparesTaken s u + 1) } }

/-- Sparing of the unit has started and is not applied. -/
def sparingPending (s : State) (u : SparableUnit) : Bool := s.dies.sparing.any (fun v => decide (v = u))

def endSparing (s : State) (u : SparableUnit) : State :=
  { s with dies := { s.dies with sparing := s.dies.sparing.filter (fun v => !decide (v = u)) } }

/-- The event that applies a unit's sparing (R321, R420). -/
def sparingEvent : SparableUnit → Event
  | .lane p _ => .laneRetrain p
  | u => .spareApply u

/-- The die starts the sparing of a unit that has become lasting (R318); it is applied at once where R321 says so. -/
def startSparing (s : State) (u : SparableUnit) : State :=
  if sparingPending s u then s
  else { s with agenda := sparingEvent u :: s.agenda, dies := { s.dies with sparing := s.dies.sparing ++ [u] } }

/-! Windows -/

def rasWindow (s : State) (d : Nat) : Nat := (regRead s (diePa d 0x300)).toNat
def rasThreshold (s : State) (d : Nat) : Nat := (regRead s (diePa d 0x308)).toNat

/-- The clock of die `d` (R416). -/
def dieCyc (s : State) (d : Nat) : Nat := sget 0 s.clock d

/-- Drop the tracked unit of die `d` with the oldest START (R318). -/
def dropOldest (d : Nat) (l : List Tracked) : List Tracked :=
  match (l.filter (fun x => x.die == d)).foldl (fun (acc : Option Tracked) x =>
      match acc with
      | none => some x
      | some y => if x.start < y.start then some x else acc) none with
  | some x => l.erase x
  | none => l

/-- The unit after an error at cycle `t` (R318). -/
def Tracked.count (x : Tracked) (t win thr : Nat) : Tracked :=
  let n := if x.start + win ≤ t then 1 else x.n + 1
  { x with start := if x.start + win ≤ t then t else x.start, n := n, lasting := decide (thr ≤ n) }

/-- Count an error at the die's clock (R318): the state after it, n, and whether the unit has now become lasting. -/
def countError (s : State) (d : Nat) (kind : ErrUnit) (unit : Nat) : State × Nat × Bool :=
  let t := dieCyc s d
  let thr := rasThreshold s d
  let mine := fun (x : Tracked) => x.die == d && decide (x.kind = kind) && x.unit == unit
  let rest := s.dies.tracked.filter (fun x => !mine x)
  let old := s.dies.tracked.find? mine
  let x : Tracked :=
    match old with
    | some x => x.count t (rasWindow s d) thr
    | none => ⟨d, kind, unit, t, 1, decide (thr ≤ 1)⟩
  let was := match old with
    | some y => y.lasting && !decide (y.start + rasWindow s d ≤ t)
    | none => false
  let rest := if old.isNone ∧ 64 ≤ (rest.filter (fun x => x.die == d)).length then dropOldest d rest else rest
  ({ s with dies := { s.dies with tracked := rest ++ [x] } }, x.n, x.lasting && !was)

/-! Records -/

/-- The fields of a record (R319). -/
structure ErrRecord where
  word : Nat
  base : Nat
  limit : Nat
  n : Nat
  place : Nat
  deriving DecidableEq, Repr

/-- The address of record `i` of die `d`'s log. -/
def logPa (d i : Nat) : Nat := diePa d (0x20000 + 64 * i)

/-- The first word of a record from its unit, class and flags. -/
def recordWord (kind : ErrUnit) (cls : Nat) (marked spared retired : Bool) : Nat :=
  errUnitCode kind + 256 * cls + (if marked then 1024 else 0) + (if spared then 2048 else 0)
    + (if retired then 4096 else 0)

/-- The words of a record. -/
def recordWords (s : State) (d : Nat) (r : ErrRecord) : List Nat :=
  [r.word, r.base, r.limit, dieCyc s d, r.n, r.place, 0, 0]

/-- A slot of the log that holds a record: its first eight words are not all 0. -/
def logUsed (s : State) (a : Nat) : Bool := (List.range 8).any (fun k => !decide (rawReg s (a + 8 * k) = 0))

/-- Write a record at HEAD, advance HEAD, count a record written over, and notify for CLASS 1 and 2 (R319, R320). The answer
has the record's address. -/
def writeLog (s : State) (d : Nat) (r : ErrRecord) : State × Nat :=
  let reg := diePa d 0x310
  let w := rawReg s reg
  let head := bits w 7 0
  let a := logPa d head
  let ov := if logUsed s a then bits w 63 32 + 1 else bits w 63 32
  let s := (enumList (recordWords s d r)).foldl (fun s p => setReg s (a + 8 * p.1) (wordOf p.2)) s
  let s := setReg s reg (wordOf (ov % pow2 32 * pow2 32 + (head + 1) % 256))
  (if r.word / 256 % 4 = 0 then s else errNotify s d 0x0E0, a)

/-- The place word of a report (R319). -/
def placeWord (e : ErrorReport) : Nat :=
  e.core % 512 + e.cluster % 8 * 512 + e.row % 64 * 4096 + e.index % pow2 14 * pow2 18

/-- Class, count and log an error, and start the sparing of a unit that becomes lasting (R318, R319): the state after it and
the record's address. `soft` holds for an error that is logged as transient whatever was lost (R317). SPARED says that a
spare is left for the unit whose sparing this error starts. -/
def logError (s : State) (e : ErrorReport) (soft marked : Bool) : State × Nat :=
  let key := errUnitKey e
  let r := countError s e.die key.1 key.2
  let cls := if soft then 0 else if e.uncorrectable then 2 else if rasThreshold s e.die ≤ r.2.1 then 1 else 0
  let starts := if r.2.2 then unitOf e else none
  let spared := match starts with
    | some u => spareLeft s u && !sparingPending s u
    | none => false
  let w := writeLog r.1 e.die ⟨recordWord e.kind cls marked spared false, e.base, e.limit, r.2.1, placeWord e⟩
  match starts with
  | some u => (startSparing w.1 u, w.2)
  | none => w

/-- u.n of a report's unit, 0 where the die tracks it no more (R318). -/
def trackedCount (s : State) (e : ErrorReport) : Nat :=
  let key := errUnitKey e
  match s.dies.tracked.find? (fun x => x.die == e.die && decide (x.kind = key.1) && x.unit == key.2) with
  | some x => x.n
  | none => 0

/-- A record of a unit that has no spare left, with the unit's count (R319, R321, R420). -/
def logRetired (s : State) (e : ErrorReport) (marked : Bool) : State :=
  (writeLog s e.die ⟨recordWord e.kind 1 marked false true, e.base, e.limit, trackedCount s e, placeWord e⟩).1

/-- The record of a completion add that nothing backs any more (R311): BASE names DONE. The spec gives neither its UNIT nor
its other fields, which are free (log 81). -/
def logDiscarded (s : State) (d done : Nat) : State :=
  (writeLog s d ⟨(Config.discardWord s.tick).toNat, done, done + 8, 0, 0⟩).1

/-! Machine checks -/

/-- MCHECK at a hart, with the address of its record (R40). -/
def machineCheck (s : State) (h rec : Nat) : State := s.setHart h { s.hartAt h with mcheck := some rec }

/-- The harts that own state that carries no mark (R317, log 57): the hart itself, the eight harts of a core, the harts of a
die for what belongs to no core, and the hart that runs the task of an entry. -/
def ownerHarts (s : State) (e : ErrorReport) : List Nat :=
  match e.owner with
  | .hart h => [h]
  | .core => hartsOf e.core
  | .die => (List.range 512).map (fun k => 512 * e.die + k)
  | .task k => ((List.range 512).map (fun i => 512 * e.die + i)).filter (fun h => (s.hartAt h).task == some k)

/-- The report of an error in a packet of a hart for a target and a group, with the range it names (R299, R319). -/
def exchangeReport (h target group base limit : Nat) : ErrorReport :=
  ⟨dieOf h, .exchange, true, base, limit, coreOf h / 4 * 4 + target % 4, 0, 0, group, .hart h⟩

/-- An error in a header or the offsets discards a packet of the exchange: MCHECK at its source, with a record of the target,
the group and the Vault offsets (R299). -/
def exchangeLost (s : State) (h target group bytes : Nat) (offs : List Nat) : State :=
  let lo := offs.foldl Nat.min (offs.headD 0)
  let hi := offs.foldl Nat.max 0
  let r := logError s (exchangeReport h target group lo (if offs.isEmpty then lo else hi + bytes)) false false
  machineCheck r.1 h r.2

/-- An error in the data of a packet: a record of the range of the lines or cells that it marks, each given by its base and
limit (R299, R319). -/
def exchangeSpoilt (s : State) (h target group : Nat) (spans : List (Nat × Nat)) : State :=
  let lo := (spans.map (fun p => p.1)).foldl Nat.min ((spans.map (fun p => p.1)).headD 0)
  let hi := (spans.map (fun p => p.2)).foldl Nat.max 0
  (logError s (exchangeReport h target group lo hi) false true).1

end Sys2Proof.Machine
end

