-- ==== Sys2Proof/Machine/Teller.lean ====
section
/-! DEFINITION. Task tables and the Teller (spec/09_lanes_tasks.md R265 to R275): task records and handles, task start,
grants, boundaries and the zeroing of released clusters. -/

namespace Sys2Proof.Machine

def taskAt (s : State) (d k : Nat) : Task := sget Task.reset s.dies.tasks (d * 4096 + k)

def setTask (s : State) (d k : Nat) (t : Task) : State :=
  { s with dies := { s.dies with tasks := sset Task.reset s.dies.tasks (d * 4096 + k) t } }

/-- The handle of an entry (R266). -/
def handleOf (s : State) (d k : Nat) : Word := wordOf ((taskAt s d k).gen.toNat * pow2 32 + d * 4096 + k)

/-- The entry of die `d` that a handle names, FREE or not (R266). -/
def handleSlot (s : State) (d : Nat) (h : Word) : Option Nat :=
  let k := bits h 11 0
  if bits h 31 12 = d ∧ bits h 63 32 = (taskAt s d k).gen.toNat ∧ ¬ bits h 63 32 = 0 then some k else none

/-- A task of a valid record (R265), as a READY entry without generation and order. -/
def parseTask (b : Nat) : Option Task :=
  let cm := fieldAt b 0x28 1
  let cp := fieldAt b 0x29 1
  if fieldAt b 0 8 % 4 = 0 ∧ fieldAt b 0x20 8 % 8 = 0 ∧ 1 ≤ cm ∧ cm ≤ cp ∧ cp ≤ 8 ∧ fieldAt b 0x2A 1 ≤ 7
      ∧ fieldAt b 0x2B 1 ≤ 3 ∧ fieldAt b 0x2C 20 = 0 then
    some { Task.reset with
      state := .ready
      entry := wordOf (fieldAt b 0 8)
      arg := wordOf (fieldAt b 8 8)
      lkey := wordOf (fieldAt b 0x10 8)
      stack := wordOf (fieldAt b 0x18 8)
      done := wordOf (fieldAt b 0x20 8)
      cmin := cm
      cpref := cp
      tprio := BitVec.ofNat 3 (fieldAt b 0x2A 1)
      tew := BitVec.ofNat 2 (fieldAt b 0x2B 1)
      min := cm
      pref := cp }
  else none

/-- The next generation (R266). -/
def nextGen (g : BitVec 32) : BitVec 32 := if g = BitVec.allOnes 32 then 1 else g + 1

def dispAt (s : State) (d : Nat) : Dispatcher := sget Dispatcher.reset s.dies.disp d

def setDisp (s : State) (d : Nat) (x : Dispatcher) : State :=
  { s with dies := { s.dies with disp := sset Dispatcher.reset s.dies.disp d x } }

/-- The lowest FREE entry of die `d` (R277). -/
def freeEntry (s : State) (d : Nat) : Option Nat :=
  (List.range 4096).find? (fun k => decide ((taskAt s d k).state = .free))

/-- Entry `k` becomes READY, the latest of its die (R340). -/
def makeReady (s : State) (d k : Nat) (t : Task) : State :=
  let x := dispAt s d
  let s := setTask s d k { t with state := .ready, readySeq := x.seq, readyAt := x.decisions }
  setDisp s d { x with seq := x.seq + 1 }

/-- Create a task in entry `k` (R277). -/
def createTask (s : State) (d k : Nat) (t : Task) : State :=
  makeReady s d k { t with gen := nextGen (taskAt s d k).gen }

/-- Tasks of die `d` bound to entry `k` (R281). -/
def boundTo (s : State) (d k : Nat) : Bool :=
  s.dies.tasks.any (fun p => p.1 / 4096 == d && (p.2.producer == some k) && !decide (p.2.state = .free))

/-- An EXITED entry to which nothing is bound becomes FREE (R267). -/
def settleExited (s : State) (d k : Nat) : State :=
  let t := taskAt s d k
  if t.state = .exited ∧ boundTo s d k = false then setTask s d k { t with state := .free } else s

/-- Change the binding of entry `k`, and free the producer it leaves if that was its last binding (R267, R281). -/
def rebind (s : State) (d k : Nat) (p : Option Nat) (cur : Word) : State :=
  let t := taskAt s d k
  let s := setTask s d k { t with producer := p, bcur := if p.isSome then cur else t.bcur }
  match t.producer with
  | some q => settleExited s d q
  | none => s

/-! Clusters -/

def zeroing (s : State) (c : Nat) : BitVec 8 := sget 0 s.cores.zeroing c

def setZeroing (s : State) (c : Nat) (z : BitVec 8) : State :=
  { s with cores := { s.cores with zeroing := sset 0 s.cores.zeroing c z } }

def badClusters (s : State) (c : Nat) : BitVec 8 := sget 0 s.cores.badCluster c

/-- The clusters granted in a core. -/
def grantedIn (s : State) (c : Nat) : BitVec 8 :=
  (List.range 8).foldl (fun g p => g ||| (s.hartAt (8 * c + p)).grant) 0

/-- The clusters of a core that are neither granted, zeroing nor retired (R270, R321). -/
def ungranted (s : State) (c : Nat) : BitVec 8 := ~~~ (grantedIn s c ||| zeroing s c ||| badClusters s c)

/-- The clusters of a core whose sparing waits. -/
def sparingClusters (s : State) (c : Nat) : BitVec 8 :=
  clusterSet ((List.range 8).filter (fun p => sparingPending s (.cluster c p)))

/-- The free clusters that the Teller may grant (R270): not those whose sparing is being applied (R321). -/
def freeClusters (s : State) (c : Nat) : BitVec 8 := ungranted s c &&& ~~~ sparingClusters s c

/-- PART of a hart (R33). -/
def partField (s : State) (h : Nat) : BitVec 8 := (lpartOf s (coreOf h) >>> (8 * partOf h)).truncate 8

/-- Take clusters `p` and up while fewer than `pref` are kept: the second half of `plan` (R271). -/
def growKeep (free : BitVec 8) (pref : Nat) (keep : List Nat) : List Nat → List Nat
  | [] => keep
  | p :: ps =>
    if keep.length < pref ∧ free.getLsbD p = true then growKeep free pref (keep ++ [p]) ps
    else growKeep free pref keep ps

/-- `plan` of R271. -/
def plan (s : State) (h pref : Nat) : List Nat :=
  let part := partField s h
  let keep := (((clustersOf (s.hartAt h).grant).takeWhile (fun p => part.getLsbD p)).take pref)
  let top := match keep.getLast? with | some p => p + 1 | none => 0
  growKeep (freeClusters s (coreOf h) &&& part) pref keep ((List.range 8).drop top)

/-- Release clusters of a hart to the Teller's zeroing (R273). -/
def releaseTo (s : State) (h : Nat) (keep : BitVec 8) : State :=
  let x := s.hartAt h
  let c := coreOf h
  let s := setZeroing s c (zeroing s c ||| (x.grant &&& ~~~ keep))
  s.setHart h { x with grant := keep }

/-- The commit of a grant, with the clamp of `vl` (R271, R274). -/
def commitGrant (s : State) (h : Nat) (keep : BitVec 8) : State :=
  let s := releaseTo s h keep
  s.setHart h (s.hartAt h).clampVl

/-- Zero one cluster, landed and unmarked (R273). -/
def zeroCluster (s : State) (c p : Nat) : State :=
  let out := fun (k : Nat) => !(k / 6144 == c && k % 128 / 16 == p)
  let land := fun (k : Nat) => !(k / 384 == c && k % 8 == p)
  { s with
    cores := { s.cores with cells := s.cores.cells.filter (fun e => out e.1) }
    marks := { s.marks with
      cell := s.marks.cell.filter (fun e => out e.1)
      unlanded := s.marks.unlanded.filter (fun e => land e.1) } }

/-! Boundaries -/

/-- The running task of a hart. -/
def taskOf (s : State) (h : Nat) : Option Task := ((s.hartAt h).task).map (fun k => taskAt s (dieOf h) k)

/-- `grant_length` of R275 for the hart's running task; none is WAIT. -/
def grantLength (s : State) (h m : Nat) (keep : List Nat) : Option Nat :=
  if m = 0 then some 0
  else
    let l := Nat.min m (vlmax keep.length (ewOf (s.hartAt h).conf.vew))
    match (taskOf s h).bind (fun t => t.producer.map (fun p => (t, p))) with
    | some (t, p) =>
      let phw := (taskAt s (dieOf h) p).phw.toNat
      if l = 0 then some 0
      else if phw ≤ t.bcur.toNat then none
      else some (Nat.min l (phw - t.bcur.toNat))
    | none => some l

/-- One turn of `boundary` (R271) on hart `h`: none while it waits, else the kept clusters and the length. -/
def boundaryTry (s : State) (h min pref m : Nat) : Option (List Nat × Nat) :=
  let keep := plan s h pref
  if keep = [] ∧ 1 ≤ min then none else (grantLength s h m keep).map (fun l => (keep, l))

/-- BCUR := BCUR + L when the task is bound. -/
def advanceBcur (s : State) (h l : Nat) : State :=
  match (s.hartAt h).task with
  | none => s
  | some k =>
    let t := taskAt s (dieOf h) k
    if t.producer.isSome then setTask s (dieOf h) k { t with bcur := t.bcur + wordOf l } else s

/-- Min and pref of a hart's task; a hart that runs no task keeps the count it holds. -/
def wants (s : State) (h : Nat) : Nat × Nat :=
  match taskOf s h with
  | some t => (t.min, t.pref)
  | none => (0, grantCount (s.hartAt h).grant)

/-- Earlier vector, matrix and attention work of the current hart is complete, and so is every `sldv`: the wait before a
boundary (R271, R232). A FAULTED `sldv` slot raises STREAM at a `strip` or a `vgrant`; a swap goes on (R243, R285). -/
def boundaryReady (k : BoundaryKind) (s : State) : Eff Unit :=
  let x := s.hart
  let busy := x.updBusy ||| x.drainBusy
  let slots := (List.range 16).filter (fun k => decide ((slotAt s s.cur k).func = 2))
  if !decide (busy = 0) then waitFor s (.rows busy)
  else if slots.any (fun k => decide ((slotAt s s.cur k).state = .running)) then waitFor s .retry
  else
    match k, slots.find? (fun i => decide ((slotAt s s.cur i).state = .faulted)) with
    | .strip _ _ _, some i | .vgrant _ _, some i => raise s (tStreamOf s.cur i)
    | _, _ => .ok ()

/-! Task start -/

/-- The state of R268 in a hart, except PC, PRIV and SNEST. -/
def Hart.taskState (x : Hart) (t : Task) (handle : Word) : Hart :=
  { x with
    sregs := sset 0 (sset 0 (sset 0 [] 1 t.arg) 2 handle) 30 t.stack
    fregs := []
    mregs := []
    conf := { VConf.reset with vew := t.tew }
    prio := t.tprio
    hwm := ⟨false, 0, 0⟩
    stat := { x.stat with ceff := false } }

/-- Every cell of the hart's clusters 0, landed and unmarked, and its slots IDLE (R268). -/
def clearTaskCells (s : State) (h : Nat) : State :=
  let s := (clustersOf (s.hartAt h).grant).foldl (fun s p => zeroCluster s (coreOf h) p) s
  (List.range 16).foldl (fun s k => setSlot s h k Slot.reset) s

/-- Start READY entry `k` on an idle partition (R268, R272). -/
def startTask (s : State) (h k : Nat) : State :=
  let d := dieOf h
  let t := taskAt s d k
  let keep := growKeep (freeClusters s (coreOf h) &&& partField s h) t.cpref [] (List.range 8)
  let s := setTask s d k { t with
    state := .running, min := t.cmin, pref := t.cpref, producer := none, bcur := 0, phw := 0, ceff := false,
    started := false, popped := false }
  let x := (s.hartAt h).taskState t (handleOf s d k)
  let s := s.setHart h { x with
    pc := t.entry
    level := .u
    stat := { x.stat with snest := false }
    grant := clusterSet keep
    run := .running
    hold := .none
    parked := none
    stopAt := none
    task := some k
    preempt := false
    offer := none }
  samplePair (clearTaskCells s h) h

/-- A task has run an instruction (R267 STARTED). -/
def noteStarted (s : State) (h : Nat) : State :=
  match (s.hartAt h).task with
  | none => s
  | some k =>
    if (s.hartAt h).level = .u ∧ (taskAt s (dieOf h) k).started = false then
      setTask s (dieOf h) k { taskAt s (dieOf h) k with started := true }
    else s

end Sys2Proof.Machine
end

