-- ==== Sys2Proof/Machine/Dispatcher.lean ====
section
/-! DEFINITION. The dispatcher of a die (spec/15_pipelines.md R339 to R341, spec/09_lanes_tasks.md R269, R284) and the
instances of pipelines (R329, R346). -/

namespace Sys2Proof.Machine

/-- The locality bin of an LKEY (R339). -/
def binOf (lkey : Word) : Nat :=
  let x := bits lkey 56 16
  (List.range 11).foldl (fun acc i => acc ^^^ (x / pow2 (4 * i) % 16)) 0

/-- DSPCTL (R340). -/
def dspA (s : State) (d : Nat) : Nat := bits (regRead s (diePa d 0x380)) 31 16
def dspQuantum (s : State) (d : Nat) : Nat := bits (regRead s (diePa d 0x380)) 15 0

/-- Effective priority (R340). -/
def effPrio (s : State) (d : Nat) (t : Task) : Nat :=
  Nat.min 7 (t.tprio.toNat + ((dispAt s d).decisions - t.readyAt) / dspA s d)

/-- A core of die `d`, by its index there, that belongs to a running or stopping pipeline. -/
def inPool (s : State) (d c : Nat) : Bool := coreTaken s d 8 c

/-- A core is eligible for a task (R340); one that waits for its spare takes none (R321). -/
def coreEligible (s : State) (d c : Nat) (t : Task) : Bool :=
  !inPool s d c && (shootQueue s (64 * d + c)).isEmpty && !coreDead s (64 * d + c) && !sparingPending s (.core (64 * d + c))
    && (t.core.isNone || t.core == some (64 * d + c))

/-- The Teller can grant a hart `n` clusters, counting those it holds (R272). -/
def canGrant (s : State) (h n : Nat) : Bool :=
  decide (n ≤ grantCount ((freeClusters s (coreOf h) ||| (s.hartAt h).grant) &&& partField s h))

/-- An idle partition that may take a task now (R269, R340). -/
def partTakes (s : State) (d h : Nat) (t : Task) : Bool :=
  decide ((s.hartAt h).run = .idle) && coreEligible s d (coreOf h % 64) t && canGrant s h t.cmin

/-- The lowest partition of die `d` that may take a task. -/
def placeOf (s : State) (d : Nat) (t : Task) : Option Nat :=
  ((List.range 512).map (fun k => 512 * d + k)).find? (fun h => partTakes s d h t)

/-- The READY tasks of a die that are not instances, by entry. -/
def readyTasks (s : State) (d : Nat) : List (Nat × Task) :=
  (s.dies.tasks.filter (fun p => p.1 / 4096 == d && decide (p.2.state = .ready) && p.2.inst.isNone)).map
    (fun p => (p.1 % 4096, p.2))

/-- The task of greatest effective priority, ties to the earliest READY (R340). -/
def bestTask (s : State) (d : Nat) (l : List (Nat × Task)) : Option (Nat × Task) :=
  l.foldl (fun acc p =>
    match acc with
    | none => some p
    | some q =>
      let a := effPrio s d p.2
      let b := effPrio s d q.2
      if b < a ∨ (a = b ∧ p.2.readySeq < q.2.readySeq) then some p else acc) none

/-- The choice of R340 among candidates: the bin it is made from, and the task. -/
def chooseTask (s : State) (d : Nat) (cands : List (Nat × Task)) : Option (Nat × Bool × Nat × Task) :=
  let x := dispAt s d
  let inBin := fun (b : Nat) => cands.filter (fun p => binOf p.2.lkey == b)
  let moves := decide (x.q = dspQuantum s d) || (inBin x.bin).isEmpty
  let bin := if moves then
      ((List.range 16).map (fun i => (x.bin + 1 + i) % 16)).find? (fun b => !(inBin b).isEmpty)
    else some x.bin
  bin.bind (fun b => (bestTask s d (inBin b)).map (fun p => (b, moves, p.1, p.2)))

/-- One decision (R340): place the chosen task, unless device pre-emption holds the dispatcher (R413). -/
def placeTask (s : State) (d : Nat) : State :=
  if devReq s then s
  else
    match chooseTask s d ((readyTasks s d).filter (fun p => (placeOf s d p.2).isSome)) with
    | none => s
    | some (b, moves, k, t) =>
      match placeOf s d t with
      | none => s
      | some h =>
        let x := dispAt s d
        let s := setDisp s d { x with
          bin := b, q := (if moves then 0 else x.q) + 1, decisions := x.decisions + 1 }
        startTask s h k

/-- Record an offer (R284). -/
def makeOffer (s : State) (h : Nat) (handle : Word) : State :=
  s.setHart h { s.hartAt h with preempt := true, offer := some handle }

/-- The hart that an offer of task `t` goes to (R341). -/
def offerTarget (s : State) (d : Nat) (t : Task) : Option Nat :=
  let e := effPrio s d t
  let ok := fun (h : Nat) =>
    let x := s.hartAt h
    coreEligible s d (coreOf h % 64) t && x.offer.isNone && x.task.isSome && decide (x.prio.toNat < e)
  (((List.range 512).map (fun k => 512 * d + k)).filter ok).foldl (fun acc h =>
    match acc with
    | none => some h
    | some g => if (s.hartAt h).prio.toNat < (s.hartAt g).prio.toNat then some h else acc) none

/-- An offer under R341: one task at a time is offered. -/
def offerTask (s : State) (d : Nat) : State :=
  let ready := readyTasks s d
  if ready.any (fun p => (placeOf s d p.2).isSome) then s
  else
    match chooseTask s d (ready.filter (fun p => (List.range 64).any (fun c => coreEligible s d c p.2))) with
    | none => s
    | some (_, _, k, t) =>
      let handle := handleOf s d k
      if ((List.range 512).any (fun j => (s.hartAt (512 * d + j)).offer == some handle)) then s
      else
        match offerTarget s d t with
        | none => s
        | some h => makeOffer s h handle

/-- The task that `tyield` offers to hart `h`, if its effective priority is at least `prio` (R283, R341). -/
def yieldTask (s : State) (h : Nat) : Option Nat :=
  let d := dieOf h
  let cands := (readyTasks s d).filter (fun p =>
    coreEligible s d (coreOf h % 64) p.2 && canGrant s h p.2.cmin)
  match chooseTask s d cands with
  | some (_, _, k, t) => if (s.hartAt h).prio.toNat ≤ effPrio s d t then some k else none
  | none => none

/-! The end of a task -/

/-- Step 4 of R278 on hart `h`, with no completion write; the last idle partition lets device pre-emption end (R413). -/
def endTask (s : State) (h : Nat) : State :=
  let d := dieOf h
  let s := releaseTo s h 0
  let s := match (s.hartAt h).task with
    | none => s
    | some k =>
      let s := rebind s d k none 0
      let t := taskAt s d k
      settleExited (setTask s d k { t with state := .exited }) d k
  let x := s.hartAt h
  devSettle (s.setHart h { x with
    run := .idle
    hold := .none
    parked := none
    stopAt := none
    task := none
    preempt := false
    offer := none
    conf := { x.conf with vl := 0 } })

/-- What ends a task waits for (R278, R346): earlier instructions and RUNNING slots; a FAULTED slot raises STREAM. -/
def endReady (s : State) : Eff Unit :=
  let busy := s.hart.updBusy ||| s.hart.drainBusy
  if !decide (busy = 0) then waitFor s (.rows busy)
  else if (List.range 16).any (fun k => decide ((slotAt s s.cur k).state = .running)) then waitFor s .retry
  else
    match faultedSlot s s.cur (fun _ _ => true) with
    | some k => raise s (tStreamOf s.cur k)
    | none => .ok ()

/-! Instances -/

/-- The entry an instance starts in: a replayed one of its core, else the lowest FREE entry (R329, R350). -/
def instanceEntry (s : State) (d k st c : Nat) : Option Nat :=
  match (s.dies.tasks.find? (fun p => p.1 / 4096 == d && decide (p.2.state = .ready) && (p.2.inst == some (k, st))
      && (p.2.core == some (64 * d + c)))) with
  | some p => some (p.1 % 4096)
  | none => freeEntry s d

/-- The task of an instance of a stage on a core (R329). -/
def instanceTask (k st c : Nat) (g : StageDesc) : Task :=
  { Task.reset with
    entry := g.entry
    arg := g.arg
    stack := g.stack
    cmin := g.cmin
    cpref := g.cpref
    tprio := g.tprio
    tew := g.tew
    min := g.cmin
    pref := g.cpref
    inst := some (k, st)
    core := some c }

/-- The handle of avenue `a` of slot `k` with a generation (R331). -/
def avHandle (k a : Nat) (gen : BitVec 8) : BitVec 16 := BitVec.ofNat 16 (k * 8192 + a * 256 + gen.toNat)

/-- Start the instance of stage `st` on partition `p` of core `c` of die `d`, if it can start (R329). -/
def startInstance (s : State) (d k st c p : Nat) : Option State :=
  let pl := pipeAt s d k
  let h := 512 * d + 8 * c + p
  match pl.stages[st]?, instanceEntry s d k st c with
  | some g, some e =>
    if (s.hartAt h).run = .idle ∧ canGrant s h g.cmin = true ∧ devReq s = false then
      let old := taskAt s d e
      let gen := if old.state = .ready then old.gen else nextGen old.gen
      let s := setTask s d e { instanceTask k st (64 * d + c) g with state := .ready, gen := gen }
      let s := setReg s (rootPa h) (pl.root &&& wordOf (maskBits 51 12))
      let s := setReg s (asidPa h) (wordOf pl.asid.toNat)
      let s := startTask s h e
      let x := s.hartAt h
      let x := (x.wS 30 (g.stack + wordOf (g.sstride * (8 * c + p)))).wS 3 (wordOf st)
      some (s.setHart h { x with conf := { x.conf with avh := avHandle k 0 pl.gen } })
    else none
  | _, _ => none

end Sys2Proof.Machine
end

