-- ==== Sys2Proof/Machine/Sync.lean ====
section
/-! DEFINITION. Synchronisation (spec/04_scalar.md R129 to R138, spec/21_fabric.md R432). -/

namespace Sys2Proof.Machine

open Host (Outcome)

/-- Accesses perform as they are made, so a fence has nothing left to order (R130, log 3). -/
def execFence (_sc : Scope) (s : State) : Outcome State Fault Refusal := .next (s.adv 4)
def execFenceAcq (_sc : Scope) (s : State) : Outcome State Fault Refusal := .next (s.adv 4)
def execFenceRel (_sc : Scope) (s : State) : Outcome State Fault Refusal := .next (s.adv 4)

/-- The hart fetches at each step, so nothing fetched is held (R131). -/
def execFenceI (s : State) : Outcome State Fault Refusal := .next (s.adv 4)

/-! Barriers -/

/-- The greatest arriving count of a scope (R132). -/
def scopeLimit : Scope → Nat
  | .core => 8 | .quad => 32 | .die => 512 | .pkg => 4096 | .pod => 16777216

def barrierHome (s : State) : Nat := bits (fpkg s) 27 16

/-- Pod barriers live at a home package: VALID = 1 and BVALID = 1 (R432). -/
def podRemote (s : State) : Bool := (fpkg s).getLsbD 12 && (fpkg s).getLsbD 28

/-- SEQ of a barrier frame: the `hartid` in bits [11:0]. A command hart's reads 0 (R393), so the bits above name it; the spec
leaves them open (log 91). -/
def podSeq (h : Nat) : Nat := if h < 4096 then h else 4096 * (h - 4095)

/-- The hart that SEQ names. -/
def seqHart (q : Nat) : Nat := if q < 4096 then q else 4095 + q / 4096

/-- A barrier frame (R432): operation 0 arrival, 1 withdrawal, 2 reply, 3 completion. -/
def podFrame (s : State) (dpkg op b hart daddr : Nat) : Frame :=
  ⟨ownPkg s, dpkg, 6, false, daddr, b + 16 * op, podSeq hart, [], [], none⟩

/-- The copy of a pod barrier's phase counter (R432). -/
def podCopy (s : State) (b : Nat) : Word := sget 0 s.pkg.podCopies b

/-- The phase counter that a hart's barrier shows. -/
def phaseOf (s : State) (sc : Scope) (h b : Nat) : Word :=
  if sc = .pod ∧ podRemote s = true then podCopy s b else (barrierAt s (barrierKey sc (scopeInst sc h) b)).phase

/-- Phase `p` has completed where the counter shows `c`: (c − p) mod 2^64 in [1, 2^63) (R133). -/
def phasePast (c p : Word) : Bool := decide (1 ≤ (c - p).toNat) && decide ((c - p).toNat < pow2 63)

/-- The pending record of a partition for a pod barrier (R432). -/
def podRecord (s : State) (h b : Nat) : Option PodRecord := sget none (s.hartAt h).pod b

def setPodRecord (s : State) (h b : Nat) (r : Option PodRecord) : State :=
  s.setHart h { s.hartAt h with pod := sset none (s.hartAt h).pod b r }

/-- The checks of an arrival (R132). -/
def barChecks (s : State) (i : Instr) (sc : Scope) (b n : Word) : Eff Unit := do
  need (decide (b.toNat < 16)) s (tIllegal (instrBits i))
  need (decide (1 ≤ n.toNat) && decide (n.toNat ≤ scopeLimit sc)) s (tIllegal (instrBits i))

/-- Arrive at a barrier of this package. -/
def arriveAt (s : State) (sc : Scope) (h b n : Nat) : State :=
  let k := barrierKey sc (scopeInst sc h) b
  setBarrier s k ((barrierAt s k).arrive n)

/-- Send a pod arrival and keep its record (R432). -/
def podArrive (s : State) (h b n : Nat) : State :=
  setPodRecord (sendFrame s (podFrame s (barrierHome s) 0 b h n)) h b (some .arrivalSent)

/-- `bar` at a pod barrier with a home: the record comes first (R432). `n` is the count. -/
def podBar (s : State) (b n : Nat) : Eff State :=
  match podRecord s s.cur b with
  | some (.joined p) | some (.completed p) =>
    if phasePast (podCopy s b) p then done (setPodRecord s s.cur b none) 4 else waitFor s (.bar .pod b p)
  | some .arrivalSent | some (.withdrawSent _) => waitFor s (.bar .pod b 0)
  | some .withdrawn | none => waitFor (podArrive s s.cur b n) (.bar .pod b 0)

/-- `bar.arr` at a pod barrier with a home. -/
def podBarArr (s : State) (rd : SReg) (b n : Nat) : Eff State :=
  match podRecord s s.cur b with
  | some (.joined p) | some (.completed p) => done ((setPodRecord s s.cur b none).wS rd p) 4
  | some .arrivalSent | some (.withdrawSent _) => waitFor s .retry
  | some .withdrawn | none => waitFor (podArrive s s.cur b n) .retry

/-- `bar` (R133). -/
def execBar (sc : Scope) (ra rb : SReg) (s : State) : Outcome State Fault Refusal :=
  finish (do
    barChecks s (.bar sc ra rb) sc (s.rS ra) (s.rS rb)
    let b := (s.rS ra).toNat
    if sc = .pod ∧ podRemote s = true then podBar s b (s.rS rb).toNat
    else
      let p := phaseOf s sc s.cur b
      let t := arriveAt s sc s.cur b (s.rS rb).toNat
      if phasePast (phaseOf t sc s.cur b) p then done t 4 else waitFor t (.bar sc b p))

/-- `bar.arr` (R133). -/
def execBarArr (sc : Scope) (rd ra rb : SReg) (s : State) : Outcome State Fault Refusal :=
  finish (do
    barChecks s (.barArr sc rd ra rb) sc (s.rS ra) (s.rS rb)
    let b := (s.rS ra).toNat
    if sc = .pod ∧ podRemote s = true then podBarArr s rd b (s.rS rb).toNat
    else
      let p := phaseOf s sc s.cur b
      done ((arriveAt s sc s.cur b (s.rS rb).toNat).wS rd p) 4)

/-- `bar.wt` (R133). -/
def execBarWt (sc : Scope) (ra rb : SReg) (s : State) : Outcome State Fault Refusal :=
  finish (do
    need (decide ((s.rS ra).toNat < 16)) s (tIllegal (instrBits (.barWt sc ra rb)))
    if phasePast (phaseOf s sc s.cur (s.rS ra).toNat) (s.rS rb) then done s 4 else waitFor s .retry)

/-- The wait of a `bar` in progress on the current hart ends when its phase has completed (R133, R296, R432). The count of
a pod arrival that starts afresh is read from the instruction again, so the hart re-executes it. -/
def barWaitStep (s : State) : Eff State :=
  match s.hart.hold with
  | .bar sc b p =>
    if sc = .pod ∧ podRemote s = true then
      match podRecord s s.cur b with
      | some (.joined q) | some (.completed q) =>
        if phasePast (podCopy s b) q then done (setPodRecord s s.cur b none) 4 else waitFor s (.bar sc b q)
      | some .withdrawn | none => waitFor s .retry
      | some _ => waitFor s (.bar sc b p)
    else if phasePast (phaseOf s sc s.cur b) p then done s 4 else waitFor s (.bar sc b p)
  | _ => .ok s

/-- End the wait of the current hart when `r` completes. -/
def releaseHold (r : Eff State) : Eff State := r.map (fun s => s.putHart { s.hart with hold := .none })

/-- Withdraw the arrival of a hart that waits in `bar` and must take an interrupt (R134, R432). -/
def withdrawBar (s : State) (h : Nat) : State :=
  match (s.hartAt h).hold with
  | .bar sc b _ =>
    if sc = .pod ∧ podRemote s = true then
      let send := fun (p : Option Word) =>
        setPodRecord (sendFrame s (podFrame s (barrierHome s) 1 b h 0)) h b (some (.withdrawSent p))
      match podRecord s h b with
      | some .arrivalSent => send none
      | some (.joined p) => send (some p)
      | _ => s
    else
      let k := barrierKey sc (scopeInst sc h) b
      setBarrier s k (barrierAt s k).withdraw
  | _ => s

/-! Waiting on memory -/

/-- The conditions of `vwait` (R135). -/
def condHolds (c : WaitCond) (v b : Word) : Bool :=
  match c with
  | .eq => decide (v = b) | .ne => !decide (v = b) | .geu => !v.ult b | .ltu => v.ult b
  | .ge => !v.slt b | .lt => v.slt b

/-- One read of a `vwait` (R135). -/
def vwaitStep (c : WaitCond) (sc : Scope) (rd : SReg) (va operand : Word) (s : State) : Eff State := do
  aligned s va 8
  let r ← hartRead s va 8
  if condHolds c (wordOf r.2) operand then done (r.1.wS rd (wordOf r.2)) 4
  else waitFor r.1 (.vwait c sc rd va operand)

def execVwait (c : WaitCond) (sc : Scope) (rd ra rb : SReg) (s : State) : Outcome State Fault Refusal :=
  finish (vwaitStep c sc rd (s.rS ra) (s.rS rb) s)

/-! Quiescent points and spinning -/

/-- `qpoint` (R136). -/
def execQpoint (s : State) : Outcome State Fault Refusal :=
  finish (
    if !shootPending s s.cur then done s 4
    else do
      endReady s
      waitFor (s.putHart { s.hart with quiet := true }) .qpoint)

/-- `pause` (R137): the pc stands after it while the hart waits. -/
def execPause (s : State) : Outcome State Fault Refusal :=
  .next ((s.adv 4).putHart { (s.adv 4).hart with hold := .pause })

end Sys2Proof.Machine
end

