-- ==== Sys2Proof/Machine/Tasks.lean ====
section
/-! DEFINITION. Task and lease instructions and `strip` (spec/09_lanes_tasks.md R271, R276 to R285, spec/04_scalar.md R112
to R114). -/

namespace Sys2Proof.Machine

open Host (Outcome)

/-- Add `n` to the `k`th pointer register and those after it (R113). -/
def bumpPointers (s : State) (first count n : Nat) : State :=
  (List.range count).foldl (fun s i =>
    s.wS (BitVec.ofNat 5 (first + i)) (s.rS (BitVec.ofNat 5 (first + i)) + wordOf n)) s

/-- Write `vl` directly (R113, R280). -/
def setVl (s : State) (l : Nat) : State := s.setConf { s.hart.conf with vl := BitVec.ofNat 11 l }

/-- The commit of `strip` (R113); none while its boundary waits. -/
def stripCommit (s : State) (ra : SReg) (ps : BitVec 5) (off : BitVec 16) : Option State :=
  let left := (s.rS ra).toNat
  let g := Nat.min s.vl left
  let m := left - g
  let w := wants s s.cur
  (boundaryTry s s.cur w.1 w.2 m).map (fun r =>
    let bytes := g * s.ew / 8
    let q := ps.toNat / 4
    let s := advanceBcur (commitGrant s s.cur (clusterSet r.1)) s.cur r.2
    let s := s.wS ra (wordOf m)
    let s := if q = 0 then s else bumpPointers s (4 * q) (ps.toNat % 4 + 1) bytes
    let s := setVl s r.2
    if 0 < m then s.setPc (s.hart.pc + branchOff off) else s.adv 4)

/-- The commit of `vgrant` (R280). -/
def vgrantCommit (s : State) (rd ra : SReg) : Option State :=
  let w := wants s s.cur
  (boundaryTry s s.cur w.1 w.2 (s.rS ra).toNat).map (fun r =>
    let s := advanceBcur (commitGrant s s.cur (clusterSet r.1)) s.cur r.2
    ((setVl s r.2).wS rd (wordOf r.2)).adv 4)

/-- The task that `tspawn.swap` brings in, by entry (R285). -/
def swapIncoming (s : State) (ra : SReg) : Option Nat :=
  let d := dieOf s.cur
  let h := if s.rS ra = 0 then s.hart.offer else some (s.rS ra)
  (h.bind (handleSlot s d)).bind (fun k =>
    let st := (taskAt s d k).state
    if st = .suspended ∨ st = .ready then some k else none)

/-- The outgoing task becomes SUSPENDED with its CEFF (R285). -/
def suspendTask (s : State) (d : Nat) (old : Option Nat) (ceff : Bool) : State :=
  match old with
  | some o => setTask s d o { taskAt s d o with state := .suspended, ceff := ceff }
  | none => s

/-- An incoming task that has not started: the state of R268 with its entry in `tpc` (R285). -/
def swapStart (s : State) (d k : Nat) : State :=
  let s := rebind s d k none 0
  let t := taskAt s d k
  let s := setTask s d k { t with min := t.cmin, pref := t.cpref, bcur := 0, phw := 0 }
  let x := s.hart.taskState t (handleOf s d k)
  let s := s.putHart { x with
    strap := { x.strap with pc := t.entry, vsi := 0 }
    stat := { x.stat with spp := false, spie := true } }
  clearTaskCells s s.cur

/-- The commit of `tspawn.swap` (R285). -/
def swapCommit (s : State) (rd ra : SReg) : Option State :=
  let d := dieOf s.cur
  match swapIncoming s ra with
  | none => some ((s.wS rd 0).adv 4)
  | some k =>
    let t := taskAt s d k
    (boundaryTry s s.cur t.min t.pref 0).map (fun r =>
      let offered := decide (s.rS ra = 0)
      let old := s.hart.task
      let oldHandle := match old with | some o => handleOf s d o | none => 0
      let s := commitGrant s s.cur (clusterSet r.1)
      let s := suspendTask s d old s.hart.stat.ceff
      let s := setTask s d k { taskAt s d k with state := .running }
      let x := s.hart
      let s := s.putHart { x with
        task := some k
        prio := t.tprio
        stat := { x.stat with ceff := t.ceff }
        preempt := if offered then false else x.preempt
        offer := if offered then none else x.offer }
      let s := if t.started then s else swapStart s d k
      (s.wS rd oldHandle).adv 4)

/-- One turn of a boundary instruction. -/
def boundaryCommit (s : State) (k : BoundaryKind) : Option State :=
  match k with
  | .strip ra ps off => stripCommit s ra ps off
  | .vgrant rd ra => vgrantCommit s rd ra
  | .swap rd ra => swapCommit s rd ra

/-- A boundary instruction on the current hart: the waits before it, then its commit or the wait for one (R271). -/
def boundaryStep (s : State) (k : BoundaryKind) : Eff State := do
  boundaryReady k s
  match boundaryCommit s k with
  | some t => .ok t
  | none => waitFor s (.boundary k)

def execStrip (ra : SReg) (ps : BitVec 5) (off : BitVec 16) (s : State) : Outcome State Fault Refusal :=
  finish (do
    computeOnly s (.strip ra ps off)
    boundaryStep s (.strip ra ps off))

def execVgrant (rd ra : SReg) (s : State) : Outcome State Fault Refusal :=
  finish (do
    computeOnly s (.vgrant rd ra)
    boundaryStep s (.vgrant rd ra))

/-- R285: with no task to bring in, `s[RD]` is 0 and nothing changes. -/
def execTspawnSwap (rd ra : SReg) (s : State) : Outcome State Fault Refusal :=
  finish (do
    computeOnly s (.tspawnSwap rd ra)
    needS s (.tspawnSwap rd ra)
    if (swapIncoming s ra).isNone then done (s.wS rd 0) 4 else boundaryStep s (.swap rd ra))

/-- `tspawn.core` and `tspawn.die` (R277). -/
def spawn (i : Instr) (core : Option Nat) (rd ra : SReg) (s : State) : Outcome State Fault Refusal :=
  finish (do
    computeOnly s i
    aligned s (s.rS ra) 64
    let r ← hartReadWords s (s.rS ra) 8
    let s := r.1
    let d := dieOf s.cur
    match parseTask r.2 with
    | none => done (s.wS rd 1) 4
    | some t =>
      match freeEntry s d with
      | none => done (s.wS rd 2) 4
      | some k =>
        let s := createTask s d k { t with core := core }
        done (s.wS rd (handleOf s d k)) 4)

def execTspawnCore (rd ra : SReg) (s : State) : Outcome State Fault Refusal :=
  spawn (.tspawnCore rd ra) (some (coreOf s.cur)) rd ra s

def execTspawnDie (rd ra : SReg) (s : State) : Outcome State Fault Refusal := spawn (.tspawnDie rd ra) none rd ra s

/-- The completion write of `texit` (R278). -/
def exitWrite (s : State) (code : Word) : Eff State :=
  match taskOf s s.cur with
  | some t => if t.done = 0 then .ok s else hartWrite s t.done 8 code.toNat
  | none => .ok s

/-- `texit` (R278). -/
def execTexit (ra : SReg) (s : State) : Outcome State Fault Refusal :=
  finish (do
    computeOnly s (.texit ra)
    endReady s
    let s ← exitWrite s (s.rS ra)
    .ok (endTask s s.cur))

/-- Change the running task's entry. -/
def updateTask (s : State) (f : Task → Task) : State :=
  match s.hart.task with
  | some k => setTask s (dieOf s.cur) k (f (taskAt s (dieOf s.cur) k))
  | none => s

/-- The grant count c. -/
def grantWord (s : State) : Word := wordOf (grantCount s.hart.grant)

/-- `lreq` (R279). -/
def execLreq (rd ra rb : SReg) (s : State) : Outcome State Fault Refusal :=
  let mn := clampNat (s.rS ra).toNat 1 8
  let pf := clampNat (s.rS rb).toNat mn 8
  finish (do
    computeOnly s (.lreq rd ra rb)
    done ((updateTask s (fun t => { t with min := mn, pref := pf })).wS rd (grantWord s)) 4)

/-- `lrel` (R279). -/
def execLrel (rd ra : SReg) (s : State) : Outcome State Fault Refusal :=
  let n := Nat.min (s.rS ra).toNat 8
  finish (do
    computeOnly s (.lrel rd ra)
    done ((updateTask s (fun t => { t with min := Nat.min t.min n, pref := Nat.min t.pref n })).wS rd (grantWord s)) 4)

/-- `lpub` (R282). -/
def execLpub (ra : SReg) (s : State) : Outcome State Fault Refusal :=
  finish (do
    computeOnly s (.lpub ra)
    done (updateTask s (fun t => { t with phw := umaxWord t.phw (s.rS ra) })) 4)
where
  /-- The greater of two words, unsigned. -/
  umaxWord (a b : Word) : Word := if a.ult b then b else a

/-- The entry that `lbind` binds to (R281). -/
def bindTarget (s : State) (h : Word) : Option Nat :=
  (handleSlot s (dieOf s.cur) h).bind (fun k =>
    if (taskAt s (dieOf s.cur) k).state = .free ∨ s.hart.task = some k then none else some k)

/-- `lbind` (R281). A hart without a task has nothing to bind. -/
def execLbind (rd ra rb : SReg) (s : State) : Outcome State Fault Refusal :=
  finish (do
    computeOnly s (.lbind rd ra rb)
    match s.hart.task with
    | none => done (s.wS rd (if s.rS ra = 0 then 1 else 0)) 4
    | some k =>
      if s.rS ra = 0 then done ((rebind s (dieOf s.cur) k none 0).wS rd 1) 4
      else
        match bindTarget s (s.rS ra) with
        | some p => done ((rebind s (dieOf s.cur) k (some p) (s.rS rb)).wS rd 1) 4
        | none => done (s.wS rd 0) 4)

/-- `tyield` (R283). -/
def execTyield (rd : SReg) (s : State) : Outcome State Fault Refusal :=
  finish (do
    computeOnly s (.tyield rd)
    match yieldTask s s.cur with
    | some k => done ((makeOffer s s.cur (handleOf s (dieOf s.cur) k)).wS rd 1) 4
    | none => done (s.wS rd 0) 4)

end Sys2Proof.Machine
end

