-- ==== Sys2Proof/Machine/Rounding.lean ====
section
/-! DEFINITION. Rounding and exact arithmetic (spec/02_number_formats.md R57, R59, R60, R64 to R71). Every function
returns its result beside the flags it raises. -/

namespace Sys2Proof.Machine

/-- The arguments of one rounding step besides the value: the mode, `.sat`, and the inputs of stochastic rounding (R64). -/
structure Rnd where
  rm : RMode
  sat : Bool
  seed : Nat
  idx : Nat
  tag : Nat
  deriving DecidableEq, Repr

/-- `srbits(seed, idx, tag)` on 64-bit words (R65). -/
def srbits (seed idx tag : Nat) : Nat :=
  let z0 : Word := wordOf seed ^^^ (wordOf idx * 0x9E3779B97F4A7C15#64) ^^^ (wordOf tag * 0xD6E8FEB86659FD93#64)
  let z1 := (z0 ^^^ (z0 >>> 30)) * 0xBF58476D1CE4E5B9#64
  let z2 := (z1 ^^^ (z1 >>> 27)) * 0x94D049BB133111EB#64
  (z2 ^^^ (z2 >>> 31)).toNat

/-- Whether `pick` takes the upper of the two neighbours: `lowOdd` says that the lower one is odd, and the value lies
`rem/den` of the way up (R64, R66). -/
def pickUpper (r : Rnd) (neg lowOdd : Bool) (rem den : Nat) : Bool :=
  match r.rm with
  | .rne => decide (den < 2 * rem) || (decide (2 * rem = den) && lowOdd)
  | .rtz => false
  | .rdn => neg
  | .rup => !neg
  | .rmm => decide (den ≤ 2 * rem)
  | .sr => decide (srbits r.seed r.idx r.tag / pow2 32 < rem * pow2 32 / den)

/-- floor(log2(n/d)) for positive n and d. -/
def log2Rat (n d : Nat) : Int :=
  let e : Int := (Nat.log2 n : Int) - (Nat.log2 d : Int)
  -- n/d lies in (2^(e-1), 2^(e+1))
  let below : Bool :=
    match e with
    | .ofNat k => decide (n < d * pow2 k)
    | .negSucc k => decide (n * pow2 (k + 1) < d)
  if below then e - 1 else e

/-- The magnitude code of a format's largest finite value (R48, R50). -/
def maxCode (f : Fmt) : Nat :=
  match f.top with
  | .ieee | .quietOnly => (pow2 f.ebits - 1) * pow2 f.mbits - 1
  | .e4m3 => 126
  | .none => pow2 (f.ebits + f.mbits) - 1

def signBit (f : Fmt) (neg : Bool) : Nat := if neg then pow2 (f.ebits + f.mbits) else 0

/-- The code of a signed infinity where the format has one. -/
def infCode (f : Fmt) : Nat := (pow2 f.ebits - 1) * pow2 f.mbits

/-- The canonical NaN of a format (R51); `e2m1` has none, and R67 gives +0 there. -/
def canonNaN (f : Fmt) : Nat :=
  match f.top with
  | .ieee | .quietOnly => (pow2 f.ebits - 1) * pow2 f.mbits + pow2 (f.mbits - 1)
  | .e4m3 => 127
  | .none => 0

/-- A NaN or an infinity as the input of `round`: the first three rows of R67. -/
def roundSpecial (f : Fmt) (v : Val) (sat : Bool) : Nat × Flags :=
  match v with
  | .nan sig =>
    match f.top with
    | .none => (0, fNV)
    | _ => (canonNaN f, if sig then fNV else 0)
  | .inf neg =>
    if sat then (signBit f neg + maxCode f, fSATF)
    else match f.top with
      | .ieee | .quietOnly => (signBit f neg + infCode f, 0)
      | .e4m3 => (canonNaN f, fNV)
      | .none => (signBit f neg + maxCode f, fNV)
  | .fin neg _ _ => (signBit f neg, 0)

/-- A result beyond the format's largest finite value: the last two rows of R67. -/
def roundOverflow (f : Fmt) (neg : Bool) (r : Rnd) : Nat × Flags :=
  let big := signBit f neg + maxCode f
  if r.sat then (big, fSATF ||| fNX)
  else match f.top with
    | .e4m3 => (canonNaN f, fOF ||| fNX)
    | .none => (big, fOF ||| fNX)
    | _ =>
      let toInf := match r.rm with
        | .rne | .rmm | .sr => true
        | .rtz => false
        | .rdn => neg
        | .rup => !neg
      (if toInf then signBit f neg + infCode f else big, fOF ||| fNX)

/-- `round(t, x, rm, sat, idx, tag)` for a format (R64). -/
def roundFmt (f : Fmt) (v : Val) (r : Rnd) : Nat × Flags :=
  match v with
  | .nan _ => roundSpecial f v r.sat
  | .inf _ => roundSpecial f v r.sat
  | .fin neg 0 _ => (signBit f neg, 0)
  | .fin neg n d =>
    let e := log2Rat n d
    let emin : Int := 1 - (f.bias : Int)
    let eff := if e < emin then emin else e
    let k : Int := eff - (f.mbits : Int)
    let nn := match k with | .ofNat _ => n | .negSucc j => n * pow2 (j + 1)
    let dd := match k with | .ofNat j => d * pow2 j | .negSucc _ => d
    let q := nn / dd
    let rem := nn % dd
    let q' := if rem = 0 then q else if pickUpper r neg (decide (q % 2 = 1)) rem dd then q + 1 else q
    let fl : Flags := if rem = 0 then 0 else if e < emin then fNX ||| fUF else fNX
    -- the magnitude code, the grid unbounded above the largest finite value
    let code := q' + (eff - emin).toNat * pow2 f.mbits
    if maxCode f < code then
      let o := roundOverflow f neg r
      (o.1, o.2 ||| fl)
    else (signBit f neg + code, fl)

/-- `round` to a floating-point type; a type without a floating-point format gives 0 (no instruction asks for it). -/
def round (t : Ty) (v : Val) (r : Rnd) : Nat × Flags :=
  match fmtOf t with
  | some f => roundFmt f v r
  | none => (0, 0)

/-- The canonical NaN of a type. -/
def canonOf (t : Ty) : Nat :=
  match fmtOf t with
  | some f => canonNaN f
  | none => 0

def isNaN : Val → Bool
  | .nan _ => true
  | _ => false

/-- NV for a signalling NaN read as an arithmetic operand (R51). -/
def sigFlag : Val → Flags
  | .nan true => fNV
  | _ => 0

def isZero : Val → Bool
  | .fin _ 0 _ => true
  | _ => false

def negOf : Val → Bool
  | .nan _ => false
  | .inf n => n
  | .fin n _ _ => n

def vneg : Val → Val
  | .nan s => .nan s
  | .inf n => .inf (!n)
  | .fin n a b => .fin (!n) a b

def vabs : Val → Val
  | .inf _ => .inf false
  | .fin _ a b => .fin false a b
  | v => v

/-- A magnitude in lowest terms. -/
def mkFin (neg : Bool) (n d : Nat) : Val :=
  let g := Nat.gcd n d
  if g ≤ 1 then .fin neg n d else .fin neg (n / g) (d / g)

/-- The exact product; 0·∞ is NaN with NV (R71). The flags include NV for a signalling factor. -/
def vmul (a b : Val) : Val × Flags :=
  let fl := sigFlag a ||| sigFlag b
  match a, b with
  | .nan _, _ => (.nan false, fl)
  | _, .nan _ => (.nan false, fl)
  | .inf n, .inf m => (.inf (xor n m), fl)
  | .inf n, .fin m x _ => if x = 0 then (.nan false, fl ||| fNV) else (.inf (xor n m), fl)
  | .fin m x _, .inf n => if x = 0 then (.nan false, fl ||| fNV) else (.inf (xor n m), fl)
  | .fin n x y, .fin m u w => (mkFin (xor n m) (x * u) (y * w), fl)

/-- The finite sum of two finite values, an exact zero signed as R71 says. -/
def addFin (rm : RMode) (n1 : Bool) (a1 b1 : Nat) (n2 : Bool) (a2 b2 : Nat) : Val :=
  let x : Int := if n1 then -((a1 * b2 : Nat) : Int) else ((a1 * b2 : Nat) : Int)
  let y : Int := if n2 then -((a2 * b1 : Nat) : Int) else ((a2 * b1 : Nat) : Int)
  let s := x + y
  if s = 0 then .fin (if n1 = n2 then n1 else decide (rm = .rdn)) 0 1
  else mkFin (decide (s < 0)) s.natAbs (b1 * b2)

/-- The exact sum of two values: NaN passes on, ∞ − ∞ is NaN with NV (R71). -/
def vadd2 (rm : RMode) (a b : Val) : Val × Flags :=
  let fl := sigFlag a ||| sigFlag b
  match a, b with
  | .nan _, _ => (.nan false, fl)
  | _, .nan _ => (.nan false, fl)
  | .inf n, .inf m => if n = m then (.inf n, fl) else (.nan false, fl ||| fNV)
  | .inf n, .fin _ _ _ => (.inf n, fl)
  | .fin _ _ _, .inf n => (.inf n, fl)
  | .fin n x y, .fin m u w => (addFin rm n x y m u w, fl)

def hasInf (neg : Bool) (l : List Val) : Bool := l.any (fun v => decide (v = .inf neg))

/-- The exact sum of all terms at once (R71): NV when it contains both infinities or a signalling NaN. -/
def vsum (rm : RMode) (l : List Val) : Val × Flags :=
  match l with
  | [] => (.fin false 0 1, 0)
  | v :: vs =>
    let s := vs.foldl (fun acc x => (vadd2 rm acc x).1) v
    let both := hasInf true l && hasInf false l
    let sig := l.any (fun x => decide (x = .nan true))
    (if both then .nan false else match s with | .nan _ => .nan false | w => w,
      (if both then fNV else 0) ||| (if sig then fNV else 0))

/-- The exact quotient with the special cases of R116. -/
def vdiv (a b : Val) : Val × Flags :=
  let fl := sigFlag a ||| sigFlag b
  match a, b with
  | .nan _, _ => (.nan false, fl)
  | _, .nan _ => (.nan false, fl)
  | .inf _, .inf _ => (.nan false, fl ||| fNV)
  | .inf n, .fin m _ _ => (.inf (xor n m), fl)
  | .fin n _ _, .inf m => (.fin (xor n m) 0 1, fl)
  | .fin n x y, .fin m u w =>
    if u = 0 then (if x = 0 then (.nan false, fl ||| fNV) else (.inf (xor n m), fl ||| fDZ))
    else (mkFin (xor n m) (x * w) (y * u), fl)

/-- Exact comparison of non-NaN values, −0 equal to +0. -/
def vcmp : Val → Val → Ordering
  | .inf n, .inf m => if n = m then .eq else if n then .lt else .gt
  | .inf n, _ => if n then .lt else .gt
  | _, .inf m => if m then .gt else .lt
  | .fin n x y, .fin m u w =>
    let p : Int := if n then -((x * w : Nat) : Int) else ((x * w : Nat) : Int)
    let q : Int := if m then -((u * y : Nat) : Int) else ((u * y : Nat) : Int)
    if p < q then .lt else if p = q then .eq else .gt
  | _, _ => .eq

/-- Order with −0 below +0 (R73). -/
def vless (a b : Val) : Bool :=
  match vcmp a b with
  | .lt => true
  | .gt => false
  | .eq => isZero a && isZero b && negOf a && !negOf b

/-- `min` and `max` of R73 and R116: NaN if either operand is NaN. -/
def vminmax (wantMax : Bool) (a b : Val) : Val × Flags :=
  let fl := sigFlag a ||| sigFlag b
  if isNaN a || isNaN b then (.nan false, fl)
  else if vless a b then (if wantMax then b else a, fl)
  else (if wantMax then a else b, fl)

/-- The exact product of a decoded value and a penny code (R59). -/
def pennyMul (v : Val) (c : Nat) : Val × Flags :=
  if c % 64 = 63 then
    match v with
    | .nan s => (.nan false, sigFlag (.nan s))
    | .inf _ => (.nan false, fNV)
    | .fin n _ _ => (.fin n 0 1, 0)
  else (match v with
    | .nan _ => .nan false
    | w => mulFin w (4 + (pennyEF c).2) (4 * pow2 (pennyEF c).1), sigFlag v)

/-- The nearest penny code of n/d in [2^−15, 1): steps 4 and 5 of R60. `e` is E; a quarter index of 4 stands for
2^−(E−1), and F = 3 is no candidate for E = 15. -/
def pennyNearest (n d e : Nat) : Nat :=
  let num := 4 * (n * pow2 e - d)
  let lo := if e = 15 ∧ num / d = 3 then 2 else num / d
  let up := if e = 15 ∧ lo = 2 then 4 else lo + 1
  let dist := 2 * (num - lo * d)
  let gap := (up - lo) * d
  let f :=
    if dist < gap then lo
    else if gap < dist then up
    else if e = 15 ∧ lo = 2 then up
    else if lo % 2 = 0 then lo else up
  if f = 4 then (if e = 1 then 0 else 4 * (e - 1)) else 4 * e + f

/-- `prob(p)` under PENNY for an exact p ≥ 0 (R60). -/
def probPenny (v : Val) : Nat × Flags :=
  let code : Nat :=
    match v with
    | .nan _ => 63
    | .inf _ => 0
    | .fin _ n d =>
      if d ≤ n then 0
      else if n * pow2 16 < d then 63
      else if n * pow2 15 < d then 60
      else pennyNearest n d (-(log2Rat n d)).toNat
  let nx : Bool :=
    match v, decodePenny code with
    | .fin _ n d, .fin _ cn cd => !decide (n * cd = cn * d)
    | .inf _, _ => true
    | _, _ => false
  (code, (if nx then fNX else 0) ||| (match v with | .nan _ => fNV | _ => 0))

/-- `prob(p)` under `fmode`.PMODE: false PENNY, true E4M3S256 (R60). A NaN gives the zero code with NV. -/
def prob (e4m3 : Bool) (v : Val) : Nat × Flags :=
  if e4m3 then
    match v with
    | .nan _ => (0, fNV)
    | w => round .e4m3 (mulFin w 256 1) ⟨.rne, true, 0, 0, 0⟩
  else probPenny v

/-- The value of a probability code (R253 `pval`). -/
def pval (e4m3 : Bool) (c : Nat) : Val :=
  if e4m3 then mulFin (decode .e4m3 c) 1 256 else decodePenny c

/-- Conversion of a real to LG6 (R57, R67). -/
def toLg6 (v : Val) (sat : Bool) : Nat × Flags :=
  match v with
  | .nan _ => (0, fNV)
  | .inf neg => ((if neg then 32 else 0) + 31, if sat then fSATF else fNV)
  | .fin neg n d =>
    let s := if neg then 32 else 0
    if n = 0 then (s, 0)
    else
      -- the integer nearest 16 + log2((n/d)^4): floor of log2 of (n/d)^8 · 2, halved
      let m : Int := 16 + (log2Rat (Nat.pow n 8 * 2) (Nat.pow d 8)) / 2
      if m < 1 then (s, fUF ||| fNX)
      else if 31 < m then (s + 31, if sat then fSATF ||| fNX else fOF ||| fNX)
      else
        let code := s + m.toNat
        (code, if vcmp (decodeLg6 code) v = .eq then 0 else fNX)

/-- The least and greatest values of an integer type. -/
def intMin (t : Ty) : Int := if isSigned t then -(pow2 (tyWidth t - 1) : Int) else 0
def intMax (t : Ty) : Int :=
  if isSigned t then (pow2 (tyWidth t - 1) : Int) - 1 else (pow2 (tyWidth t) : Int) - 1

/-- `wrap(x, w)` as the w-bit pattern (R70). -/
def wrapBits (x : Int) (w : Nat) : Nat := (x % (pow2 w : Int)).toNat

/-- An integer result: wrapped, or clamped to the type's range with SATF when the clamp changes it (R70). -/
def intResult (t : Ty) (sat : Bool) (x : Int) : Nat × Flags :=
  if sat then
    if x < intMin t then (wrapBits (intMin t) (tyWidth t), fSATF)
    else if intMax t < x then (wrapBits (intMax t) (tyWidth t), fSATF)
    else (wrapBits x (tyWidth t), 0)
  else (wrapBits x (tyWidth t), 0)

/-- The integer nearest a finite value under the rounding mode, and whether it differs from the value (R69). -/
def nearestInt (neg : Bool) (n d : Nat) (r : Rnd) : Int × Bool :=
  let q := n / d
  let rem := n % d
  let m := if rem = 0 then q else if pickUpper r neg (decide (q % 2 = 1)) rem d then q + 1 else q
  (if neg then -(m : Int) else (m : Int), !decide (rem = 0))

/-- Conversion of a floating-point value to an integer type (R69): rounding raises NX whether or not the integer is in
range. -/
def toInt (t : Ty) (v : Val) (r : Rnd) : Nat × Flags :=
  let out : Flags := if r.sat then fSATF else fNV
  match v with
  | .nan _ => (0, fNV)
  | .inf true => (wrapBits (intMin t) (tyWidth t), out)
  | .inf false => (wrapBits (intMax t) (tyWidth t), out)
  | .fin neg n d =>
    let q := nearestInt neg n d r
    let nx : Flags := if q.2 then fNX else 0
    if q.1 < intMin t then (wrapBits (intMin t) (tyWidth t), out ||| nx)
    else if intMax t < q.1 then (wrapBits (intMax t) (tyWidth t), out ||| nx)
    else (wrapBits q.1 (tyWidth t), nx)

end Sys2Proof.Machine
end

