-- ==== Sys2Proof/Machine/Flags.lean ====
section
/-! DEFINITION. `fmode`: rounding mode, sticky flags and their traps (spec/01_hart.md R35, R36), and the rounding inputs of
an instruction (spec/03_encoding.md R82, spec/02_number_formats.md R64). -/

namespace Sys2Proof.Machine

/-- The rounding mode of a code; `fmode`.RM never holds 6 or 7 (R35). -/
def rmOfCode : Nat → RMode
  | 0 => .rne | 1 => .rtz | 2 => .rdn | 3 => .rup | 4 => .rmm | _ => .sr

def Hart.rmode (x : Hart) : RMode := rmOfCode (x.conf.fmode.toNat % 8)

/-- PMODE: true for E4M3S256. -/
def Hart.pmode (x : Hart) : Bool := x.conf.fmode.getLsbD 3

/-- The mode in effect: static, or `fmode`.RM (R82). -/
def State.rmEff (s : State) (rms : Option RMode) : RMode := rms.getD s.hart.rmode

/-- The rounding inputs with the hart's seed (R64, R65). -/
def State.rnd (s : State) (rms : Option RMode) (sat : Bool) (idx tag : Nat) : Rnd :=
  ⟨s.rmEff rms, sat, s.hart.conf.srseed.toNat, idx, tag⟩

/-- Set sticky flags. -/
def Hart.setFlags (x : Hart) (f : Flags) : Hart :=
  { x with conf := { x.conf with fmode := x.conf.fmode ||| (f.zeroExtend 16 <<< 4) } }

/-- The flags raised whose trap enable is 1. -/
def Hart.trapping (x : Hart) (f : Flags) : Flags := f &&& (x.conf.fmode >>> 10).truncate 6

/-- The highest-numbered flag of a set. -/
def topFlag (f : Flags) : Nat := if f = 0 then 0 else Nat.log2 f.toNat

/-- Set the flags an element or a scalar operation raises; an enabled one stops it with FPX (R36). -/
def flagStop (s : State) (f : Flags) : Eff State :=
  let s' := s.putHart (s.hart.setFlags f)
  if s.hart.trapping f = 0 then .ok s' else raise s' (tFpx (topFlag (s.hart.trapping f)))

end Sys2Proof.Machine
end

