-- ==== Sys2Proof/Machine/Loop.lean ====
section
/-! DEFINITION. Instructions that count in `vsi` (spec/01_hart.md R26, R27): the loop over their indices, with the stop at a
trap, at a wait, or for an interrupt; and acting for a hart other than the current one. -/

namespace Sys2Proof.Machine

open Host (Outcome)

/-- The same stop, with `vsi` at index `e` (R27). -/
def Stop.atIndex (e : Nat) : Stop → Stop
  | .trap s t => .trap (s.setVsi e) t
  | .wait s h => .wait (s.setVsi e) h

/-- The rows that a stalled update or drain keeps (R200, R202): all of them, but for a row whose landing it waits for. -/
def keptRows (rows : BitVec 48) : Hold → BitVec 48
  | .landed _ r _ => rows &&& ~~~ BitVec.ofNat 48 (pow2 r)
  | _ => rows

/-- The same stop, where a wait keeps the place: the execution that began at index `k` goes on after it, and holds `rows`. -/
def Stop.keep (k : Nat) (rows : BitVec 48) : Stop → Stop
  | .wait s h => .wait (s.putHart { s.hart with begun := some ⟨k, s.mults⟩, kept := keptRows rows h }) h
  | x => x

/-- The execution that began is over. -/
def endBegun (s : State) : State := s.putHart { s.hart with begun := none, kept := 0 }

/-- Perform `n` indices from `e` on. -/
def runSteps (body : Nat → State → Eff State) : Nat → Nat → State → Eff State
  | 0, _, s => .ok s
  | n + 1, e, s =>
    match body e s with
    | .ok t => runSteps body n (e + 1) t
    | .error x => .error (x.atIndex e)

/-- An instruction that counts: its index limit, the granule at which an interrupt may stop it (R154), the index at which a
stop asked for at an index comes, what each index does, and what completion adds. -/
structure Loop where
  limit : Nat
  gran : Nat
  seek : Nat → Nat
  body : Nat → State → Eff State
  last : State → Eff State

/-- The first index, from `lo` on, of the group of index `e` (R154). -/
def groupStart (gran lo e : Nat) : Nat := Nat.max lo (e / gran * gran)

/-- The index at which the indices of this execution end: the limit, or a requested stop (R45, R154). -/
def stopIndex (s : State) (limit gran : Nat) (seek : Nat → Nat) : Nat :=
  match s.hart.stopAt with
  | some k => Nat.min limit (seek (groupStart gran s.vsi k))
  | none => limit

/-- Give up a requested stop. -/
def clearStop (s : State) : State := s.putHart { s.hart with stopAt := none }

/-- A stop of a loop that began at `s`: a wait for a landed bit leaves it at the start of the group it has not wholly written
(R154), any other stop where it arose. -/
def stallGroupwise (s : State) (l : Loop) : Stop → Stop
  | .wait t (.landed c r p) =>
    let g := groupStart l.gran s.vsi t.vsi
    match runSteps l.body (g - s.vsi) s.vsi s with
    | .ok u => .wait (u.setVsi g) (.landed c r p)
    | .error x => x
  | x => x

/-- Run a loop from `vsi` and complete the instruction of `n` bytes with `vsi` = 0; `rows` are those that it holds while it
stalls. An instruction that begins at or above its limit only completes (R26); one that a stop ends stays at that index, for
the interrupt to be taken. -/
def runLoop (s : State) (l : Loop) (rows : BitVec 48) (n : Nat) : Eff State :=
  if l.limit ≤ s.vsi then done ((endBegun s).setVsi 0) n
  else
    let stop := stopIndex s l.limit l.gran l.seek
    match runSteps l.body (stop - s.vsi) s.vsi s with
    | .error x => .error ((stallGroupwise s l x).keep s.first rows)
    | .ok t =>
      if stop < l.limit then .error ((Stop.wait (clearStop (t.setVsi stop)) .none).keep s.first rows)
      else
        match l.last t with
        | .error x => .error x
        | .ok t => done ((endBegun t).setVsi 0) n

/-- No effect beyond the indices. -/
def noLast (s : State) : Eff State := .ok s

/-- Act as hart `h`, and give the turn back. -/
def onHart (h : Nat) (f : State → Eff State) (s : State) : Outcome State Fault Refusal :=
  match finish (f { s with cur := h }) with
  | .next t => .next { t with cur := s.cur }
  | .fault x => .fault x
  | .refused x => .refused x

end Sys2Proof.Machine
end

