-- ==== Sys2Proof/Machine/Operands.lean ====
section
/-! DEFINITION. Operands of the vector and Square instructions: elements and their places in the Square (spec/01_hart.md
R21 to R23), masks, second operands (spec/05_vector.md R152), poison and landed bits (R156, R157), and the programs that
standalone instructions and convoy slots run. -/

namespace Sys2Proof.Machine

open Host (Outcome)

/-- Square column of lane `i` of logical cluster `j` (R23). -/
def laneCol (g : BitVec 8) (j i : Nat) : Nat := 16 * ((clustersOf g).getD j 0) + i

/-- Logical lane of element `e` at width `ew`. -/
def laneOf (ew e : Nat) : Nat := e / (64 / ew)

/-- Physical cluster of element `e`. -/
def elemCluster (g : BitVec 8) (ew e : Nat) : Nat := (clustersOf g).getD (laneOf ew e / 16) 0

/-- Square column of element `e`. -/
def elemCol (g : BitVec 8) (ew e : Nat) : Nat := laneCol g (laneOf ew e / 16) (laneOf ew e % 16)

/-- Low bit of element `e` in its cell. -/
def elemShift (ew e : Nat) : Nat := ew * (e % (64 / ew))

/-- The bits of element `e` of row `row` of the current hart. -/
def elemAt (s : State) (row ew e : Nat) : Nat :=
  (cell s (coreOf s.cur) row (elemCol s.hart.grant ew e)).toNat / pow2 (elemShift ew e) % pow2 ew

/-- The cell of an element carries a poison mark. -/
def elemMarked (s : State) (row ew e : Nat) : Bool := cellMark s (coreOf s.cur) row (elemCol s.hart.grant ew e)

/-- The group of an element is landed, or the instruction stalls (R156). -/
def elemLanded (s : State) (row ew e : Nat) : Eff Unit :=
  let p := elemCluster s.hart.grant ew e
  if unlanded s (coreOf s.cur) row p then stallGroup s row p else .ok ()

/-- Read a source element: it waits until its group is landed and raises POISON when its cell is marked (R156, R157). DEDUCED:
VALUE holds the index of the element read, which for a slide or a gather is the source's (log 87). -/
def srcElem (s : State) (row ew e : Nat) : Eff Nat := do
  elemLanded s row ew e
  if elemMarked s row ew e then raise s (tPoisonReg row e) else .ok (elemAt s row ew e)

/-- `w` bits of a word from bit `sh` on, replaced. -/
def replaceBits (old : Word) (sh w v : Nat) : Word :=
  wordOf (old.toNat - old.toNat / pow2 sh % pow2 w * pow2 sh + v % pow2 w * pow2 sh)

/-- The byte extent of a register write under the configuration in effect (R33, R34). -/
def writeExtent (s : State) : Nat := s.vl * s.ew / 8

/-- Write the bits of element `e` of row `row`; `whole` clears the cell's mark (R157). `hwm` follows (R34). -/
def putElem (s : State) (row ew e v : Nat) (whole : Bool) : State :=
  let c := coreOf s.cur
  let col := elemCol s.hart.grant ew e
  let s := setCell s c row col (replaceBits (cell s c row col) (elemShift ew e) ew v)
  let s := if whole then setCellMark s c row col false else s
  s.putHart (s.hart.noteWrite row (writeExtent s))

/-- Element `e` completes the writing of its cell: it is the last sub-slot, and every sub-slot is one of the elements from
`lo` on for which `p` holds. -/
def cellWhole (lo ew : Nat) (p : Nat → Bool) (e : Nat) : Bool :=
  let n := 64 / ew
  decide (e % n = n - 1) && decide (lo ≤ e + 1 - n) && (List.range n).all (fun i => p (e + 1 - n + i))

/-- `active(e)` of R153 for a mask field. -/
def Hart.active (x : Hart) (mask : BitVec 4) (e : Nat) : Bool :=
  decide (mask = 0) || (x.rM (mask.toNat - 1)).getLsbD e

/-- Bit `e` of mask register `k`. -/
def State.mbit (s : State) (k e : Nat) : Bool := (s.hart.rM k).getLsbD e

/-- Write bit `e` of mask register `k`. -/
def State.setMbit (s : State) (k e : Nat) (b : Bool) : State :=
  let bit := BitVec.ofNat 1024 (pow2 e)
  s.putHart (s.hart.wM k (if b then s.hart.rM k ||| bit else s.hart.rM k &&& ~~~ bit))

/-- The signed immediate of a VI form. -/
def immInt (imm : BitVec 17) : Int := sxNat imm.toNat 17

/-- The exact value of a floating-point immediate (R152). -/
def immVal (imm : BitVec 17) : Val := decode .bf16 (imm.toNat % 65536)

/-- Bits of a scalar operand read as TA (R152). -/
def scalarBits (s : State) (t : Ty) (r : SReg) : Nat :=
  (if isFloat t then (s.rF r).toNat else (s.rS r).toNat) % pow2 (tyWidth t)

/-- `opnd(e)` as bits of TA; an immediate of a floating-point TA is converted (R152). -/
def opndBits (s : State) (o : VOp) (e : Nat) : Eff Nat :=
  match o.src with
  | .vr vb _ _ => if o.mod0 then .ok (scalarBits s o.ta o.ss) else srcElem s vb.toNat (tyWidth o.ta) e
  | .vi imm =>
    .ok (if isFloat o.ta then (round o.ta (immVal imm) ⟨.rne, false, 0, 0, 0⟩).1 else wrapBits (immInt imm) (tyWidth o.ta))

/-- `opnd(e)` as an exact value (R152). -/
def opndVal (s : State) (o : VOp) (e : Nat) : Eff Val :=
  match o.src with
  | .vi imm => if isFloat o.ta then .ok (immVal imm) else .ok (decode o.ta (wrapBits (immInt imm) (tyWidth o.ta)))
  | .vr _ _ _ => (opndBits s o e).map (decode o.ta)

/-- The work of a vector instruction: a loop over indices, or one single step (R154) that acts when `vsi` is below the
limit. -/
inductive VBody where
  | loop (f : State → Loop)
  | single (limit : State → Nat) (f : State → Eff State)

/-- The part of a register that an index of an instruction uses: element `e` at `vew`, element `e` at a width of its own, the
whole register for index `i` alone, or the whole register for every index. -/
inductive Touch where
  | elem
  | narrow (w : Nat)
  | row (i : Nat)
  | whole
  deriving DecidableEq, Repr

/-- A vector, Square or attention instruction: its decode-time rules that depend on the state, the rows and masks it reads
and writes (R87, R200), whether a VPERM form is an in-order reader, its issue-time checks, its work, and whether it keeps its
rows while it stalls, as updates and drains do (R200, R202). For a convoy that stops it also says which part of a register an
index reads or writes, by the register's key (rows at their number, masks from 48 on), the bytes that an index reads or
writes (whether it writes, the address, the length), and the registers that hold addresses. -/
structure VProg where
  legal : State → Bool
  rd : List Nat
  wr : List Nat
  mrd : List Nat
  mwr : List Nat
  inOrder : Bool
  issue : State → Eff Unit
  body : VBody
  keeps : Bool := false
  rdTouch : Nat → Touch := fun _ => .elem
  wrTouch : Nat → Touch := fun _ => .elem
  mem : State → Nat → List (Bool × Nat × Nat) := fun _ _ => []
  addrKeys : List Nat := []

/-- No issue-time check. -/
def noIssue (_ : State) : Eff Unit := .ok ()

/-- Wait until no listed row is busy with an update or drain of the hart (R200). -/
def rowsFree (s : State) (rows : List Nat) : Eff Unit :=
  let busy := rows.filter s.hart.busyRow
  if busy.isEmpty then .ok ()
  else waitFor s (.rows (busy.foldl (fun acc r => acc ||| BitVec.ofNat 48 (pow2 r)) 0))

/-- A set of rows. -/
def rowMask (l : List Nat) : BitVec 48 := l.foldl (fun acc r => acc ||| BitVec.ofNat 48 (pow2 r)) 0

/-- The rows that a stalled instruction keeps (R202). -/
def VProg.kept (p : VProg) : BitVec 48 := if p.keeps then rowMask (p.rd ++ p.wr) else 0

/-- Run the work of an instruction of `n` bytes that keeps `rows` while it stalls. -/
def runBody (b : VBody) (rows : BitVec 48) (s : State) (n : Nat) : Eff State :=
  match b with
  | .loop f => runLoop s (f s) rows n
  | .single limit f =>
    if limit s ≤ s.vsi then done (s.setVsi 0) n
    else (f s).bind (fun t => done (t.setVsi 0) n)

/-- A standalone instruction of majors 0x31 to 0x39 (R25, R85). -/
def execV (i : Instr) (p : VProg) (s : State) : Outcome State Fault Refusal :=
  finish (do
    computeOnly s i
    need (p.legal s) s (tIllegal (instrBits i))
    need (!decide (s.hart.grant = 0)) s (tNolease (instrBits i))
    rowsFree s (p.rd ++ p.wr)
    p.issue s
    runBody p.body p.kept s 8)

/-- The mask registers that a governing mask field reads (R158). -/
def maskReads (m : BitVec 4) : List Nat := if m = 0 then [] else [m.toNat - 1]

/-- The row of VB where a form reads it (R152). -/
def vbReads (o : VOp) : List Nat :=
  match o.src with
  | .vr vb _ _ => if o.mod0 then [] else [vb.toNat]
  | .vi _ => []

/-- The width of TA equals `vew` (R150). -/
def widthLegal (t : Ty) (s : State) : Bool := decide (tyWidth t = s.ew)

/-- The wider of two widths equals `vew` (R151). -/
def widerLegal (a b : Nat) (s : State) : Bool := decide (Nat.max a b = s.ew)

/-- The element loop of R153 at destination width `ew`: `f` performs an active element. -/
def elemLoop (mask : BitVec 4) (ew : Nat) (f : Nat → State → Eff State) : VBody :=
  .loop (fun s => ⟨s.vl, 1024 / ew, id, fun e s => if s.hart.active mask e then f e s else .ok s, noLast⟩)

/-- Write the result of element `e` of VD with its flags; an enabled flag stops it (R36). The cell counts as wholly
written when every sub-slot of it is active and was performed by this execution. -/
def putResult (o : VOp) (ew e v : Nat) (f : Flags) (s : State) : Eff State := do
  let s ← flagStop s f
  .ok (putElem s o.vd.toNat ew e v (cellWhole s.first ew (fun k => s.hart.active o.mask k) e))

/-- An element-wise instruction that reads `rd` and writes VD at TA's width: `f` forms the result bits and flags. -/
def mapProg (o : VOp) (rd : List Nat) (f : Nat → State → Eff (Nat × Flags)) : VProg where
  legal := widthLegal o.ta
  rd := rd
  wr := [o.vd.toNat]
  mrd := maskReads o.mask
  mwr := []
  inOrder := false
  issue := noIssue
  body := elemLoop o.mask (tyWidth o.ta) (fun e s => do
    let r ← f e s
    elemLanded s o.vd.toNat (tyWidth o.ta) e
    putResult o (tyWidth o.ta) e r.1 r.2 s)

end Sys2Proof.Machine
end

