-- ==== Sys2Proof/Machine/VaultMem.lean ====
section
/-! DEFINITION. Vault vector memory, major 0x36 (spec/05_vector.md R174 to R181; spec/12_quad.md R287 to R293 for
SPACE 1). -/

namespace Sys2Proof.Machine

open Host (Outcome)

/-- `vspace`.SPACE. -/
def State.space (s : State) : Nat := s.hart.conf.space.toNat

/-- LFAULT or SFAULT. -/
def memFault (st : Bool) (sub : Nat) (v : Word) : TrapInfo := if st then tSfault sub v else tLfault sub v

/-- The window checks of a SPACE 2 access (R175): at S and U only Vault and Square windows are reached. DEDUCED: a hole of
Plaza gives SUB 0 at every level, though at S and U it also lies outside every Vault and Square window (log 88). -/
def plazaSub (s : State) (st : Bool) (pa n : Nat) : Option Nat :=
  let acc : Acc := if st then .write else .read
  if s.hart.level = .m then windowSub s .m s.hart.asid acc pa n
  else
    match regionOf pa with
    | .vault _ _ | .square _ _ _ _ | .hole => windowSub s s.hart.level s.hart.asid acc pa n
    | _ => some 1

/-- The physical address of an access of `n` bytes at element address `a`, aligned to `al`, with the checks of R175 in
their order. -/
def resolve (s : State) (st : Bool) (al n : Nat) (a : Int) : Eff Nat :=
  let v := wordOfInt a
  let c := coreOf s.cur
  if !decide (a % (al : Int) = 0) then raise s (tMisalign v)
  else if s.space = 0 then
    if 0 ≤ a ∧ a.toNat + n ≤ vaultBytes then .ok (vaultPa c a.toNat) else raise s (memFault st 0 v)
  else if s.space = 1 then
    let t := c / 4 * 4 + a.toNat / vaultBytes
    if 0 ≤ a ∧ a.toNat < 4 * vaultBytes ∧ coreDead s t = false then .ok (vaultPa t (a.toNat % vaultBytes))
    else raise s (memFault st 0 v)
  else if 0 ≤ a ∧ a.toNat < pow2 32 then
    let pa := s.hart.conf.wbase.toNat * 65536 + a.toNat
    match plazaSub s st pa n with
    | some sub => raise s (memFault st sub v)
    | none => .ok pa
  else raise s (memFault st 0 v)

/-! Access counts -/

/-- Add to a counter of a core's control window. -/
def addCount (s : State) (pa n : Nat) : State := setReg s pa (rawReg s pa + wordOf n)

/-- An element of width `w` at local offset `a` lies in its own lane's word of its own cluster's region (R214). -/
def inLaneWord (g : BitVec 8) (w e : Nat) (a : Int) : Bool :=
  decide (0 ≤ a) && decide (a.toNat / pow2 21 = elemCluster g w e) && decide (a.toNat % 128 / 8 = laneOf w e % 16)

/-- Rounds in which a target serves elements at the given byte addresses (R290): per bank of a region, its distinct
words. -/
def packetRounds (addrs : List Nat) : Nat :=
  let words := (addrs.map (fun a => a / 8)).eraseDups
  (words.map (fun w => (words.filter (fun u => decide (u / pow2 18 = w / pow2 18) && decide (u % 128 = w % 128))).length)).foldl
    Nat.max 0

/-- Count a packet that a core's Vault serves, and its rounds beyond the first (R290, R292). -/
def countServed (s : State) (core : Nat) (offs : List Nat) : State :=
  addCount (addCount s (ctlPa core 0x108) 1) (ctlPa core 0x110) (packetRounds offs - 1)

/-! Groups and their packets (R181, R287, R299) -/

/-- The accesses of an instruction: whether it stores, the element width, the addresses, the active elements, those at which it
stops (which the checks of R175 refuse, and for a store those whose data is marked), and the range of addresses that an
element writes or fills. -/
structure Traffic where
  st : Bool
  w : Nat
  addr : Nat → Int
  act : Nat → Bool
  fails : Nat → Bool
  span : Nat → Nat × Nat

def Traffic.group (x : Traffic) (e : Nat) : Nat := e / (1024 / x.w)

/-- The core of the quad that element `e` reaches. -/
def Traffic.target (x : Traffic) (e : Nat) : Nat := (x.addr e).toNat / vaultBytes

/-- The active elements of a group that this execution performs (R287): those below the first at which it stops. -/
def Traffic.members (x : Traffic) (stops : Nat → Bool) (j : Nat) (s : State) : List Nat :=
  (((List.range (1024 / x.w)).map (fun i => j * (1024 / x.w) + i)).filter
    (fun k => decide (s.first ≤ k) && decide (k < s.vl) && x.act k)).takeWhile (fun k => !stops k)

/-- The error that the packet of a group for a target meets. -/
def errAt (target group : Nat) (s : State) : PacketError :=
  match s.hart.exch with
  | some x => if s.space = 1 ∧ x.target = target ∧ x.group = group then x.err else .none
  | none => .none

def Traffic.err (x : Traffic) (e : Nat) (s : State) : PacketError := errAt (x.target e) (x.group e) s

/-- The elements of the packet of element `e` (R287). -/
def Traffic.packet (x : Traffic) (e : Nat) (s : State) : List Nat :=
  (x.members x.fails (x.group e) s).filter (fun k => decide (x.target k = x.target e))

/-- Count the access of element `e` when it is made: `VHACC` once per line that a group with an element out of its lane word
touches (R181, R216), and under SPACE 1, with the group's first element, the `QXPKT` and `QXCONF` of every packet of the group
(R287, R292); a store stops below a packet that is discarded, a load's other packets leave. DEDUCED (log 35): R214 speaks of a
group's access to one line and R181 of a group, so a group counts every distinct line it touches as soon as one of its
elements is out of its lane word, and none otherwise. -/
def Traffic.count (x : Traffic) (e : Nat) (s : State) : State :=
  let lost := fun k => decide (x.err k s = .header)
  let members := x.members (fun k => x.fails k || (x.st && lost k)) (x.group e) s
  if s.space = 0 then
    if members.any (fun k => !inLaneWord s.hart.grant x.w k (x.addr k))
        && !(members.filter (fun k => decide (k < e))).any (fun k => decide (x.addr k / 128 = x.addr e / 128)) then
      addCount s (ctlPa (coreOf s.cur) 0x100) 1
    else s
  else if s.space = 1 ∧ members.head? = some e then
    (List.range 4).foldl (fun t q =>
      let mine := members.filter (fun k => decide (x.target k = q) && !lost k)
      if mine.isEmpty then t else countServed t (coreOf s.cur / 4 * 4 + q) (mine.map (fun k => (x.addr k).toNat))) s
  else s

/-- The error has been met. -/
def endExchange (s : State) : State := s.putHart { s.hart with exch := none }

/-- The packet of element `e` leaves: it is counted, or is discarded by an error in its header, and the instruction then
stops at the packet's lowest element (R293, R299). The hart reports the loss at its next turn. -/
def Traffic.leave (x : Traffic) (e : Nat) (s : State) : Eff State :=
  if x.err e s = .header then
    waitFor (x.count e s) (.exchange (x.target e) (x.group e) (x.w / 8)
      ((x.packet e s).map (fun k => (x.addr k).toNat % vaultBytes)))
  else .ok (x.count e s)

/-- After element `e`: an error in the data of its packet is recorded with the packet's first element (R319), and is over with
the group's last. -/
def Traffic.arrive (x : Traffic) (e : Nat) (s : State) : State :=
  let t := if x.err e s = .data ∧ (x.packet e s).head? = some e then
      exchangeSpoilt s s.cur (x.target e) (x.group e) ((x.packet e s).map x.span)
    else s
  if s.hart.exch.any (fun q => decide (q.group = x.group e)) && decide (s.space = 1)
      && decide ((x.members x.fails (x.group e) s).getLast? = some e) then endExchange t else t

/-! Element accesses -/

/-- How a form addresses its elements: whether it is unit-stride, takes and fills lines (FE), the address of element `e`, and
its index register with the width of an index. -/
structure MemForm where
  unit : Bool
  fe : Bool
  addr : State → Nat → Int
  idx : Option (Nat × Nat)

def memBytes (o : VOp) : Nat := tyWidth o.ta / 8

def memBase (s : State) (o : VOp) : Int := ((s.rS o.ss).toNat : Int)

/-- off of R174: 0 in the VR forms. -/
def memOff (o : VOp) : Int :=
  match o.src with | .vi imm => immInt imm | .vr _ _ _ => 0

def unitForm (o : VOp) : MemForm where
  unit := true
  fe := o.mod0
  addr := fun s e => memBase s o + memOff o + (e * memBytes o : Nat)
  idx := none

def strideForm (o : VOp) : MemForm where
  unit := false
  fe := false
  addr := fun s e => memBase s o + (e : Int) * memOff o
  idx := none

def indexForm (o : VOp) : MemForm where
  unit := false
  fe := false
  addr := fun s e => memBase s o + (elemAt s o.vb (tyWidth o.tb) e : Nat)
  idx := some (o.vb, tyWidth o.tb)

/-- The index of element `e` has arrived (R156). -/
def MemForm.landed (f : MemForm) (s : State) (e : Nat) : Eff Unit :=
  match f.idx with
  | none => .ok ()
  | some (row, w) => elemLanded s row w e

/-- The index of element `e` is not marked. An address fault goes before the POISON of the index (R44, R157). -/
def MemForm.clean (f : MemForm) (s : State) (e : Nat) : Eff Unit :=
  match f.idx with
  | none => .ok ()
  | some (row, w) => if elemMarked s row w e then raise s (tPoisonReg row e) else .ok ()

/-- Element `e` is the last active one of its line in a unit-stride access (R178). -/
def lastOfLine (o : VOp) (f : MemForm) (s : State) (e : Nat) : Bool :=
  (List.range (128 / memBytes o)).all (fun i =>
    !(decide (e + 1 + i < s.vl) && s.hart.active o.mask (e + 1 + i)
      && decide (f.addr s (e + 1 + i) / 128 = f.addr s e / 128)))

/-- The unit-stride access has written all 128 bytes of the line that ends with element `e` (R316). -/
def coversLine (o : VOp) (f : MemForm) (s : State) (e : Nat) : Bool :=
  f.unit && decide ((f.addr s e + (memBytes o : Int)) % 128 = 0)
    && decide (s.first + 128 / memBytes o ≤ e + 1)
    && (List.range (128 / memBytes o)).all (fun i => s.hart.active o.mask (e - i))

/-- Bytes written to a Vault line whose bit stays as it is (R178). -/
def putVaultBytes (s : State) (c off : Nat) : List Byte → State
  | [] => s
  | b :: r => putVaultBytes (setVaultByte s c off b) c (off + 1) r

/-- A future fill (R349): CEFF unless the line lies in the region of a cluster that the hart holds. -/
def noteFill (s : State) (off : Nat) : State :=
  if s.hart.grant.getLsbD (off / pow2 21) then s
  else s.putHart { s.hart with stat := { s.hart.stat with ceff := true } }

/-- The checks of R175 refuse element `e`. -/
def elemFails (o : VOp) (f : MemForm) (st : Bool) (s : State) (e : Nat) : Bool :=
  match resolve s st (memBytes o) (memBytes o) (f.addr s e) with
  | .ok _ => false
  | .error _ => true

/-- The accesses of a form (R287, R299). -/
def memTraffic (o : VOp) (f : MemForm) (st : Bool) (s : State) : Traffic where
  st := st
  w := tyWidth o.ta
  addr := f.addr s
  act := s.hart.active o.mask
  fails := fun e => elemFails o f st s e || (st && elemMarked s o.vd.toNat (tyWidth o.ta) e)
    || f.idx.any (fun q => elemMarked s q.1 q.2 e)
  span := fun e =>
    if st then
      let a := vaultPa (coreOf s.cur / 4 * 4 + (f.addr s e).toNat / vaultBytes) ((f.addr s e).toNat % vaultBytes) / 128 * 128
      (a, a + 128)
    else
      let a := squarePa (coreOf s.cur) o.vd.toNat (elemCol s.hart.grant (tyWidth o.ta) e)
      (a, a + 8)

/-- Element `e` of a load. An error in the data of its response marks the cell that it fills (R299). -/
def loadElem (o : VOp) (f : MemForm) (e : Nat) (s : State) : Eff State := do
  let w := tyWidth o.ta
  let n := memBytes o
  let x := memTraffic o f false s
  f.landed s e
  let pa ← resolve s false n n (f.addr s e)
  f.clean s e
  elemLanded s o.vd.toNat w e
  readReady s pa
  let t ← x.leave e s
  let v ← readAt t pa n
  let good := fun k => !decide (x.err k s = .data)
  let t := putElem t o.vd.toNat w e v (cellWhole s.first w (fun k => x.act k && good k) e)
  let t := x.arrive e (if good e then t else setCellMark t (coreOf s.cur) o.vd.toNat (elemCol s.hart.grant w e) true)
  .ok (if f.fe && lastOfLine o f s e then setLineEmpty t (coreOf s.cur) (f.addr s e).toNat true else t)

/-- Element `e` of a store. An error in the data of its packet marks the line that it writes (R299). -/
def storeElem (o : VOp) (f : MemForm) (e : Nat) (s : State) : Eff State := do
  let w := tyWidth o.ta
  let n := memBytes o
  let c := coreOf s.cur
  let x := memTraffic o f true s
  let a := (f.addr s e).toNat
  f.landed s e
  let pa ← resolve s true n n (f.addr s e)
  f.clean s e
  let v ← srcElem s o.vd.toNat w e
  let t ← x.leave e s
  let t ← if f.fe then
      (if !lineReadsEmpty s c a then stallLine s c a false
      else
        let t := putVaultBytes t c a (bytesOfNat n v)
        .ok (if lastOfLine o f s e then noteFill (setLineEmpty t c a false) a else t))
    else do
      writeReady s pa
      .ok (storeAt t pa n v)
  let t := x.arrive e (if x.err e s = .data then setMarkAt t pa true else t)
  .ok (if !decide (s.space = 1) && (match regionOf pa with | .vault _ _ => true | _ => false) && coversLine o f s e then
      setMarkAt t pa false else t)

/-- The index at which a stop asked for at `k` comes: a SPACE 1 load stops at the lowest active element that it has not
performed (R293). -/
def memSeek (o : VOp) (st : Bool) (s : State) (k : Nat) : Nat :=
  if s.space = 1 ∧ st = false then
    (((List.range (s.vl - k)).map (fun i => k + i)).find? (fun e => s.hart.active o.mask e)).getD s.vl
  else k

/-- A Vault load or store of R174: `idx` is the index register, if any. A SPACE 1 store stops between groups (R293). -/
def memProg (o : VOp) (st : Bool) (legal : State → Bool) (idx : List Nat) (f : MemForm) : VProg where
  legal := fun s => legal s && (!f.fe || decide (s.space = 0))
  rd := if st then o.vd.toNat :: idx else idx
  wr := if st then [] else [o.vd.toNat]
  mrd := maskReads o.mask
  mwr := []
  inOrder := false
  issue := noIssue
  body := .loop (fun s => ⟨s.vl, if st ∧ s.space = 1 then 1024 / tyWidth o.ta else 1, memSeek o st s, fun e s =>
    if s.hart.active o.mask e then (if st then storeElem o f e s else loadElem o f e s) else .ok s, noLast⟩)
  rdTouch := fun k =>
    if idx.contains k then (if st ∧ k = o.vd.toNat then .elem else .narrow (tyWidth o.tb))
    else if k < 48 then .narrow (tyWidth o.ta) else .elem
  wrTouch := fun _ => .narrow (tyWidth o.ta)
  mem := fun s e =>
    if s.hart.active o.mask e then
      match resolve s st (memBytes o) (memBytes o) (f.addr s e) with
      | .ok pa => [if f.fe then (true, pa / 128 * 128, 128) else (st, pa, memBytes o)]
      | .error _ => []
    else []
  addrKeys := idx

def progVld (o : VOp) : VProg := memProg o false (widthLegal o.ta) [] (unitForm o)
def progVst (o : VOp) : VProg := memProg o true (widthLegal o.ta) [] (unitForm o)
def progVlds (o : VOp) : VProg := memProg o false (widthLegal o.ta) [] (strideForm o)
def progVsts (o : VOp) : VProg := memProg o true (widthLegal o.ta) [] (strideForm o)

def progVldx (o : VOp) : VProg :=
  memProg o false (widerLegal (tyWidth o.ta) (tyWidth o.tb)) [o.vb] (indexForm o)

def progVstx (o : VOp) : VProg :=
  memProg o true (widerLegal (tyWidth o.ta) (tyWidth o.tb)) [o.vb] (indexForm o)

/-! Segments -/

/-- The VC field. -/
def segVc (o : VOp) : Nat := o.g1

/-- Whether elements take 4 bits, the offset of the scale bytes and their number (R63). -/
def segNarrow (t : Ty) : Bool := decide (segBytes t = 24)
def segScaleAt (t : Ty) : Nat := if segNarrow t then 16 else 32
def segScales (t : Ty) : Nat := if blockLen t = 8 then 4 else 1

def segAddr (s : State) (o : VOp) (k : Nat) : Int := memBase s o + (k * segBytes o.ta : Nat)

/-- The address of the byte that holds element `e`. -/
def segElemAddr (s : State) (o : VOp) (e : Nat) : Int :=
  segAddr s o (e / 32) + ((if segNarrow o.ta then e % 32 / 2 else e % 32) : Nat)

/-- The physical addresses of the 8-byte parts of segment `k`, with its checks. -/
def segParts (s : State) (o : VOp) (st : Bool) (k : Nat) : Eff (List Nat) := do
  let n := segBytes o.ta
  let a := segAddr s o k
  let idx := List.range (n / 8)
  if s.space = 1 then
    let _ ← resolve s st 8 8 a
    let bad := idx.any (fun i => match resolve s st 8 8 (a + ((8 * i : Nat) : Int)) with | .ok _ => false | .error _ => true)
    if bad then raise s (memFault st 0 (wordOfInt a))
    else idx.mapM (fun i => resolve s st 8 8 (a + ((8 * i : Nat) : Int)))
  else
    let pa ← resolve s st 8 n a
    .ok (idx.map (fun i => pa + 8 * i))

/-- The elements of segment `k` below `vl`. -/
def segElems (s : State) (k : Nat) : List Nat :=
  ((List.range 32).map (fun i => 32 * k + i)).filter (fun e => decide (e < s.vl))

def segScaleIdx (o : VOp) (k : Nat) : List Nat := (List.range (segScales o.ta)).map (fun i => segScales o.ta * k + i)

/-- The code of element `e` in a segment held as one number. -/
def segCode (t : Ty) (v e : Nat) : Nat :=
  if segNarrow t then v / pow2 (4 * (e % 32)) % 16 else fieldAt v (e % 32) 1

/-- Every element is readable; their values in order. -/
def srcList (s : State) (row ew : Nat) : List Nat → Eff (List Nat)
  | [] => .ok []
  | e :: es => do
    let v ← srcElem s row ew e
    let r ← srcList s row ew es
    .ok (v :: r)

def landedList (s : State) (row ew : Nat) : List Nat → Eff Unit
  | [] => .ok ()
  | e :: es => do
    elemLanded s row ew e
    landedList s row ew es

/-- The little-endian number of digits of `k` bits. -/
def digits (k : Nat) : List Nat → Nat
  | [] => 0
  | x :: xs => x % pow2 k + pow2 k * digits k xs

/-- The checks refuse the segment of element `e`. -/
def segFails (o : VOp) (st : Bool) (s : State) (e : Nat) : Bool :=
  match segParts s o st (e / 32) with
  | .ok _ => false
  | .error _ => true

/-- The accesses of a segment instruction: a store stops at a segment that holds a marked element or scale. -/
def segTraffic (o : VOp) (st : Bool) (s : State) : Traffic where
  st := st
  w := 8
  addr := segElemAddr s o
  act := fun _ => true
  fails := fun e => segFails o st s e || (st && ((segElems s (e / 32)).any (elemMarked s o.vd.toNat 8)
    || (segScaleIdx o (e / 32)).any (elemMarked s (segVc o) 8)))
  span := fun e =>
    if st then
      let a := (segElemAddr s o e).toNat
      let l := vaultPa (coreOf s.cur / 4 * 4 + a / vaultBytes) (a % vaultBytes) / 128 * 128
      (l, l + 128)
    else
      let a := squarePa (coreOf s.cur) o.vd.toNat (elemCol s.hart.grant 8 e)
      (a, a + 8)

/-- The error that a scale byte of segment `k` meets: its address gives the packet of the segment's group that carries it.
DESIGN CHOICE: R287 speaks of elements alone (log 97). -/
def scaleErr (o : VOp) (s : State) (k i : Nat) : PacketError :=
  errAt ((segAddr s o k + ((segScaleAt o.ta + i % segScales o.ta : Nat) : Int)).toNat / vaultBytes) (k / 4) s

/-- The packets of a segment's elements leave; the segment stops where an error in a header discards one of them. -/
def leaveSeg (x : Traffic) : List Nat → State → Eff State
  | [], s => .ok s
  | e :: es, s => do
    let t ← x.leave e s
    leaveSeg x es t

def arriveSeg (x : Traffic) (es : List Nat) (s : State) : State := es.foldl (fun t e => x.arrive e t) s

def loadSeg (o : VOp) (k : Nat) (s : State) : Eff State := do
  let es := segElems s k
  let sc := segScaleIdx o k
  let x := segTraffic o false s
  let ps ← segParts s o false k
  landedList s o.vd.toNat 8 es
  landedList s (segVc o) 8 sc
  partsReady s readReady ps
  let t ← leaveSeg x es s
  let v ← readParts t ps
  let good := fun e => !decide (x.err e s = .data)
  let goodScale := fun i => !decide (scaleErr o s (i / segScales o.ta) i = .data)
  let spoil := fun (ok : Bool) (row e : Nat) (t : State) =>
    if ok then t else setCellMark t (coreOf s.cur) row (elemCol s.hart.grant 8 e) true
  let t := es.foldl (fun t e => spoil (good e) o.vd.toNat e
    (putElem t o.vd.toNat 8 e (segCode o.ta v e) (cellWhole s.first 8 good e))) t
  let t := sc.foldl (fun t i => spoil (goodScale i) (segVc o) i
    (putElem t (segVc o) 8 i (fieldAt v (segScaleAt o.ta + i % segScales o.ta) 1)
      (cellWhole (segScales o.ta * (s.first / 32)) 8 goodScale i))) t
  .ok (arriveSeg x es t)

def storeSeg (o : VOp) (k : Nat) (s : State) : Eff State := do
  let es := segElems s k
  let x := segTraffic o true s
  let ps ← segParts s o true k
  let xs ← srcList s o.vd.toNat 8 es
  let sc ← srcList s (segVc o) 8 (segScaleIdx o k)
  let t ← leaveSeg x es s
  partsReady s writeReady ps
  let v := digits (if segNarrow o.ta then 4 else 8) xs + pow2 (8 * segScaleAt o.ta) * digits 8 sc
  let t := storeParts t v ps
  let spoil := fun (off : Nat) (t : State) => setMarkAt t (ps.getD (off / 8) 0) true
  let t := es.foldl (fun t e =>
    if x.err e s = .data then spoil (segElemAddr s o e - segAddr s o k).toNat t else t) t
  let t := (segScaleIdx o k).foldl (fun t i =>
    if scaleErr o s k i = .data then spoil (segScaleAt o.ta + i % segScales o.ta) t else t) t
  .ok (arriveSeg x es t)

/-- A segment instruction (R180): each step at a multiple of 32 moves one segment. A SPACE 1 store stops between groups
(R293). -/
def segProg (i : Instr) (o : VOp) (st : Bool) : VProg where
  legal := fun s => decide (s.ew = 8)
  rd := if st then [o.vd.toNat, segVc o] else []
  wr := if st then [] else [o.vd.toNat, segVc o]
  mrd := []
  mwr := []
  inOrder := false
  issue := fun s => need (decide (s.vsi % 32 = 0)) s (tIllegal (instrBits i))
  body := .loop (fun s => ⟨s.vl, if st ∧ s.space = 1 then 128 else 32, id, fun e s =>
    if e % 32 = 0 then (if st then storeSeg o (e / 32) s else loadSeg o (e / 32) s) else .ok s, noLast⟩)
  rdTouch := fun k => if k = segVc o then .whole else .elem
  wrTouch := fun k => if k = segVc o then .whole else .elem
  mem := fun s e =>
    if e % 32 = 0 then
      match segParts s o st (e / 32) with
      | .ok ps => ps.map (fun p => (st, p, 8))
      | .error _ => []
    else []

def progVldseg (o : VOp) : VProg := segProg (.vldseg o) o false
def progVstseg (o : VOp) : VProg := segProg (.vstseg o) o true

def execVld (o : VOp) (s : State) : Outcome State Fault Refusal := execV (.vld o) (progVld o) s
def execVst (o : VOp) (s : State) : Outcome State Fault Refusal := execV (.vst o) (progVst o) s
def execVlds (o : VOp) (s : State) : Outcome State Fault Refusal := execV (.vlds o) (progVlds o) s
def execVsts (o : VOp) (s : State) : Outcome State Fault Refusal := execV (.vsts o) (progVsts o) s
def execVldx (o : VOp) (s : State) : Outcome State Fault Refusal := execV (.vldx o) (progVldx o) s
def execVstx (o : VOp) (s : State) : Outcome State Fault Refusal := execV (.vstx o) (progVstx o) s
def execVldseg (o : VOp) (s : State) : Outcome State Fault Refusal := execV (.vldseg o) (progVldseg o) s
def execVstseg (o : VOp) (s : State) : Outcome State Fault Refusal := execV (.vstseg o) (progVstseg o) s

end Sys2Proof.Machine
end

