-- ==== Sys2Proof/Machine/Avenues.lean ====
section
/-! DEFINITION. Avenue instructions, major 0x3B (spec/15_pipelines.md R331 to R338, R346, R348). -/

namespace Sys2Proof.Machine

open Host (Outcome)

/-- What a valid handle names: pipeline slot and avenue of the hart's die (R331). -/
def avOf (s : State) (h : Word) : Option (Nat × Nat) :=
  let k := bits h 15 13
  let a := bits h 12 8
  let p := pipeAt s (dieOf s.cur) k
  if bits h 63 16 = 0 ∧ (p.state = 1 ∨ p.state = 2) ∧ p.gen.toNat = bits h 7 0 ∧ a < p.avs.length then some (k, a)
  else none

def avDesc (s : State) (d k a : Nat) : AvDesc := (pipeAt s d k).avs.getD a ⟨16, 1⟩

/-- RB of R323. -/
def ringBase (p : Pipe) (a : Nat) : Nat :=
  (p.avs.take a).foldl (fun acc v => acc + (v.cap * (v.rsize + 8) + 4095) / 4096 * 4096) p.arena

/-- Where record `i` and its stamp lie (R323). -/
def recordAt (s : State) (d k a i : Nat) : Nat :=
  let v := avDesc s d k a
  ringBase (pipeAt s d k) a + i % v.cap * v.rsize
def stampAt (s : State) (d k a i : Nat) : Nat :=
  let v := avDesc s d k a
  ringBase (pipeAt s d k) a + v.cap * v.rsize + 8 * (i % v.cap)

def avHead (s : State) (d k a : Nat) : Nat := sget 0 s.dies.avHead (avKey d k a)
def avTail (s : State) (d k a : Nat) : Nat := sget 0 s.dies.avTail (avKey d k a)

/-- COUNT of R332. -/
def avCount (s : State) (d k a : Nat) : Nat := avTail s d k a - avHead s d k a

/-- The handle that SA selects (R334). -/
def avHandleOf (s : State) (o : ExOp) : Word := if o.sa = 0 then s.hart.conf.avh.zeroExtend 64 else s.rS o.sa

/-- The physical addresses of consecutive 16-byte parts. -/
def partPas (s : State) (acc : Acc) : Nat → Word → Eff (State × List Nat)
  | 0, _ => .ok (s, [])
  | n + 1, va => do
    let p ← hartPa s va acc 16
    let r ← partPas p.1 acc n (va + 16)
    .ok (r.1, p.2 :: r.2)

/-- Store a 16-byte part, with its mark (R336). -/
def putPart (s : State) (dst v : Nat) (marked : Bool) : State :=
  let t := storeAt s dst 16 v
  if marked then markCopiedAll t dst 16 else t

/-- Copy 16-byte parts between the places `src` and `dst` list: all are read, then all are written. -/
def copyParts (s : State) (src dst : List Nat) : State :=
  ((src.map (fun a => (peek s a 16, markAny s a 16))).zip dst).foldl (fun t p => putPart t p.2 p.1.1 p.1.2) s

/-- The 16-byte parts of `n` bytes at an address. -/
def partsAt (a n : Nat) : List Nat := (List.range (n / 16)).map (fun i => a + 16 * i)

/-- The core of a hart is leaving its stage in the pipeline whose instance the hart runs (R346). -/
def onLeavingCore (s : State) (h : Nat) : Bool :=
  match instanceOf s h with
  | none => false
  | some (k, _) => (pipeAt s (dieOf h) k).pool.any (fun e => e.1 == coreOf h % 64 && (match e.2 with
      | .leaving _ _ => true
      | _ => false))

/-- The hart runs an instance of a STOPPING pipeline `k` (R330). -/
def stoppingInstance (s : State) (h k : Nat) : Bool :=
  decide ((pipeAt s (dieOf h) k).state = 2) && (match instanceOf s h with | some (j, _) => j == k | none => false)

/-- End the instance of the current hart (R346): steps 1 to 4 of R278 with no completion write. -/
def endInstance (s : State) : Eff State := do
  endReady s
  .ok (endTask s s.cur)

/-- Count a late pop of stage `st` of slot `k` (R348). -/
def countLate (s : State) (d k st : Nat) (g : StageDesc) : State :=
  let a := diePa d (0x800 + 256 * k + 16 * st)
  let n := rawReg s a + 1
  let s := setReg s a n
  let p := diePa d (0x400 + 32 * k + 0x18)
  if ¬ g.dlthr = 0 ∧ g.dlthr ≤ n.toNat then setReg s p (rawReg s p ||| wordOf (pow2 st)) else s

/-- The deadline rule for a pop with stamp `t` (R348). -/
def deadlinePop (s : State) (t : Nat) : State :=
  match instanceOf s s.cur with
  | none => s
  | some (k, st) =>
    match (pipeAt s (dieOf s.cur) k).stages[st]? with
    | some g => if ¬ g.deadline = 0 ∧ t + g.deadline < s.cyc s.cur % pow2 64 then countLate s (dieOf s.cur) k st g else s
    | none => s

/-- The push of one record: the step of the avenue and what follows it (R336). -/
def pushStep (s : State) (k a : Nat) (sd : SReg) (pas : List Nat) : State :=
  let d := dieOf s.cur
  let i := avTail s d k a
  let s := copyParts s pas (partsAt (recordAt s d k a i) (avDesc s d k a).rsize)
  let s := poke s (stampAt s d k a i) 8 (s.cyc s.cur)
  let s := setAvCounters s d k a (avHead s d k a) (i + 1)
  let s := s.wS sd (wordOf i)
  s.putHart { s.hart with stat := { s.hart.stat with ceff := true } }

/-- The pop of one record (R336). -/
def popStep (s : State) (k a : Nat) (sd : SReg) (pas : List Nat) : State :=
  let d := dieOf s.cur
  let j := avHead s d k a
  let s := copyParts s (partsAt (recordAt s d k a j) (avDesc s d k a).rsize) pas
  let t := peek s (stampAt s d k a j) 8
  let s := setAvCounters s d k a (j + 1) (avTail s d k a)
  let s := updateTask s (fun t => { t with popped := true })
  deadlinePop (s.wS sd (wordOf t)) t

/-- `avpush` and `avpush.try` after the checks (R336, R337). -/
def pushTry (s : State) (try_ : Bool) (k a : Nat) (h va : Word) (sd : SReg) (pas : List Nat) : Eff State :=
  let d := dieOf s.cur
  if stoppingInstance s s.cur k then endInstance s
  else if avCount s d k a = (avDesc s d k a).cap then
    if try_ then done (s.wS sd allOnes64) 8
    else if (pipeAt s d k).state = 2 then raise s (tAvenue 2 h)
    else waitFor s (.avenue true (h.truncate 16) va sd)
  else do
    partsReady s readReady pas
    done (pushStep s k a sd pas) 8

/-- `avpop` and `avpop.try` after the checks. -/
def popTry (s : State) (try_ : Bool) (k a : Nat) (h va : Word) (sd : SReg) (pas : List Nat) : Eff State :=
  let d := dieOf s.cur
  if onLeavingCore s s.cur then endInstance s
  else if avCount s d k a = 0 then
    if try_ then done (s.wS sd allOnes64) 8 else waitFor s (.avenue false (h.truncate 16) va sd)
  else do
    partsReady s writeReady pas
    done (popStep s k a sd pas) 8

/-- A push or pop with the checks of R335. -/
def avStep (push try_ : Bool) (h va : Word) (sd : SReg) (s : State) : Eff State :=
  match avOf s h with
  | none => raise s (tAvenue 1 h)
  | some (k, a) => do
    aligned s va 16
    let r ← partPas s (if push then .read else .write) ((avDesc s (dieOf s.cur) k a).rsize / 16) va
    if push then pushTry r.1 try_ k a h va sd r.2 else popTry r.1 try_ k a h va sd r.2

/-- A record instruction of R334. -/
def avInstr (f : Nat) (push try_ : Bool) (o : ExOp) (s : State) : Outcome State Fault Refusal :=
  finish (do
    engineOnly s 59 f o
    avStep push try_ (avHandleOf s o) (s.rS o.sb + o.imm.signExtend 64) o.sd s)

def execAvpush (o : ExOp) (s : State) : Outcome State Fault Refusal := avInstr 0 true false o s
def execAvpop (o : ExOp) (s : State) : Outcome State Fault Refusal := avInstr 1 false false o s
def execAvpushTry (o : ExOp) (s : State) : Outcome State Fault Refusal := avInstr 2 true true o s
def execAvpopTry (o : ExOp) (s : State) : Outcome State Fault Refusal := avInstr 3 false true o s

/-- `avstat` and `avstamp`: `f` reads the avenue (R338). -/
def avRead (k : Nat) (o : ExOp) (f : Nat → Nat → Nat → Word) (s : State) : Outcome State Fault Refusal :=
  let h := avHandleOf s o
  finish (do
    engineOnly s 59 k o
    match avOf s h with
    | none => raise s (tAvenue 1 h)
    | some (k, a) => done (s.wS o.sd (f (dieOf s.cur) k a)) 8)

/-- The status word (R338). -/
def avStatus (s : State) (d k a : Nat) : Word :=
  let cap := (avDesc s d k a).cap
  let n := avCount s d k a
  wordOf (256 * n / cap * pow2 42 + cap * pow2 21 + n)

def execAvstat (o : ExOp) (s : State) : Outcome State Fault Refusal := avRead 4 o (avStatus s) s

def execAvstamp (o : ExOp) (s : State) : Outcome State Fault Refusal :=
  avRead 5 o (fun d k a =>
    if avCount s d k a = 0 then allOnes64 else wordOf (peek s (stampAt s d k a (avHead s d k a)) 8)) s

/-- A turn of a waiting push or pop (R337). -/
def avenueWaitStep (s : State) : Eff State :=
  match s.hart.hold with
  | .avenue push h va sd => releaseHold (avStep push false (h.zeroExtend 64) va sd s)
  | _ => .ok s

end Sys2Proof.Machine
end

