-- ==== Sys2Proof/Machine/VectorInt.lean ====
section
/-! DEFINITION. Vector integer instructions, major 0x31 (spec/05_vector.md R159 to R162). -/

namespace Sys2Proof.Machine

open Host (Outcome)

/-- A two-operand integer instruction: `f` has a and b under TA's signedness and their bits (R159). DEDUCED: an element that reads
several marked cells names them in the order VA, VB, VD (R157, log 101). -/
def intProg (o : VOp) (f : Int → Int → Nat → Nat → Int) : VProg :=
  mapProg o (o.va.toNat :: vbReads o) (fun e s => do
    let a ← srcElem s o.va.toNat (tyWidth o.ta) e
    let b ← opndBits s o e
    .ok (intResult o.ta o.mod1 (f (intOf o.ta a) (intOf o.ta b) a b)))

/-- A one-operand integer instruction. -/
def intUnary (o : VOp) (sat : Bool) (f : Int → Nat → Int) : VProg :=
  mapProg o [o.va.toNat] (fun e s => do
    let a ← srcElem s o.va.toNat (tyWidth o.ta) e
    .ok (intResult o.ta sat (f (intOf o.ta a) a)))

/-- A copying instruction: bits in, bits out, no flag. -/
def copyProg (o : VOp) (rd : List Nat) (f : Nat → State → Eff Nat) : VProg :=
  mapProg o rd (fun e s => (f e s).map (fun v => (v, 0)))

/-- Division truncated, with the result of R159 for b = 0. -/
def divTrunc (a b : Int) : Int := if b = 0 then -1 else Int.tdiv a b

def progVadd (o : VOp) : VProg := intProg o (fun a b _ _ => a + b)
def progVsub (o : VOp) : VProg := intProg o (fun a b _ _ => a - b)
def progVrsub (o : VOp) : VProg := intProg o (fun a b _ _ => b - a)
def progVmul (o : VOp) : VProg := intProg o (fun a b _ _ => a * b)
def progVmulh (o : VOp) : VProg := intProg o (fun a b _ _ => Int.ediv (a * b) (pow2 (tyWidth o.ta)))
def progVdiv (o : VOp) : VProg := intProg o (fun a b _ _ => divTrunc a b)
def progVrem (o : VOp) : VProg := intProg o (fun a b _ _ => if b = 0 then a else a - b * divTrunc a b)
def progVmin (o : VOp) : VProg := intProg o (fun a b _ _ => if b < a then b else a)
def progVmax (o : VOp) : VProg := intProg o (fun a b _ _ => if a < b then b else a)
def progVand (o : VOp) : VProg := intProg o (fun _ _ x y => ((x &&& y : Nat) : Int))
def progVor (o : VOp) : VProg := intProg o (fun _ _ x y => ((x ||| y : Nat) : Int))
def progVxor (o : VOp) : VProg := intProg o (fun _ _ x y => ((x ^^^ y : Nat) : Int))
def progVsll (o : VOp) : VProg := intProg o (fun _ _ x y => ((x * pow2 (y % tyWidth o.ta) : Nat) : Int))
def progVsrl (o : VOp) : VProg := intProg o (fun _ _ x y => ((x / pow2 (y % tyWidth o.ta) : Nat) : Int))
def progVsra (o : VOp) : VProg :=
  intProg o (fun _ _ x y => Int.ediv (sxNat x (tyWidth o.ta)) (pow2 (y % tyWidth o.ta)))

def progVmacc (o : VOp) : VProg :=
  mapProg o (o.va.toNat :: vbReads o ++ [o.vd.toNat]) (fun e s => do
    let a ← srcElem s o.va.toNat (tyWidth o.ta) e
    let b ← opndBits s o e
    let d ← srcElem s o.vd.toNat (tyWidth o.ta) e
    .ok (intResult o.ta o.mod1 (intOf o.ta d + intOf o.ta a * intOf o.ta b)))

def progVabs (o : VOp) : VProg := intUnary o o.mod1 (fun a _ => if a < 0 then -a else a)
def progVclz (o : VOp) : VProg := intUnary o false (fun _ x => (clzNat (tyWidth o.ta) x : Int))
def progVpopc (o : VOp) : VProg := intUnary o false (fun _ x => (popNat (tyWidth o.ta) x : Int))

/-- `vmv` copies VA in its vv form and broadcasts `opnd` in the others. -/
def progVmv (o : VOp) : VProg :=
  if o.isVr && !o.mod0 then copyProg o [o.va.toNat] (fun e s => srcElem s o.va.toNat (tyWidth o.ta) e)
  else copyProg o [] (fun e s => opndBits s o e)

/-- R161: every body element is written; the mask selects the source. -/
def progVmerge (o : VOp) : VProg where
  legal := widthLegal o.ta
  rd := o.va.toNat :: vbReads o
  wr := [o.vd.toNat]
  mrd := maskReads o.mask
  mwr := []
  inOrder := false
  issue := noIssue
  body := elemLoop 0 (tyWidth o.ta) (fun e s => do
    let v ← if s.hart.active o.mask e then opndBits s o e else srcElem s o.va.toNat (tyWidth o.ta) e
    elemLanded s o.vd.toNat (tyWidth o.ta) e
    .ok (putElem s o.vd.toNat (tyWidth o.ta) e v (cellWhole s.first (tyWidth o.ta) (fun _ => true) e)))

def progVid (o : VOp) : VProg := copyProg o [] (fun e _ => .ok (e % pow2 (tyWidth o.ta)))

/-- x of R162: the low bits of `s[SS]` or `f[SS]`. -/
def slideScalar (s : State) (o : VOp) : Nat :=
  (if o.mod1 then (s.rF o.ss).toNat else (s.rS o.ss).toNat) % pow2 (tyWidth o.ta)

def progVslide1Up (o : VOp) : VProg :=
  copyProg o [o.va.toNat] (fun e s =>
    if e = 0 then .ok (slideScalar s o) else srcElem s o.va.toNat (tyWidth o.ta) (e - 1))

/-- It reads above the element it writes, so it needs the whole of VA (R162). -/
def progVslide1Dn (o : VOp) : VProg :=
  { copyProg o [o.va.toNat] (fun e s =>
      if e + 1 = s.vl then .ok (slideScalar s o) else srcElem s o.va.toNat (tyWidth o.ta) (e + 1)) with
    rdTouch := fun k => if k = o.va.toNat then .whole else .elem }

def execVadd (o : VOp) (s : State) : Outcome State Fault Refusal := execV (.vadd o) (progVadd o) s
def execVsub (o : VOp) (s : State) : Outcome State Fault Refusal := execV (.vsub o) (progVsub o) s
def execVrsub (o : VOp) (s : State) : Outcome State Fault Refusal := execV (.vrsub o) (progVrsub o) s
def execVmul (o : VOp) (s : State) : Outcome State Fault Refusal := execV (.vmul o) (progVmul o) s
def execVmulh (o : VOp) (s : State) : Outcome State Fault Refusal := execV (.vmulh o) (progVmulh o) s
def execVdiv (o : VOp) (s : State) : Outcome State Fault Refusal := execV (.vdiv o) (progVdiv o) s
def execVrem (o : VOp) (s : State) : Outcome State Fault Refusal := execV (.vrem o) (progVrem o) s
def execVmin (o : VOp) (s : State) : Outcome State Fault Refusal := execV (.vmin o) (progVmin o) s
def execVmax (o : VOp) (s : State) : Outcome State Fault Refusal := execV (.vmax o) (progVmax o) s
def execVand (o : VOp) (s : State) : Outcome State Fault Refusal := execV (.vand o) (progVand o) s
def execVor (o : VOp) (s : State) : Outcome State Fault Refusal := execV (.vor o) (progVor o) s
def execVxor (o : VOp) (s : State) : Outcome State Fault Refusal := execV (.vxor o) (progVxor o) s
def execVsll (o : VOp) (s : State) : Outcome State Fault Refusal := execV (.vsll o) (progVsll o) s
def execVsrl (o : VOp) (s : State) : Outcome State Fault Refusal := execV (.vsrl o) (progVsrl o) s
def execVsra (o : VOp) (s : State) : Outcome State Fault Refusal := execV (.vsra o) (progVsra o) s
def execVmacc (o : VOp) (s : State) : Outcome State Fault Refusal := execV (.vmacc o) (progVmacc o) s
def execVabs (o : VOp) (s : State) : Outcome State Fault Refusal := execV (.vabs o) (progVabs o) s
def execVclz (o : VOp) (s : State) : Outcome State Fault Refusal := execV (.vclz o) (progVclz o) s
def execVpopc (o : VOp) (s : State) : Outcome State Fault Refusal := execV (.vpopc o) (progVpopc o) s
def execVmv (o : VOp) (s : State) : Outcome State Fault Refusal := execV (.vmv o) (progVmv o) s
def execVmerge (o : VOp) (s : State) : Outcome State Fault Refusal := execV (.vmerge o) (progVmerge o) s
def execVid (o : VOp) (s : State) : Outcome State Fault Refusal := execV (.vid o) (progVid o) s
def execVslide1Up (o : VOp) (s : State) : Outcome State Fault Refusal := execV (.vslide1Up o) (progVslide1Up o) s
def execVslide1Dn (o : VOp) (s : State) : Outcome State Fault Refusal := execV (.vslide1Dn o) (progVslide1Dn o) s

end Sys2Proof.Machine
end

