-- ==== Sys2Proof/Machine/Square.lean ====
section
/-! DEFINITION. The Square: updates (major 0x37) and zeroing, views and drains (major 0x38), spec/06_square.md R182 to
R212. -/

namespace Sys2Proof.Machine

open Host (Outcome)

/-- Rows VD to VD + G − 1. -/
def sqRows (o : SqOp) : List Nat := (List.range (o.gm1.toNat + 1)).map (fun i => o.vd.toNat + i)

def sqG (o : SqOp) : Nat := o.gm1.toNat + 1

/-- The active columns below `vl`. -/
def activeCols (s : State) (mask : BitVec 4) : List Nat := (List.range s.vl).filter (fun e => s.hart.active mask e)

/-- Logical clusters that hold a column below `vl` at width `ew`. -/
def colClusters (s : State) (ew : Nat) : List Nat := List.range ((s.vl * ew + 1023) / 1024)

/-! Reading the local Vault (R187) -/

/-- `n` little-endian bytes of a core's Vault. -/
def vaultNum (s : State) (c off n : Nat) : Nat := gather (fun k => vaultByte s c (off + k)) 0 n

/-- The bit of element `x` in an array of `w`-bit elements (R54, R188). -/
def arrBit (w x : Nat) : Nat := if w < 8 then packBit w x else w * x

/-- Element `x` of an array at a Vault offset. -/
def vaultElem (s : State) (c base w x : Nat) : Nat :=
  let b := arrBit w x
  vaultNum s c (base + b / 8) (if w < 8 then 2 else w / 8) / pow2 (b % 8) % pow2 w

/-- The bytes of elements [x0, x1) of an array at `base`, as (first, count). -/
def spanOf (base w x0 x1 : Nat) : Nat × Nat :=
  if x1 ≤ x0 then (base, 0)
  else
    let lo := arrBit w x0 / 8
    let hi := (arrBit w (x1 - 1) + w - 1) / 8 + 1
    (base + lo, hi - lo)

/-- The lowest byte at or above 2^24 that some span reads. DEDUCED: of several such bytes VALUE names the lowest (R187, log 103). -/
def spanFault (l : List (Nat × Nat)) : Option Nat :=
  (l.filterMap (fun p => if vaultBytes < p.1 + p.2 then some (Nat.max p.1 vaultBytes) else none)).foldl
    (fun acc x => match acc with | none => some x | some y => some (Nat.min x y)) none

/-- The lines that spans touch, by offset. -/
def spanLines (l : List (Nat × Nat)) : List Nat :=
  (l.map (fun p => (List.range ((p.1 % 128 + p.2 + 127) / 128)).map (fun k => p.1 / 128 * 128 + 128 * k))).flatten.eraseDups

/-- The lines are full, or the instruction stalls. -/
def linesFull (s : State) : List Nat → Eff Unit
  | [] => .ok ()
  | l :: ls => if lineReadsEmpty s (coreOf s.cur) l then stallLine s (coreOf s.cur) l true else linesFull s ls

/-- No line carries a poison mark. -/
def linesClean (s : State) : List Nat → Eff Unit
  | [] => .ok ()
  | l :: ls =>
    if vaultMark s (coreOf s.cur) l then raise s (tPoisonMem (vaultPa (coreOf s.cur) l)) else linesClean s ls

/-- The operand bytes of a unit are readable: LFAULT first, then a wait for full lines (R187, R198). -/
def spansReady (s : State) (l : List (Nat × Nat)) : Eff Unit := do
  match spanFault l with
  | some a => raise s (tLfault 0 (wordOf a))
  | none => linesFull s (spanLines l)

/-! Updates -/

/-- G_t of R185. -/
def depthOf : Ty → Nat
  | .fp64 | .fp32 => 1
  | .fp16 | .bf16 => 2
  | .e2m1 | .mxe2m1 | .sfp4 | .si4 | .lg6 => 8
  | _ => 4

/-- The shape of an update: its types and modifiers, depth, group, operand offsets, units per block and lines per block
(R189, R195). -/
structure Upd where
  ta : Ty
  tb : Ty
  ua : Bool
  ub : Bool
  maj : Bool
  acc : Nat
  ordered : Bool
  sparse : Bool
  nsel : Nat
  k : Nat
  g : Nat
  vd : Nat
  sa : Nat
  sb : Nat
  mask : BitVec 4
  rms : Option RMode
  sat : Bool

def Upd.accT (d : Upd) : Ty := accTy d.ta
def Upd.ew (d : Upd) : Nat := tyWidth d.accT
def Upd.w (d : Upd) : Nat := packBits d.ta
def Upd.gt (d : Upd) : Nat := depthOf d.ta

/-- Units per block. -/
def Upd.upb (d : Upd) : Nat := if d.sparse then d.nsel / d.gt else if isBlock d.ta then blockLen d.ta / d.gt else 1

/-- A block has a line of scales or selections. -/
def Upd.extra (d : Upd) : Bool := d.sparse || isBlock d.ta

/-- Lines per block. -/
def Upd.lpb (d : Upd) : Nat := if d.extra then d.upb + 1 else if d.ta = .lg6 then 2 else 1

/-- n of R195. -/
def Upd.units (d : Upd) : Nat := if d.sparse then d.k / 32 * (d.nsel / d.gt) else (d.k + d.gt - 1) / d.gt

/-- The depth conditions of R195. -/
def Upd.depthOk (d : Upd) : Bool :=
  decide (1 ≤ d.k) && decide (d.units ≤ 1024) && (!isBlock d.ta || decide (d.k % blockLen d.ta = 0))
    && (!d.sparse || decide (d.k % 32 = 0))

/-- The k of A that unit `u` reads: [first, end). -/
def Upd.ks (d : Upd) (u : Nat) : Nat × Nat :=
  if d.sparse then (32 * (u / d.upb), 32 * (u / d.upb) + 32) else (u * d.gt, Nat.min d.k (u * d.gt + d.gt))

/-- EB of R188 and the start of record `j`. -/
def Upd.recBytes (d : Upd) : Nat := 8 * ((blockLen d.ta * d.g * d.w + 63) / 64)
def Upd.recAt (d : Upd) (j : Nat) : Nat := d.sa + j * (d.recBytes + 8 * ((d.g + 7) / 8))

/-- RS of R188. -/
def Upd.rowStride (d : Upd) : Nat := 8 * ((d.k * d.w + 63) / 64)

/-- The A bytes of unit `u` (R188). -/
def Upd.aSpans (d : Upd) (u : Nat) : List (Nat × Nat) :=
  let p := d.ks u
  if isBlock d.ta then
    let b := blockLen d.ta
    let j := p.1 / b
    [spanOf (d.recAt j) d.w ((p.1 - j * b) * d.g) ((p.2 - j * b) * d.g), (d.recAt j + d.recBytes, d.g)]
  else if d.maj then (List.range d.g).map (fun i => spanOf (d.sa + i * d.rowStride) d.w p.1 p.2)
  else [spanOf d.sa d.w (p.1 * d.g) (p.2 * d.g)]

/-- The code of a[i][k] and its scale byte. -/
def Upd.aElem (d : Upd) (s : State) (i k : Nat) : Nat × Nat :=
  let c := coreOf s.cur
  if isBlock d.ta then
    let b := blockLen d.ta
    let j := k / b
    (vaultElem s c (d.recAt j) d.w ((k - j * b) * d.g + i), vaultNum s c (d.recAt j + d.recBytes + i) 1)
  else if d.maj then (vaultElem s c (d.sa + i * d.rowStride) d.w k, 0)
  else (vaultElem s c d.sa d.w (k * d.g + i), 0)

/-- The offset of line `l` of logical cluster `j` (R189). -/
def bLine (g : BitVec 8) (b0 j l : Nat) : Nat := (pow2 21 * (clustersOf g).getD j 0 + b0 + 128 * l) % vaultBytes

/-- The lines of each cluster that unit `u` reads: data lines, then a line of scales or selections. -/
def Upd.lines (d : Upd) (u : Nat) : List Nat :=
  let j := u / d.upb
  let q := u % d.upb
  if d.sparse then [j * d.lpb + 1 + q, j * d.lpb]
  else if isBlock d.ta then [j * d.lpb + q, j * d.lpb + d.upb]
  else if d.ta = .lg6 then [2 * u, 2 * u + 1]
  else [u]

def Upd.bSpans (d : Upd) (s : State) (u : Nat) : List (Nat × Nat) :=
  ((colClusters s d.ew).map (fun j => (d.lines u).map (fun l => (bLine s.hart.grant d.sb j l, 128)))).flatten

/-- Columns per cluster at an accumulator width. -/
def colsPer (ew : Nat) : Nat := 1024 / ew

/-- The byte of column `e`'s word within a line. -/
def colByte (ew e : Nat) : Nat := e % colsPer ew * (ew / 8)

/-- The position of the n-th lowest set bit of a 32-bit word (R191). -/
def nthBit (sel n : Nat) : Option Nat := ((List.range 32).filter (fun q => sel.testBit q))[n]?

/-- The terms of column `e` in unit `u`: m, the k of A, the code of B and its scale byte (R189 to R191, R196). -/
def Upd.bTerms (d : Upd) (s : State) (u e : Nat) : List (Nat × Nat × Nat × Nat) :=
  let c := coreOf s.cur
  let g := s.hart.grant
  let j := e / colsPer d.ew
  let o := colByte d.ew e
  let at' := fun (l : Nat) => bLine g d.sb j l
  let ls := d.lines u
  let l0 := at' (ls.getD 0 0)
  let l1 := at' (ls.getD 1 0)
  if d.ta = .lg6 then
    let lane := 8 * (e % 32 / 2)
    let word := vaultNum s c (l0 + lane) 8 + pow2 64 * vaultNum s c (l1 + lane) 4
    ((List.range 8).filter (fun q => decide (8 * u + q < d.k))).map (fun q =>
      (8 * u + q, 8 * u + q, word / pow2 (packBit 6 (8 * (e % 2) + q)) % 64, 0))
  else
    let word := vaultNum s c (l0 + o) (d.ew / 8)
    if d.sparse then
      let sel := vaultNum s c (l1 + o) 4
      (List.range d.gt).filterMap (fun q =>
        (nthBit sel (u % d.upb * d.gt + q)).map (fun p =>
          (u * d.gt + q, 32 * (u / d.upb) + p, word / pow2 (d.w * q) % pow2 d.w, 0)))
    else
      let sc := if isBlock d.ta then vaultNum s c (l1 + o) 1 else 0
      ((List.range d.gt).filter (fun q => decide (u * d.gt + q < d.k))).map (fun q =>
        (u * d.gt + q, u * d.gt + q, word / pow2 (d.w * q) % pow2 d.w, sc))

/-- The exact value of an operand code with its scale (R62, R71, R192). -/
def opVal (t : Ty) (uns : Bool) (code sc : Nat) : Val :=
  if isBlock t then scaleBy (blockElem t code) (blockScale t sc)
  else if uns then .fin false (code % pow2 (packBits t)) 1
  else decode t code

/-- One exact product (R56, R71), negated by `.neg`. -/
def Upd.term (d : Upd) (a : Nat × Nat) (b sc : Nat) : Val × Flags :=
  let p := if d.ta = .lg6 then (lg6Mul a.1 b, 0) else vmul (opVal d.ta d.ua a.1 a.2) (opVal d.tb d.ub b sc)
  if d.acc = 1 then (vneg p.1, p.2) else p

/-- The integer of an exact integral value. -/
def valInt : Val → Int
  | .fin n a b => if n then -((a / b : Nat) : Int) else ((a / b : Nat) : Int)
  | _ => 0

/-- One step of an accumulation: x plus terms, rounded (or wrapped or clamped) into the accumulator type. -/
def accStep (s : State) (t : Ty) (rms : Option RMode) (sat : Bool) (e tag x : Nat) (ts : List (Val × Flags)) : Nat × Flags :=
  if t = .si32 then
    intResult .si32 sat (ts.foldl (fun acc p => acc + valInt p.1) (intOf .si32 x))
  else
    let v := vsum (s.rmEff rms) (decode t x :: ts.map (fun p => p.1))
    let r := round t v.1 (s.rnd rms sat e tag)
    (r.1, ts.foldl (fun acc p => acc ||| p.2) (v.2 ||| r.2))

/-- The accumulator of row i, column e after unit `u` (R196). -/
def Upd.cell (d : Upd) (s : State) (u i e x : Nat) : Nat × Flags :=
  let ts := (d.bTerms s u e).map (fun t => (t.1, d.term (d.aElem s i t.2.1) t.2.2.1 t.2.2.2))
  if d.ordered then
    ts.foldl (fun acc t =>
      let r := accStep s d.accT d.rms d.sat e (d.vd + i + t.1 * pow2 40) acc.1 [t.2]
      (r.1, acc.2 ||| r.2)) (x, 0)
  else
    match ts with
    | [] => (x, 0)
    | _ => accStep s d.accT d.rms d.sat e (d.vd + i + u * pow2 40) x (ts.map (fun t => t.2))

/-- Read accumulator column `e` of row i for unit `u`: `.set` reads none in unit 0 (R196, R198). -/
def Upd.read (d : Upd) (s : State) (u i e : Nat) : Eff Nat :=
  if d.acc = 2 ∧ u = 0 then .ok 0 else srcElem s (d.vd + i) d.ew e

/-- The results of a unit: (row, column, code), with every flag any cell raises. -/
def Upd.results (d : Upd) (s : State) (u : Nat) : List (Nat × Nat) → Eff (List (Nat × Nat × Nat) × Flags)
  | [] => .ok ([], 0)
  | (i, e) :: rest => do
    let x ← d.read s u i e
    let r ← d.results s u rest
    let q := d.cell s u i e x
    .ok ((d.vd + i, e, q.1) :: r.1, q.2 ||| r.2)

/-- Every row and column pair, rows first. -/
def pairs (g : Nat) (cols : List Nat) : List (Nat × Nat) := ((List.range g).map (fun i => cols.map (fun e => (i, e)))).flatten

/-- The rows of a group are landed in the clusters of columns below `vl` (R202). -/
def rowsLanded (s : State) (ew : Nat) : List (Nat × Nat) → Eff Unit
  | [] => .ok ()
  | (r, j) :: rest => do
    elemLanded s r ew (j * colsPer ew)
    rowsLanded s ew rest

def groupLanded (s : State) (ew vd g : Nat) : Eff Unit :=
  rowsLanded s ew ((pairs g (colClusters s ew)).map (fun p => (vd + p.1, p.2)))

/-- B is lane-aligned (R189). -/
def Upd.aligned (d : Upd) : Bool :=
  decide (d.sb % 128 = 0) && decide (d.sb + 128 * (d.units / d.upb * d.lpb) ≤ pow2 21)

/-- Line reads of unit `u` that `VHACC` counts: a block's scales or selections count where the block, or this execution,
begins (R189, R199, R216). -/
def Upd.horizontal (d : Upd) (s : State) (u : Nat) : Nat :=
  if d.aligned then 0
  else ((if d.ta = .lg6 then 2 else 1) + (if d.extra && (decide (u % d.upb = 0) || decide (u = s.first)) then 1 else 0))
    * (colClusters s d.ew).length

/-- Write the results of a unit; a cell is whole when all its columns are active. -/
def putResults (s : State) (mask : BitVec 4) (ew : Nat) (l : List (Nat × Nat × Nat)) : State :=
  l.foldl (fun t p => putElem t p.1 ew p.2.1 p.2.2 (cellWhole 0 ew (s.hart.active mask) p.2.1)) s

/-- Unit `u` of an update (R196, R198). DEDUCED: the unit stalls for every line and group that it reads before a POISON of one of
them is raised (log 103); of several poisoned operands VALUE names the first operand line in ascending
order, A before B, and then the first accumulator cell, rows first (log 90). -/
def Upd.unit (d : Upd) (u : Nat) (s : State) : Eff State := do
  let spans := d.aSpans u ++ d.bSpans s u
  spansReady s spans
  groupLanded s d.ew d.vd d.g
  linesClean s (spanLines spans)
  let r ← d.results s u (pairs d.g (activeCols s d.mask))
  let t := addCount s (ctlPa (coreOf s.cur) 0x100) (d.horizontal s u)
  let t ← flagStop t r.2
  .ok (putResults t d.mask d.ew r.1)

/-- Rows become busy until the update path has applied the instruction (R200). -/
def markUpdate (rows : List Nat) (s : State) : Eff State :=
  .ok (s.putHart { s.hart with updBusy := s.hart.updBusy ||| rowMask rows })

/-- The update path is free, or the instruction waits: a hart's updates are applied one at a time (R183). -/
def updateFree (s : State) : Eff Unit := if s.hart.updBusy = 0 then .ok () else waitFor s (.rows s.hart.updBusy)

def Upd.ofOp (o : SqOp) (ordered sparse : Bool) (k : Nat) (s : State) : Upd where
  ta := o.ta
  tb := o.tb
  ua := o.ua
  ub := o.ub
  maj := o.maj
  acc := o.acc
  ordered := ordered
  sparse := sparse
  nsel := if o.spn then 8 else 16
  k := k
  g := sqG o
  vd := o.vd.toNat
  sa := (s.rS o.sa).toNat
  sb := (s.rS o.sb).toNat
  mask := o.mask
  rms := o.rms
  sat := o.sat

/-- The issue-time checks of R195 and R187. DEDUCED: a bad depth raises ILLEGAL before a misaligned operand address raises
MISALIGN, and `s[SA]` comes before `s[SB]` (log 89). -/
def Upd.issue (d : Upd) (i : Instr) (s : State) : Eff Unit := do
  updateFree s
  need d.depthOk s (tIllegal (instrBits i))
  need (decide (d.sa % 8 = 0)) s (tMisalign (wordOf d.sa))
  need (decide (d.sb % 8 = 0)) s (tMisalign (wordOf d.sb))

/-- The bytes of the core's Vault that spans cover, as an index reads them. -/
def readSpans (s : State) (spans : List (Nat × Nat)) : List (Bool × Nat × Nat) :=
  spans.map (fun p => (false, vaultPa (coreOf s.cur) p.1, p.2))

/-- An update of major 0x37; `depth` gives K. -/
def updProg (i : Instr) (o : SqOp) (ordered sparse : Bool) (depth : State → Nat) : VProg where
  legal := fun s => decide (tyWidth (accTy o.ta) = s.ew)
  rd := sqRows o
  wr := sqRows o
  mrd := maskReads o.mask
  mwr := []
  inOrder := false
  issue := fun s => (Upd.ofOp o ordered sparse (depth s) s).issue i s
  body := .loop (fun s =>
    let d := Upd.ofOp o ordered sparse (depth s) s
    ⟨if s.vl = 0 then 0 else d.units, 1, id, d.unit, markUpdate (sqRows o)⟩)
  keeps := true
  rdTouch := fun _ => .whole
  wrTouch := fun _ => .whole
  mem := fun s u =>
    let d := Upd.ofOp o ordered sparse (depth s) s
    readSpans s (d.aSpans u ++ d.bSpans s u)

/-- The depth register (R195). -/
def depthReg (o : SqOp) (s : State) : Nat := (s.rS o.sc).toNat

def progMop (o : SqOp) : VProg := updProg (.mop o) o true false (fun _ => 1)
def progMmkO (o : SqOp) : VProg := updProg (.mmkO o) o true false (depthReg o)
def progMmkF (o : SqOp) : VProg := updProg (.mmkF o) o false false (depthReg o)
def progMmksO (o : SqOp) : VProg := updProg (.mmksO o) o true true (depthReg o)
def progMmksF (o : SqOp) : VProg := updProg (.mmksF o) o false true (depthReg o)

/-! Zeroing and views -/

/-- Index i uses row i of the group at VD. -/
def groupTouch (o : SqOp) (k : Nat) : Touch := .row (k - o.vd.toNat)

/-- A row of `mzero` (R205). -/
def zeroRow (o : SqOp) (i : Nat) (s : State) : Eff State := do
  groupLanded s s.ew (o.vd.toNat + i) 1
  .ok (putResults s o.mask s.ew ((activeCols s o.mask).map (fun e => (o.vd.toNat + i, e, 0))))

def progMzero (o : SqOp) : VProg where
  legal := fun _ => true
  rd := []
  wr := sqRows o
  mrd := maskReads o.mask
  mwr := []
  inOrder := false
  issue := noIssue
  body := .loop (fun _ => ⟨sqG o, 1, id, zeroRow o, noLast⟩)
  rdTouch := fun _ => .whole
  wrTouch := groupTouch o

/-- The column that index `i` of a view selects (R206). -/
def viewCol (o : SqOp) (diag : Bool) (s : State) (i : Nat) : Nat := (s.rS o.sc).toNat + (if diag then i else 0)

def getIndex (o : SqOp) (diag : Bool) (i : Nat) (s : State) : Eff State := do
  let e := viewCol o diag s i
  let v ← if e < s.vl then srcElem s (o.vd.toNat + i) s.ew e else .ok 0
  elemLanded s o.x s.ew i
  .ok (putElem s o.x s.ew i v (cellWhole s.first s.ew (s.hart.active o.mask) i))

def putIndex (o : SqOp) (diag : Bool) (i : Nat) (s : State) : Eff State :=
  let e := viewCol o diag s i
  if e < s.vl then do
    let v ← srcElem s o.x s.ew i
    elemLanded s (o.vd.toNat + i) s.ew e
    .ok (putElem s (o.vd.toNat + i) s.ew e v (decide (s.ew = 64)))
  else .ok s

/-- A view (R206): indices at or above VLMAX are skipped. -/
def viewProg (o : SqOp) (diag get : Bool) : VProg where
  legal := widthLegal o.ta
  rd := if get then sqRows o else [o.x]
  wr := if get then [o.x] else sqRows o
  mrd := maskReads o.mask
  mwr := []
  inOrder := false
  issue := noIssue
  body := .loop (fun s => ⟨sqG o, 1024 / s.ew, id, fun i s =>
    if s.hart.active o.mask i && decide (i < vlmax (grantCount s.hart.grant) s.ew) then
      (if get then getIndex o diag i s else putIndex o diag i s)
    else .ok s, noLast⟩)
  rdTouch := fun k => if get && decide (k < 48) then groupTouch o k else .elem
  wrTouch := if get then fun _ => .elem else groupTouch o

def progMcolGet (o : SqOp) : VProg := viewProg o false true
def progMcolPut (o : SqOp) : VProg := viewProg o false false
def progMdiagGet (o : SqOp) : VProg := viewProg o true true
def progMdiagPut (o : SqOp) : VProg := viewProg o true false

/-! Drains -/

/-- Q, LAY and SAT of a drain (R208). -/
def drainQ (o : SqOp) : Bool := o.sqmod.getLsbD 6
def drainLay (o : SqOp) : Bool := o.sqmod.getLsbD 5
def drainSat (o : SqOp) : Bool := o.sqmod.getLsbD 4

def drainStride (s : State) (o : SqOp) : Nat := bits (s.rS o.sc) 39 16
def drainZp (s : State) (o : SqOp) : Int := sxNat (bits (s.rS o.sc) 15 0) 16
def drainWb (o : SqOp) : Nat := tyWidth o.tb / 8

/-- The offset of mult(e) (R210). -/
def multAt (s : State) (o : SqOp) (e : Nat) : Nat :=
  let ew := tyWidth o.ta
  pow2 21 * elemCluster s.hart.grant ew e + (s.rS o.sb).toNat + colByte ew e

/-- The offset to which element (i, e) is written (R210). -/
def drainAt (s : State) (o : SqOp) (i e : Nat) : Nat :=
  let ew := tyWidth o.ta
  let sa := (s.rS o.sa).toNat
  if drainLay o then
    let nc := 64 / ew
    let p := 8 / (nc * drainWb o)
    (pow2 21 * elemCluster s.hart.grant ew e + sa + i / p * drainStride s o + 8 * (laneOf ew e % 16)
      + (i % p * nc + e % nc) * drainWb o) % vaultBytes
  else sa + i * drainStride s o + e * drainWb o

/-- `conv` of R209. DEDUCED: a finite value whose integer lies out of range is wrapped, or clamped under SAT, after ZP is added, as
R209 says, where R69 would give the minimum or maximum with NV (log 104). -/
def drainConv (s : State) (o : SqOp) (e row : Nat) (v : Val) : Nat × Flags :=
  let r := s.rnd o.rms (drainSat o) e (row + pow2 48)
  if isFloat o.tb then round o.tb v r
  else
    match v with
    | .nan _ => (0, fNV)
    | .inf neg => (wrapBits (if neg then intMin o.tb else intMax o.tb) (tyWidth o.tb), if (drainSat o) then fSATF else fNV)
    | .fin neg n d =>
      let q := nearestInt neg n d r
      let y := intResult o.tb (drainSat o) (q.1 + drainZp s o)
      (y.1, y.2 ||| (if q.2 then fNX else 0))

/-- The results of a row: (column, code) with its flags. `mult` gives the multipliers. -/
def drainRow (s : State) (o : SqOp) (mult : Nat → Val) (row : Nat) : List Nat → Eff (List (Nat × Nat) × Flags)
  | [] => .ok ([], 0)
  | e :: es => do
    let b ← srcElem s row (tyWidth o.ta) e
    let rest ← drainRow s o mult row es
    let x := decode o.ta b
    let p := if drainQ o then vmul x (mult e) else (x, 0)
    let q := drainConv s o e row p.1
    .ok ((e, q.1) :: rest.1, p.2 ||| q.2 ||| rest.2)

/-- The distinct lines that row i writes. -/
def drainLines (s : State) (o : SqOp) (i : Nat) : List Nat :=
  ((activeCols s o.mask).map (fun e => drainAt s o i e / 128 * 128)).eraseDups

/-- A full-rate drain from row `vsi` on (R211). -/
def drainFull (s : State) (o : SqOp) : Bool :=
  drainLay o && decide ((s.rS o.sa).toNat % 128 = 0) && decide (drainStride s o % 128 = 0)
    && ((List.range (sqG o)).filter (fun i => decide (s.first ≤ i))).all (fun i =>
      (activeCols s o.mask).all (fun e =>
        decide (drainAt s o i e / pow2 21 = elemCluster s.hart.grant (tyWidth o.ta) e)))

/-- The lines that row i writes whole: each of its columns in the line's cluster is active and fills 8 bytes per lane. -/
def drainWholeLines (s : State) (o : SqOp) (i : Nat) : List Nat :=
  let n := colsPer (tyWidth o.ta)
  if decide (64 / tyWidth o.ta * drainWb o = 8) then
    ((colClusters s (tyWidth o.ta)).filter (fun j =>
      (List.range n).all (fun k => decide (j * n + k < s.vl) && s.hart.active o.mask (j * n + k)))).map
      (fun j => drainAt s o i (j * n) / 128 * 128)
  else []

/-- The first store offset of a row at or above 2^24. -/
def drainFault (s : State) (o : SqOp) (i : Nat) : Option Nat :=
  ((activeCols s o.mask).map (fun e => drainAt s o i e)).find? (fun a => decide (vaultBytes < a + drainWb o))

/-- The multiplier bytes are readable (R210): faults, full lines, then poison. -/
def multsReady (s : State) (o : SqOp) : Eff Unit :=
  if drainQ o then do
    let spans := (activeCols s o.mask).map (fun e => (multAt s o e, 4))
    spansReady s spans
    linesClean s (spanLines spans)
  else .ok ()

/-- The multipliers are read once, before the first row of an execution, and kept for the rows after a stall (R211). -/
def takeMults (o : SqOp) (i : Nat) (s : State) : Eff State :=
  if drainQ o && decide (i = s.first) then do
    multsReady s o
    .ok (s.putHart { s.hart with begun := some ⟨s.first, (activeCols s o.mask).map (fun e =>
      (e, vaultNum s (coreOf s.cur) (multAt s o e) 4))⟩ })
  else .ok s

/-- Row i of a drain (R209 to R211). -/
def drainStep (o : SqOp) (i : Nat) (s : State) : Eff State := do
  let s ← takeMults o i s
  match drainFault s o i with
  | some a => raise s (tSfault 0 (wordOf a))
  | none =>
    let row := o.vd.toNat + i
    groupLanded s (tyWidth o.ta) row 1
    let r ← drainRow s o (fun e => decode .fp32 ((s.mults.lookup e).getD 0)) row (activeCols s o.mask)
    let c := coreOf s.cur
    let full := drainFull s o
    let t ← flagStop s r.2
    let t := if full then t else addCount t (ctlPa c 0x100) (drainLines s o i).length
    let t := r.1.foldl (fun t p => storeAt t (vaultPa c (drainAt s o i p.1)) (drainWb o) p.2) t
    .ok (if full then (drainWholeLines s o i).foldl (fun t l => setVaultMark t c l false) t else t)

/-- Rows become busy until they are shifted out (R200). -/
def markDrain (rows : List Nat) (s : State) : Eff State :=
  .ok (s.putHart { s.hart with drainBusy := s.hart.drainBusy ||| rowMask rows })

/-- The issue-time checks of R210, after the drains before it (R183). DEDUCED: `s[SA]` and STRIDE are checked before `s[SB]`
(log 102). -/
def drainIssue (o : SqOp) (s : State) : Eff Unit := do
  if s.hart.drainBusy = 0 then .ok () else waitFor s (.rows s.hart.drainBusy)
  let sa := s.rS o.sa
  need (decide (sa.toNat % drainWb o = 0) && decide (drainStride s o % drainWb o = 0)) s (tMisalign sa)
  if drainQ o then
    need (decide ((s.rS o.sb).toNat % 128 = 0) && decide ((s.rS o.sb).toNat < pow2 21)) s (tMisalign (s.rS o.sb))
  else .ok ()

def progMdrain (o : SqOp) : VProg where
  legal := widthLegal o.ta
  rd := sqRows o
  wr := []
  mrd := maskReads o.mask
  mwr := []
  inOrder := false
  issue := drainIssue o
  body := .loop (fun s0 => ⟨sqG o, 1, id, fun i s => drainStep o i s, markDrain ((sqRows o).drop s0.vsi)⟩)
  keeps := true
  rdTouch := fun k => if k < 48 then groupTouch o k else .whole
  mem := fun s i => ((activeCols s o.mask).map (fun e =>
    (true, vaultPa (coreOf s.cur) (drainAt s o i e), drainWb o) ::
      (if drainQ o && decide (i = s.first) then readSpans s [(multAt s o e, 4)] else []))).flatten

def execMop (o : SqOp) (s : State) : Outcome State Fault Refusal := execV (.mop o) (progMop o) s
def execMmkO (o : SqOp) (s : State) : Outcome State Fault Refusal := execV (.mmkO o) (progMmkO o) s
def execMmkF (o : SqOp) (s : State) : Outcome State Fault Refusal := execV (.mmkF o) (progMmkF o) s
def execMmksO (o : SqOp) (s : State) : Outcome State Fault Refusal := execV (.mmksO o) (progMmksO o) s
def execMmksF (o : SqOp) (s : State) : Outcome State Fault Refusal := execV (.mmksF o) (progMmksF o) s
def execMzero (o : SqOp) (s : State) : Outcome State Fault Refusal := execV (.mzero o) (progMzero o) s
def execMcolGet (o : SqOp) (s : State) : Outcome State Fault Refusal := execV (.mcolGet o) (progMcolGet o) s
def execMcolPut (o : SqOp) (s : State) : Outcome State Fault Refusal := execV (.mcolPut o) (progMcolPut o) s
def execMdiagGet (o : SqOp) (s : State) : Outcome State Fault Refusal := execV (.mdiagGet o) (progMdiagGet o) s
def execMdiagPut (o : SqOp) (s : State) : Outcome State Fault Refusal := execV (.mdiagPut o) (progMdiagPut o) s
def execMdrain (o : SqOp) (s : State) : Outcome State Fault Refusal := execV (.mdrain o) (progMdrain o) s

end Sys2Proof.Machine
end

