-- ==== Sys2Proof/Machine/StreamRun.lean ====
section
/-! DEFINITION. The stream agents (spec/07_vault_streams.md R219 to R246): windows, the performance of one element, faults
and their batch records, and the write pointer. -/

namespace Sys2Proof.Machine

open Host (Outcome)

/-! Windows and pointers -/

/-- The window that holds the next element of a slot: its base and its end (R238). -/
def Slot.nextBase (x : Slot) : Nat := if x.rvalid then x.winBase else x.start / 1024 * 1024
def Slot.winEnd (x : Slot) : Nat := Nat.min (x.winBase + 1024) x.n

/-- The write pointer (R235): every element below it is performed. -/
def Slot.pointer (x : Slot) : Nat := if x.winOpen then x.pendingList.headD x.n else x.start

/-- Ones of the residue mask. -/
def Slot.nfault (x : Slot) : Nat :=
  if x.rvalid then ((List.range 1024).filter (fun i => x.residue.testBit i)).length else 0

def slotCode : SlotState → Nat
  | .idle => 0 | .running => 1 | .done => 2 | .faulted => 3

/-- The status word (R221). -/
def Slot.status (x : Slot) : Word :=
  wordOf (x.nfault * pow2 48 + x.pointer % pow2 32 * pow2 16 + (if x.ovf then 512 else 0) + (if x.rvalid then 256 else 0)
    + x.func * 16 + (if x.ordered then 8 else 0) + slotCode x.state)

/-- Close the open window: nothing of it is left (R238). -/
def Slot.closed (x : Slot) : Slot :=
  { x with winOpen := false, pages := [], table := [], faults := [], fmask := 0, hot := false }

/-- A slot all of whose elements up to `e` are performed: DONE at n. -/
def Slot.reached (x : Slot) (e : Nat) : Slot :=
  { x.closed with
    start := e
    rvalid := false
    residue := 0
    wrote := some []
    state := if x.n ≤ e then .done else .running }

/-- RUNNING with its next window yet to begin; DONE when nothing is left (R220, R244). -/
def Slot.begin (x : Slot) : Slot :=
  if x.n ≤ x.start then { x.reached x.n with state := .done } else { x.closed with state := .running }

/-- Open the next window (R238); a stopped window keeps what its performed elements have written (R234, R244). -/
def Slot.openWindow (x : Slot) : Slot :=
  { x.closed with winOpen := true, winBase := x.nextBase, next := x.start, wrote := if x.rvalid then x.wrote else some [] }

/-! Accesses of an element -/

/-- How an element stops short: it waits, or it faults with these entries (R239). -/
inductive ElemStop where
  | wait (s : State)
  | fault (s : State) (l : List FaultEntry)
  deriving DecidableEq, Repr

abbrev ElemEff (α : Type) := Except ElemStop α

/-- A fault of one element. -/
def elemFault {α : Type} (s : State) (addr : Int) (kind access size : Nat) : ElemEff α :=
  .error (.fault s [⟨addr, kind, access, size, 1⟩])

/-- The translation context recorded in a slot (R220). -/
def slotCtx (s : State) (h k : Nat) : Ctx :=
  let x := slotAt s h k
  ⟨x.level, x.root, x.asid, tlbOf h⟩

/-- Memory or a Plaza window of R385 backs a page; a register window that it lies in refuses by itself (R388). -/
def pageBacked (s : State) (pa : Nat) : Bool :=
  match regionOf pa with
  | .ctl _ _ | .dieCtl _ _ | .io _ _ => true
  | _ => backed s pa

/-- A translated page base: an address that nothing backs is not mapped, with the leaf's size (R239, R304). -/
def pageAnswer (s : State) : XRes → Option PageResult
  | .ok pa size _ glob => if pageBacked s pa then some (.ok pa size glob) else some (.fault 0 size)
  | .fault sub size => some (.fault sub size)
  | .poison _ => some (.fault 5 0xF)
  | .held => none

/-- The translation of a 4 KiB page, made once in a window (R238); none while a migration holds its entry. -/
def slotPage (s : State) (h k page : Nat) (acc : Acc) : State × Option PageResult :=
  let x := slotAt s h k
  if x.level = .m then (s, some (.ok (4096 * page) 0 false))
  else
    match assoc page x.pages with
    | some r => (s, some r)
    | none =>
      let t := translateEntry s (slotCtx s h k) (4096 * page) acc
      match pageAnswer t.1 t.2 with
      | none => (t.1, none)
      | some r => (setSlot t.1 h k { slotAt t.1 h k with pages := (page, r) :: (slotAt t.1 h k).pages }, some r)

/-- One access of a stream on its memory side. -/
inductive PieceRes where
  | ok (pa n : Nat)
  | fault (page kind size : Nat)
  | held
  deriving DecidableEq, Repr

/-- The place of `n` bytes at a memory-side address (R231, R239). DEDUCED: a refusal by a window concerns the access it refuses
alone, so that only the elements that make it count as faulted, while a failed translation fails every element of its page
(R241, log 83). -/
def piecePa (s : State) (h k : Nat) (acc : Acc) (va n : Nat) : State × PieceRes :=
  let r := slotPage s h k (va / 4096) acc
  match r.2 with
  | none => (r.1, .held)
  | some (.fault kind size) => (r.1, .fault (va / 4096 * 4096) kind size)
  | some (.ok base _ _) =>
    let x := slotAt r.1 h k
    let pa := base + va % 4096
    match windowSub r.1 x.level x.asid acc pa n with
    | some sub => (r.1, .fault (va / 4096 * 4096) sub 0xF)
    | none => (r.1, .ok pa n)

def piecePas (s : State) (h k : Nat) (acc : Acc) : List (Nat × Nat) → State × List PieceRes
  | [] => (s, [])
  | p :: ps =>
    let r := piecePa s h k acc p.1 p.2
    let q := piecePas r.1 h k acc ps
    (q.1, r.2 :: q.2)

/-- The fault entries of pieces, one for each page and kind. DEDUCED: an ordered packed element whose bytes lie on two faulting
pages lists both, where R240 speaks of one faulting page (log 83). -/
def pieceFaults (access : Nat) (l : List PieceRes) : List FaultEntry :=
  (l.filterMap (fun r => match r with
    | .fault page kind size => some ⟨(page : Int), kind, access, size, 1⟩
    | _ => none)).eraseDups

/-- The physical pieces of a memory-side access, or its faults. -/
def memPieces (s : State) (h k : Nat) (acc : Acc) (access : Nat) (l : List (Nat × Nat)) :
    ElemEff (State × List (Nat × Nat)) :=
  let r := piecePas s h k acc l
  if r.2.any (fun q => q == .held) then .error (.wait r.1)
  else
    match pieceFaults access r.2 with
    | [] => .ok (r.1, r.2.filterMap (fun q => match q with | .ok pa n => some (pa, n) | _ => none))
    | f => .error (.fault r.1 f)

/-- A stream may access a place now: a read waits for a full line (R217, R386), and both wait for a Square cell's
scoreboard and landed bit (R387). -/
def pieceReady (s : State) (wr : Bool) (pa : Nat) : Bool :=
  match regionOf pa with
  | .vault c o => wr || !lineReadsEmpty s c o
  | .square c r j _ =>
    match holderOf s c (j / 16) with
    | none => true
    | some g => !(s.hartAt g).heldRow r && !unlanded s c r (j / 16)
  | _ => true

/-- Bytes of elements of ESIZE 2 to 5; 1 for packed elements. -/
def Slot.elemBytes (x : Slot) : Nat := if x.wbits < 8 then 1 else x.wbits / 8

/-- The accesses that reach a memory-side place: the bytes that hold a packed element, and element-sized parts of a token
row (R223, R229). -/
def Slot.pieces (x : Slot) (p : Place) : List (Nat × Nat) :=
  match p with
  | .bytes a n => (List.range (n / x.elemBytes)).map (fun i => ((a.toNat + i * x.elemBytes) % pow2 64, x.elemBytes))
  | .bits l => ((l.map (fun q => q.1.toNat)).eraseDups).map (fun a => (a, 1))
  | _ => []

/-- The memory-side place is aligned and not negative (R239 kind 2). -/
def Slot.placeFault (x : Slot) (p : Place) : Option Nat :=
  match p with
  | .bytes a _ => if a.toNat % x.elemBytes = 0 then none else some (a.toNat / 4096 * 4096)
  | .negative => some (x.mbase.toNat / 4096 * 4096)
  | _ => none

/-! Values at places -/

/-- The value at a place, from a reader of bytes. -/
def placeValue (rd : Nat → Nat) : Place → Nat
  | .bytes a n => (List.range n).foldr (fun i acc => rd (a.toNat + i) + 256 * acc) 0
  | .bits l => l.foldr (fun p acc => rd p.1.toNat / pow2 p.2 % 2 + 2 * acc) 0
  | _ => 0

/-- A byte with bits of a packed element replaced: bit `q.1` of `v` goes to bit `q.2.2`. -/
def mergeBits (old v : Nat) (l : List (Nat × Int × Nat)) : Nat :=
  l.foldl (fun b q => b - b / pow2 q.2.2 % 2 * pow2 q.2.2 + v / pow2 q.1 % 2 * pow2 q.2.2) old

/-- The bytes that writing `v` at a place stores. -/
def placeWrites (rd : Nat → Nat) (v : Nat) : Place → List (Nat × Nat)
  | .bytes a n => (List.range n).map (fun i => (a.toNat + i, v / pow2 (8 * i) % 256))
  | .bits l => ((l.map (fun p => p.1.toNat)).eraseDups).map (fun a => (a, mergeBits (rd a) v ((enumList l).filter (fun q => decide (q.2.1 = (a : Int))))))
  | _ => []

/-- The lowest offset of a Vault-side place that lies outside the Vault, as its fault names it. -/
def placeLow (p : Place) : Int :=
  match p with
  | .below lo => lo
  | _ => lowestOutside p.addrs
where
  /-- The lowest listed offset outside the Vault. -/
  lowestOutside (l : List Int) : Int :=
  match l.filter (fun a => decide (a < 0) || decide ((vaultBytes : Int) ≤ a)) with
  | [] => 0
  | a :: l => l.foldl (fun x y => if y < x then y else x) a

/-- The offsets of the Vault lines that a place touches. -/
def placeLines (p : Place) : List Nat := (p.offs.map (fun a => a / 128 * 128)).eraseDups

/-! What an element does (R231) -/

inductive ElemSrc where
  | fill (v : Nat)
  | mem (p : Place)
  | vault (p : Place)
  deriving DecidableEq, Repr

inductive ElemDst where
  | mem (p : Place)
  | vault (p : Place)
  | reg
  | nothing
  deriving DecidableEq, Repr

/-- Entry `b` of a paged stream's table, read once in a window (R229). -/
def tableEntry (s : State) (h k b : Nat) : ElemEff (State × Nat) :=
  let x := slotAt s h k
  match assoc b x.table with
  | some id => .ok (s, id)
  | none => do
    let r ← memPieces s h k .read 2 [((x.mbase.toNat + 4 * b) % pow2 64, 4)]
    let s := r.1
    if r.2.all (fun p => pieceReady s false p.1) then
      let id := r.2.foldl (fun _ p => peek s p.1 4) 0
      let x := slotAt s h k
      .ok (setSlot s h k { x with table := (b, id) :: x.table }, id)
    else .error (.wait s)

/-- The index of element `e` of an indexed stream (R227), read from the Vault. -/
def indexOf (s : State) (h k e : Nat) : ElemEff Nat :=
  let x := slotAt s h k
  let n := pow2 (fieldAt x.block 0x18 1)
  let a := fieldAt x.block 0x10 8 + e * n
  let c := coreOf h
  if vaultBytes < a + n then elemFault s a 3 0 0xF
  else if lineReadsEmpty s c a then .error (.wait s)
  else if vaultMark s c a then elemFault s (a / 128 * 128) 6 2 0xF
  else .ok (vaultNum s c a n)

/-- FILL repeated over the elements of a token row (R229). -/
def rowFill (x : Slot) (bytes : Nat) : Nat :=
  (List.range (bytes / x.elemBytes)).foldl (fun acc i => acc + x.fill % pow2 x.wbits * pow2 (x.wbits * i)) 0

/-- Source and destination of element `e`. -/
def elemPlan (s : State) (h k e : Nat) : ElemEff (State × ElemSrc × ElemDst) :=
  let x := slotAt s h k
  let fill := x.fill % pow2 x.wbits
  let vp := vaultPlace x e
  match x.func with
  | 3 | 4 => do
    let ix ← indexOf s h k e
    let lim := fieldAt x.block 0x20 8
    let clip := !decide (lim = 0) && decide (lim ≤ ix)
    let mp := (Place.bytes ((x.mbase.toNat + ix * fieldAt x.block 0x1C 4 : Nat) : Int) x.elemBytes).wrap
    if x.func = 3 then .ok (s, if clip then .fill fill else .mem mp, .vault vp)
    else if clip then .ok (s, .fill 0, .nothing)
    else .ok (s, .vault vp, .mem mp)
  | 5 => do
    let p := pagedElem x.block e
    let bytes := fieldAt x.block 0x30 2
    let r ← tableEntry s h k p.2.2
    if fieldAt x.block 0x3C 4 ≤ p.2.1 ∨ r.2 = 0xFFFFFFFF then .ok (r.1, .fill (rowFill x bytes), .vault vp)
    else
      let va := fieldAt x.block 0x10 8 + r.2 * fieldAt x.block 0x18 8 + p.1 * fieldAt x.block 0x20 8
        + p.2.1 % fieldAt x.block 0x32 2 * bytes
      .ok (r.1, .mem (Place.bytes (va : Int) bytes).wrap, .vault vp)
  | _ =>
    let a := affineElem x.block x.ndim e
    let mp := (arrayPlace x.mbase.toNat x.wbits a.1).wrap
    if x.func = 1 then .ok (s, .vault vp, if a.2.2 then .nothing else .mem mp)
    else if x.fillMem then .ok (s, .fill fill, if a.2.2 then .nothing else .mem mp)
    else
      let src := if decide (x.func = 9) || a.2.2 then ElemSrc.fill fill else .mem mp
      .ok (s, src, if x.func = 2 then .reg else .vault vp)

/-- Every Vault line of a place is full. -/
def placeFull (s : State) (c : Nat) (p : Place) : Bool := (placeLines p).all (fun l => !lineReadsEmpty s c l)

/-- A Vault-side place lies in the Vault: kind 3, or kind 2 with the page of the Vault base for a negative packed index
(R239, log 20). -/
def placeCheck (s : State) (x : Slot) (p : Place) (access : Nat) : ElemEff Unit :=
  if placeInVault p then .ok ()
  else
    match p with
    | .negative => elemFault s ((x.vbase.toNat / 4096 * 4096 : Nat) : Int) 2 access 0xF
    | _ => elemFault s (placeLow p) 3 access 0xF

/-- The memory-side pieces of a place, with kind 2 first. -/
def placePieces (s : State) (h k : Nat) (wr : Bool) (p : Place) : ElemEff (State × List (Nat × Nat)) :=
  let x := slotAt s h k
  let access := if wr then 1 else 0
  match x.placeFault p with
  | some page => elemFault s (page : Int) 2 access 0xF
  | none => memPieces s h k (if wr then .write else .read) access (x.pieces p)

/-- The byte at a memory-side address, through the pieces that reach it. -/
def pieceByte (s : State) (vas : List (Nat × Nat)) (pas : List (Nat × Nat)) (va : Nat) : Nat :=
  match (vas.zip pas).find? (fun q => decide (q.1.1 ≤ va % pow2 64) && decide (va % pow2 64 < q.1.1 + q.1.2)) with
  | some q => (peekByte s (q.2.1 + (va % pow2 64 - q.1.1))).toNat
  | none => 0

/-- Any line or cell of the pieces is marked. -/
def piecesMarked (s : State) (pas : List (Nat × Nat)) : Bool := pas.any (fun p => markAny s p.1 p.2)

/-- Write the bytes of the local Vault without changing a line's bit (R217). -/
def putVaultList (s : State) (c : Nat) (l : List (Nat × Nat)) : State :=
  l.foldl (fun s p => setVaultByte s c p.1 (BitVec.ofNat 8 p.2)) s

/-- A byte-sized or wider piece is written whole or not at all; of a byte of packed elements, the bits that `free` admits. -/
def pieceBits (p : Place) (free : Nat → Bool) (va pa : Nat) : List (Nat × Int × Nat) :=
  match p with
  | .bits l => (enumList l).filter (fun q => decide (q.2.1 = (va : Int)) && free (8 * pa + q.2.2))
  | _ => []

/-- Whether any of a piece may be written. -/
def pieceOpen (p : Place) (free : Nat → Bool) (va pa : Nat) : Bool :=
  match p with
  | .bits _ => !(pieceBits p free va pa).isEmpty
  | _ => free (8 * pa)

/-- The pieces of a place, with their physical places, of which any may be written. -/
def openPieces (vas pas : List (Nat × Nat)) (p : Place) (free : Nat → Bool) : List ((Nat × Nat) × Nat × Nat) :=
  (vas.zip pas).filter (fun q => pieceOpen p free q.1.1 q.2.1)

/-- Write a value at a memory-side place, where `free` admits the physical bits. -/
def storePlace (s : State) (vas pas : List (Nat × Nat)) (p : Place) (free : Nat → Bool) (v : Nat) : State :=
  (openPieces vas pas p free).foldl (fun t q =>
    match p with
    | .bits _ => storeAt t q.2.1 1 (mergeBits (pieceByte s vas pas q.1.1) v (pieceBits p free q.1.1 q.2.1))
    | _ => storeAt t q.2.1 q.2.2 v) s

/-- Mark every line or cell of the pieces (R231, R316). -/
def markPieces (s : State) (pas : List (Nat × Nat)) : State := pas.foldl (fun t q => markCopiedAll t q.1 q.2) s

/-! Landing in a register (R232) -/

/-- Square column and low bit of element `e` of an `sldv`; none when it lies at or above the grant's VLMAX (R246). -/
def Slot.cellOf (x : Slot) (e : Nat) : Option (Nat × Nat) :=
  let ew := ewOf x.vew
  let lane := laneOf ew e
  if lane / 16 < grantCount x.grant then some (laneCol x.grant (lane / 16) (lane % 16), elemShift ew e) else none

/-- Element `e` ends a cell all of whose sub-slots this stream has delivered in one pass over its window without a fault: a
reissue delivers the residue elements (R157, R244). -/
def Slot.cellDone (x : Slot) (e : Nat) : Bool :=
  let n := 64 / ewOf x.vew
  decide (e % n = n - 1) && decide (x.s0 ≤ e + 1 - n)
    && (List.range n).all (fun i => !x.fmask.testBit ((e - i) % 1024) && (!x.rvalid || x.residue.testBit ((e - i) % 1024)))

/-- Deliver element `e`, marked or not. -/
def landElem (s : State) (h k e v : Nat) (marked : Bool) : State :=
  let x := slotAt s h k
  let ew := ewOf x.vew
  match x.cellOf e with
  | none => s
  | some (col, sh) =>
    let c := coreOf h
    let hot := (x.hot && !decide (e % (64 / ew) = 0)) || marked
    let s := setCell s c x.vd col (replaceBits (cell s c x.vd col) sh ew v)
    let s := if marked then setCellMark s c x.vd col true
      else if x.cellDone e && !hot then setCellMark s c x.vd col false else s
    let s := setSlot s h k { x with hot := hot }
    s.setHart h ((s.hartAt h).noteWrite x.vd (128 * (groupOf ew e + 1)))

/-- The physical cluster of logical group `j` of a slot. -/
def Slot.groupCluster (x : Slot) (j : Nat) : Option Nat := (clustersOf x.grant)[j]?

/-- Set the landed bit of group `j` of a slot's register. -/
def setGroup (s : State) (h : Nat) (x : Slot) (j : Nat) (u : Bool) : State :=
  match x.groupCluster j with
  | some p => setUnlanded s (coreOf h) x.vd p u
  | none => s

/-- The groups that hold an element still owed by an `sldv`. -/
def Slot.owedGroups (x : Slot) : List Nat :=
  (List.range 8).filter (fun j => x.owesGroupIf (fun _ => true) x.vd j)

/-- The cell that element `e` lands in may be written now (R202). -/
def landReady (s : State) (h : Nat) (x : Slot) : Bool := !(s.hartAt h).heldRow x.vd

/-! Performing an element -/

/-- The value and the mark of an element's source, after its checks and waits; `ready` is false while it waits. -/
def readSrc (s : State) (h k : Nat) (src : ElemSrc) (pas : List (Nat × Nat)) : Nat × Bool :=
  let x := slotAt s h k
  match src with
  | .fill v => (v, false)
  | .mem p => (placeValue (pieceByte s (x.pieces p) pas) p, piecesMarked s pas)
  | .vault p => (placeValue (fun a => (vaultByte s (coreOf h) a).toNat) p,
      (placeLines p).any (fun l => vaultMark s (coreOf h) l))

/-- The elements above `e` that its window has performed already: there are some only when a reissue performs the residue
(R241, R244). -/
def Slot.higherDone (x : Slot) (e : Nat) : List Nat :=
  if x.rvalid then ((List.range (x.winEnd - (e + 1))).map (fun i => e + 1 + i)).filter (fun f => decide (x.s0 ≤ f) && !x.pending f)
  else []

/-- The memory-side place of an element of an indexed store, from its index as the Vault holds it. -/
def scatterPlace (s : State) (h : Nat) (x : Slot) (e : Nat) : Place :=
  let n := pow2 (fieldAt x.block 0x18 1)
  let ix := vaultNum s (coreOf h) (fieldAt x.block 0x10 8 + e * n) n
  let lim := fieldAt x.block 0x20 8
  if ¬ lim = 0 ∧ lim ≤ ix then .none
  else (Place.bytes ((x.mbase.toNat + ix * fieldAt x.block 0x1C 4 : Nat) : Int) x.elemBytes).wrap

/-- The Vault bytes that element `e` may still write: a byte keeps the value of the highest element that wrote it (R234). Places of
packed elements are equal or have no bit in common. -/
def keepsByte (hi : List Place) (p : Place) (a : Nat) : Bool :=
  match p with
  | .bits _ => !hi.contains p
  | _ => !hi.any (fun q => q.offs.contains a)

/-- Element `e` may write a physical bit of its memory-side place: no higher element of the window has written it (R234). DEDUCED:
of a slot that was loaded from an area, which does not carry what its elements have written, an indexed store goes by the index
array (R246, log 84). -/
def Slot.bitFree (s : State) (h : Nat) (x : Slot) (e : Nat) (p : Place) (b : Nat) : Bool :=
  match x.wrote with
  | some l => !l.any (fun w => decide (e < w.1) && decide (w.2.1 ≤ b) && decide (b < w.2.1 + w.2.2))
  | none => !(decide (x.func = 4) && ((x.higherDone e).map (scatterPlace s h x)).contains p)

/-- Note the physical bits that element `e` writes. -/
def Slot.noteWrote (x : Slot) (e : Nat) (vas pas : List (Nat × Nat)) (p : Place) : Slot :=
  let ws := ((vas.zip pas).map (fun q =>
    match p with
    | .bits _ => (pieceBits p (fun _ => true) q.1.1 q.2.1).map (fun b => (e, 8 * q.2.1 + b.2.2, 1))
    | _ => [(e, 8 * q.2.1, 8 * q.2.2)])).flatten
  { x with wrote := x.wrote.map (fun l => ws ++ l) }

/-- Write an element to its destination, leaving what a higher element of its stream has written (R234, log 84). Once a lower
element of the window has faulted, what is written in memory is noted. -/
def writeDst (s : State) (h k e : Nat) (dst : ElemDst) (pas : List (Nat × Nat)) (v : Nat) (marked : Bool) : State :=
  let x := slotAt s h k
  let c := coreOf h
  match dst with
  | .nothing => s
  | .reg => landElem s h k e v marked
  | .mem p =>
    let vas := x.pieces p
    let free := Slot.bitFree s h x e p
    let s := storePlace s vas pas p free v
    let s := if marked then markPieces s ((openPieces vas pas p free).map (fun q => q.2)) else s
    if x.fmask = 0 then s else setSlot s h k ((slotAt s h k).noteWrote e vas pas p)
  | .vault p =>
    let hi := (x.higherDone e).map (vaultPlace x)
    let ws := (placeWrites (fun a => (vaultByte s c a).toNat) v p).filter (fun w => keepsByte hi p w.1)
    let s := putVaultList s c ws
    if marked then ((ws.map (fun w => w.1 / 128 * 128)).eraseDups).foldl (fun s l => setVaultMark s c l true) s else s

/-- Pieces of the source and of the destination: the memory side first, then the Vault side (R239). -/
def elemPieces (s : State) (h k : Nat) (src : ElemSrc) (dst : ElemDst) :
    ElemEff (State × List (Nat × Nat) × List (Nat × Nat)) := do
  match dst with
  | .nothing => .ok (s, [], [])
  | _ =>
    let a ← (match src with | .mem p => placePieces s h k false p | _ => .ok (s, []))
    let b ← (match dst with | .mem p => placePieces a.1 h k true p | _ => .ok (a.1, []))
    let x := slotAt b.1 h k
    match src with | .vault p => placeCheck b.1 x p 0 | _ => .ok ()
    match dst with | .vault p => placeCheck b.1 x p 1 | _ => .ok ()
    .ok (b.1, a.2, b.2)

/-- Perform element `e` of a slot (R231). -/
def performElem (s : State) (h k e : Nat) : ElemEff State := do
  let pl ← elemPlan s h k e
  let pc ← elemPieces pl.1 h k pl.2.1 pl.2.2
  let s := pc.1
  let x := slotAt s h k
  let srcFull := (match pl.2.1, pl.2.2 with
    | _, .nothing => true
    | .vault p, _ => placeFull s (coreOf h) p
    | _, _ => true)
  let regFree := (match pl.2.2 with | .reg => landReady s h x | _ => true)
  if srcFull && regFree && pc.2.1.all (fun p => pieceReady s false p.1) && pc.2.2.all (fun p => pieceReady s true p.1) then
    let r := readSrc s h k pl.2.1 pc.2.1
    .ok (writeDst s h k e pl.2.2 pc.2.2 r.1 r.2)
  else .error (.wait s)

/-- After element `e`: lines of which that was the stream's last write become full, with CEFF for a future fill (R217,
R349), and a group it completed lands (R218). -/
def settleElem (s : State) (h k e : Nat) : State :=
  let x := slotAt s h k
  let c := coreOf h
  if x.func = 2 then
    let j := groupOf (ewOf x.vew) e
    if x.owesGroupIf (fun _ => true) x.vd j then s else setGroup s h x j false
  else if x.loads then
    (placeLines (vaultPlace x e)).foldl (fun s l =>
      if x.owesLine (l / 128) then s
      else
        let s := setLineEmpty s c l false
        if x.clr && !(s.hartAt h).grant.getLsbD (l / pow2 21) then
          s.setHart h { s.hartAt h with stat := { (s.hartAt h).stat with ceff := true } }
        else s) s
  else s

/-- Add a fault to the entries of a window (R242). DEDUCED: a page that fails with two kinds, or for a read and for a write, has
an entry for each, since an entry holds one KIND and one ACCESS (log 83). -/
def addFault (l : List FaultEntry) (f : FaultEntry) : List FaultEntry :=
  let same := fun (g : FaultEntry) =>
    decide (g.kind = f.kind) && (decide (f.kind = 3) || (decide (g.addr = f.addr) && decide (g.access = f.access)))
  if l.any same then
    l.map (fun g => if same g then { g with addr := if f.addr < g.addr then f.addr else g.addr, nel := g.nel + 1 } else g)
  else l ++ [f]

/-- The element after `e`: the window closes when it was the last and none faulted (R238). -/
def stepPast (s : State) (h k e : Nat) : State :=
  let x := { slotAt s h k with next := e + 1 }
  if x.winEnd ≤ e + 1 ∧ x.faults = [] then setSlot s h k (x.reached x.winEnd) else setSlot s h k x

/-- An element performed: what it completes, then the next. -/
def elemDone (s : State) (h k e : Nat) : State :=
  stepPast (settleElem (setSlot s h k { slotAt s h k with next := e + 1 }) h k e) h k e

/-- An element faulted: an ordered stream goes no further (R240), an unordered one goes on (R241). -/
def elemFaulted (s : State) (h k e : Nat) (l : List FaultEntry) : State :=
  let x := slotAt s h k
  setSlot s h k { x with
    faults := l.foldl addFault x.faults
    fmask := x.fmask ||| pow2 (e % 1024)
    next := if x.ordered then e else e + 1 }

/-- The next element of a slot, unless a fault ends its window. -/
def streamElement (s : State) (h k : Nat) : State :=
  let x := slotAt s h k
  let e := x.next
  if x.state = .running ∧ x.winOpen = true ∧ e < x.winEnd ∧ (x.ordered = false ∨ x.faults = []) then
    if x.pending e then
      match performElem s h k e with
      | .ok t => elemDone t h k e
      | .error (.wait t) => t
      | .error (.fault t l) => elemFaulted t h k e l
    else stepPast s h k e
  else s

/-- A hart that counts as quiescent while its core holds removal requests, or that the watchdog forced: its streams begin
no window that translates (R309, R310). -/
def windowHeld (s : State) (h k : Nat) : Bool :=
  let x := s.hartAt h
  !decide ((slotAt s h k).level = .m) && (x.quiet || decide (x.hold = .xlinv) || x.forced) && !(shootQueue s (coreOf h)).isEmpty

/-- A stream begins its next window (R238). -/
def streamWindow (s : State) (h k : Nat) : State :=
  let x := slotAt s h k
  if x.state = .running ∧ x.winOpen = false ∧ windowHeld s h k = false then setSlot s h k x.openWindow else s

/-! Batch records (R242) -/

/-- The two words of an entry. -/
def entryWords (f : FaultEntry) : List Word :=
  [wordOfInt f.addr, wordOf (f.kind + f.access * 16 + f.size * 256 + f.nel % 2048 * 65536)]

/-- Write words to a slot's record area from its first word on, zero after them. -/
def writeRecord (s : State) (h k : Nat) (ws : List Word) : State :=
  (List.range 32).foldl (fun s i => setReg s (recordPa h k + 8 * i) (ws.getD i 0)) s

/-- The record of a window's faults. -/
def batchRecord (x : Slot) (start : Nat) : List Word :=
  [wordOf (Nat.min 14 x.faults.length + (if 14 < x.faults.length then 256 else 0)), wordOf start, wordOf x.winBase, 0]
    ++ ((x.faults.take 14).map entryWords).flatten

/-- The lowest element that faulted in the open window. -/
def Slot.firstFault (x : Slot) : Nat :=
  x.winBase + ((List.range 1024).find? (fun i => x.fmask.testBit i)).getD 0

/-- A stream stops on its faults (R240 to R242). -/
def streamStop (s : State) (h k : Nat) : State :=
  let x := slotAt s h k
  if x.state = .running ∧ x.winOpen = true ∧ ¬ x.faults = [] ∧ (x.ordered = true ∨ x.winEnd ≤ x.next) then
    let start := x.firstFault
    let s := writeRecord s h k (batchRecord x start)
    setSlot s h k { x.closed with
      state := .faulted
      start := start
      rvalid := !x.ordered
      residue := if x.ordered then 0 else x.fmask
      ovf := decide (14 < x.faults.length) }
  else s

/-- The three events of a stream agent. An event whose slot is not in the state it needs has no effect. -/
def execStreamWindowStart (hart slot : Nat) (s : State) : Outcome State Fault Refusal := .next (streamWindow s hart slot)
def execStreamElementPerform (hart slot : Nat) (s : State) : Outcome State Fault Refusal :=
  .next (streamElement s hart slot)
def execStreamFaultStop (hart slot : Nat) (s : State) : Outcome State Fault Refusal := .next (streamStop s hart slot)

end Sys2Proof.Machine
end

