-- ==== Sys2Proof/Machine/Streams.lean ====
section
/-! DEFINITION. Stream instructions, major 0x3A (spec/07_vault_streams.md R219 to R237, R244 to R246). -/

namespace Sys2Proof.Machine

open Host (Outcome)

/-! Parameter blocks -/

/-- The block kind a form accepts (R231). -/
def formKind (func : Nat) : Nat := if func = 3 ∨ func = 4 then 1 else if func = 5 then 2 else 0

/-- Bytes [lo, hi) of a block are zero. -/
def zeroBytes (b lo hi : Nat) : Bool := decide (fieldAt b lo (hi - lo) = 0)

/-- One dimension of an affine block (R224). -/
def dimOk (b nd d : Nat) : Bool :=
  let o := 0x10 + 32 * d
  if d < nd then decide (1 ≤ fieldAt b o 4) && zeroBytes b (o + 12) (o + 16) else zeroBytes b o (o + 32)

/-- The kind's own fields are legal (R222, R224, R226 to R228). `nd`, `cnt`, `usevl` and `repack` are header fields. -/
def kindOk (func es b : Nat) : Bool :=
  let nd := fieldAt b 3 1
  let cnt := fieldAt b 4 4
  let fl := fieldAt b 2 1
  let usevl := decide (fl % 2 = 1)
  let repack := decide (fl / 2 % 2 = 1)
  let repackOk := !repack || (decide (func = 0) && decide (es = 1))
  match fieldAt b 0 1 with
  | 0 => decide (1 ≤ nd) && decide (nd ≤ 6) && decide (cnt = 0) && repackOk
      && (List.range 6).all (dimOk b nd) && zeroBytes b 0xD0 0x100
  | 1 =>
    let isz := fieldAt b 0x18 1
    decide (nd = 0) && !repack && decide (2 ≤ es) && decide (1 ≤ isz) && decide (isz ≤ 3) && (!usevl || decide (cnt = 0))
      && zeroBytes b 0x19 0x1C && zeroBytes b 0x30 0x40 && decide (fieldAt b 0x10 8 % pow2 isz = 0)
  | 2 =>
    let tok := fieldAt b 0x30 2
    decide (nd = 0) && decide (cnt = 0) && !usevl && !repack && decide (2 ≤ es) && decide (1 ≤ tok) && decide (tok ≤ 4096)
      && decide (tok % pow2 (es - 2) = 0) && decide (1 ≤ fieldAt b 0x32 2) && decide (fieldAt b 0x32 2 ≤ 4096)
      && decide (1 ≤ fieldAt b 0x34 2) && decide (fieldAt b 0x34 2 ≤ 256) && zeroBytes b 0x36 0x38
  | _ => false

/-- The element count of a block (R225, R227, R229, R232). -/
def blockCount (func vl b : Nat) : Nat :=
  let usevl := decide (fieldAt b 2 1 % 2 = 1)
  if func = 2 then vl
  else
    match fieldAt b 0 1 with
    | 0 => if usevl then vl else affineCount b (fieldAt b 3 1)
    | 1 => if usevl then vl else fieldAt b 4 4
    | _ => pagedCount b

/-- Step 4 of R233: the block's n, or none when the block is in error. `vew` is the width code at issue. -/
def blockN (func vl vew b : Nat) : Option Nat :=
  let es := fieldAt b 1 1
  let n := blockCount func vl b
  if (func ≤ 5 ∨ func = 9) ∧ fieldAt b 0 1 = formKind func ∧ es ≤ 5 ∧ fieldAt b 2 1 < 4 ∧ kindOk func es b = true
      ∧ (func = 2 → es = vew + 2) ∧ n < pow2 32 then some n
  else none

/-- The record of a block error, and the trap (R233 step 4). -/
def blockError {α : Type} (s : State) (k : Nat) (addr : Word) : Eff α :=
  raise (writeRecord s s.cur k ([1, 0, 0, 0] ++ entryWords ⟨(addr.toNat : Int), 4, 0, 0xF, 0⟩)) (tStreamOf s.cur k)

/-! Issue -/

/-- The slot an instruction names is not RUNNING (R219). -/
def notRunning (s : State) (k : Nat) : Eff Unit :=
  if (slotAt s s.cur k).state = .running then waitFor s .retry else .ok ()

/-- The slot is not FAULTED (R219, R233 step 1). -/
def notFaulted (s : State) (k : Nat) : Eff Unit :=
  need (!decide ((slotAt s s.cur k).state = .faulted)) s (tStreamOf s.cur k)

/-- The parameter block (R222): 64 bytes, or 256 for the affine kind. -/
def readBlock (s : State) (va : Word) : Eff (State × Nat) := do
  let r ← hartReadWords s va 8
  if r.2 % 256 = 0 then hartReadWords r.1 va 32 else .ok r

/-- Step 5 of R233: the bases are aligned to the element bytes. -/
def basesAligned (s : State) (func es : Nat) (mem : Bool) (m v : Word) : Eff Unit := do
  let b := pow2 (es - 2)
  need (!decide (func = 5) || decide (m.toNat % 4 = 0)) s (tMisalign m)
  need (decide (es < 2) || decide (func = 5) || (decide (func = 9) && !mem) || decide (m.toNat % b = 0)) s (tMisalign m)
  need (decide (es < 2) || decide (func = 2) || mem || decide (v.toNat % b = 0)) s (tMisalign v)

/-- The groups of elements [lo, hi) at width `ew`. -/
def groupsOf (ew lo hi : Nat) : List Nat :=
  (List.range 8).filter (fun j => (decide (lo < (j + 1) * (1024 / ew)) && decide (j * (1024 / ew) < hi)) && decide (lo < hi))

/-- Every listed group of a row is landed, or the hart stalls (R232). -/
def groupsLanded (s : State) (row : Nat) : List Nat → Eff Unit
  | [] => .ok ()
  | j :: js =>
    let p := (clustersOf s.hart.grant).getD j 0
    if unlanded s (coreOf s.cur) row p then stallGroup s row p else groupsLanded s row js

/-- A slot as an issue records it (R220). -/
def issuedSlot (s : State) (bits m v : Word) (n s0 b : Nat) : Slot :=
  { Slot.reset with
    bits := bits
    mbase := m
    vbase := v
    n := n
    s0 := s0
    start := s0
    root := s.hart.root
    asid := s.hart.asid
    level := s.hart.level
    vl := s.hart.conf.vl
    vew := s.hart.conf.vew
    grant := s.hart.grant
    block := b }

/-- The lines that a `.clr` stream will write become empty (R217). -/
def clearLines (s : State) (x : Slot) : State :=
  if x.clr then
    x.pendingList.foldl (fun s e =>
      if placeInVault (vaultPlace x e) then
        (placeLines (vaultPlace x e)).foldl (fun s l => setLineEmpty s (coreOf s.cur) l true) s
      else s) s
  else s

/-- The groups that an `sldv` owes are not landed (R218, R232). -/
def clearGroups (s : State) (x : Slot) : State :=
  if x.func = 2 then x.owedGroups.foldl (fun s j => setGroup s s.cur x j true) s else s

/-- Put a stream into a slot and start it (R220, R244). -/
def startSlot (s : State) (k : Nat) (x : Slot) : State :=
  setSlot (clearGroups (clearLines s x) x) s.cur k x.begin

/-- The issue of a stream (R220, R233) with block register `p`; `m` is the memory base register's value plus the offset and
`v` the Vault base. -/
def issue (i : Instr) (o : StOp) (func : Nat) (p : SReg) (m v : Word) (s : State) : Outcome State Fault Refusal :=
  let k := o.slot.toNat
  let mem := decide (func = 9) && decide (2 ≤ o.smod.toNat)
  finish (do
    computeOnly s i
    need (!decide (func = 2) || !decide (s.hart.grant = 0)) s (tNolease (instrBits i))
    notRunning s k
    notFaulted s k
    let a := s.rS p
    need (decide (a.toNat % 64 = 0)) s (tMisalign a)
    let r ← readBlock s a
    let s := r.1
    match blockN func s.vl s.hart.conf.vew.toNat r.2 with
    | none => blockError s k a
    | some n => do
      basesAligned s func (fieldAt r.2 1 1) mem m v
      let s0 := if func = 2 then s.vsi else 0
      if func = 2 then groupsLanded s o.vd.toNat (groupsOf s.ew s0 n) else .ok ()
      let s := startSlot s k (issuedSlot s (instrBits i) m v n s0 r.2)
      done (s.setVsi 0) 8)

/-- The memory base (R230). -/
def streamM (s : State) (o : StOp) : Word := s.rS o.sa + o.imm.signExtend 64

/-- The block register of the forms that name it in VD (R230). -/
def blockReg (o : StOp) : SReg := BitVec.ofNat 5 o.vd.toNat

def execSld (o : StOp) (s : State) : Outcome State Fault Refusal :=
  issue (.sld o) o 0 (blockReg o) (streamM s o) (s.rS o.sb) s

def execSst (o : StOp) (s : State) : Outcome State Fault Refusal :=
  issue (.sst o) o 1 (blockReg o) (streamM s o) (s.rS o.sb) s

def execSldv (o : StOp) (s : State) : Outcome State Fault Refusal :=
  issue (.sldv o) o 2 o.sb (streamM s o) (wordOf o.vd.toNat) s

def execSgather (o : StOp) (s : State) : Outcome State Fault Refusal :=
  issue (.sgather o) o 3 (blockReg o) (streamM s o) (s.rS o.sb) s

def execSscatter (o : StOp) (s : State) : Outcome State Fault Refusal :=
  issue (.sscatter o) o 4 (blockReg o) (streamM s o) (s.rS o.sb) s

def execSpaged (o : StOp) (s : State) : Outcome State Fault Refusal :=
  issue (.spaged o) o 5 (blockReg o) (streamM s o) (s.rS o.sb) s

def execSfill (o : StOp) (s : State) : Outcome State Fault Refusal :=
  issue (.sfill o) o 9 (blockReg o) 0 (s.rS o.sb) s

def execSfillM (o : StOp) (s : State) : Outcome State Fault Refusal :=
  issue (.sfillM o) o 9 (blockReg o) (streamM s o) 0 s

/-! The other stream instructions -/

/-- `sbar` (R237): accesses perform as they are made, so PRE has nothing left to order (log 3). -/
def execSbar (o : StOp) (s : State) : Outcome State Fault Refusal :=
  let named := (List.range 16).filter (fun k => o.imm.getLsbD k)
  finish (do
    computeOnly s (.sbar o)
    if named.any (fun k => decide ((slotAt s s.cur k).state = .running)) then waitFor s .retry
    else
      match named.find? (fun k => decide ((slotAt s s.cur k).state = .faulted)) with
      | some k => raise s (tStreamOf s.cur k)
      | none => done s 8)

/-- `swp` (R235). -/
def execSwp (o : StOp) (s : State) : Outcome State Fault Refusal :=
  finish (do
    computeOnly s (.swp o)
    done (s.wS o.sa (wordOf (slotAt s s.cur o.slot.toNat).pointer)) 8)

/-- `sstat` (R221). -/
def execSstat (o : StOp) (s : State) : Outcome State Fault Refusal :=
  finish (do
    computeOnly s (.sstat o)
    done (s.wS o.sa (slotAt s s.cur o.slot.toNat).status) 8)

/-- `sres` (R244). -/
def execSres (o : StOp) (s : State) : Outcome State Fault Refusal :=
  let k := o.slot.toNat
  finish (do
    computeOnly s (.sres o)
    let x := slotAt s s.cur k
    done (if x.state = .faulted then setSlot s s.cur k x.begin else s) 8)

/-- `scancel` (R245): elements perform one at a time, so none is in flight. -/
def execScancel (o : StOp) (s : State) : Outcome State Fault Refusal :=
  let k := o.slot.toNat
  finish (do
    computeOnly s (.scancel o)
    let x := slotAt s s.cur k
    if x.state = .running ∨ x.state = .faulted then
      let s := if x.func = 2 then x.owedGroups.foldl (fun s j => setGroup s s.cur x j false) s else s
      done (setSlot s s.cur k { x.closed with state := .idle, start := x.pointer, rvalid := false, residue := 0 }) 8
    else done s 8)

/-! Saving and loading a slot (R246) -/

/-- The 512 bytes of a saved slot as one number. -/
def saveArea (x : Slot) : Nat :=
  let sv := decide (x.func = 2)
  let words : List Nat :=
    [x.status.toNat, x.bits.toNat, x.mbase.toNat, x.vbase.toNat, x.n, x.winBase,
      x.asid.toNat + levelCode x.level * pow2 16,
      if sv then x.vl.toNat + x.vew.toNat * pow2 16 + x.grant.toNat * pow2 24 else 0,
      x.root.toNat * 4096]
  digits 64 words + pow2 1024 * x.residue + pow2 2048 * x.block

/-- The physical addresses of `n` consecutive 64-byte chunks of the save area at `a`, whose faults name the area (R246). -/
def chunkPas (a : Word) (s : State) (acc : Acc) : Nat → Word → Eff (State × List Nat)
  | 0, _ => .ok (s, [])
  | n + 1, va => do
    let p ← areaPa a s va acc 64
    let r ← chunkPas a p.1 acc n (va + 64)
    .ok (r.1, p.2 :: r.2)

/-- Read consecutive chunks as one number. -/
def readArea (s : State) : List Nat → Eff Nat
  | [] => .ok 0
  | p :: ps => do
    let v ← readAt s p 64
    let r ← readArea s ps
    .ok (v + pow2 512 * r)

/-- Store a number in consecutive chunks. -/
def storeChunks (s : State) (v : Nat) : List Nat → State
  | [] => s
  | p :: ps => storeChunks (storeAt s p 64 (v % pow2 512)) (v / pow2 512) ps

/-- `sstat.save` (R246). -/
def execSstatSave (o : StOp) (s : State) : Outcome State Fault Refusal :=
  let k := o.slot.toNat
  finish (do
    computeOnly s (.sstatSave o)
    needS s (.sstatSave o)
    aligned s (s.rS o.sa) 64
    notRunning s k
    let r ← chunkPas (s.rS o.sa) s .write 8 (s.rS o.sa)
    partsReady r.1 writeReady r.2
    done (storeChunks r.1 (saveArea (slotAt r.1 s.cur k)) r.2) 8)

/-- The state a code of the status word names. -/
def slotStateOf : Nat → Option SlotState
  | 0 => some .idle | 2 => some .done | 3 => some .faulted | _ => none

/-- The checks of a saved slot (R246): the state it loads as. -/
def savedState (b : Nat) : Option SlotState :=
  let st := fieldAt b 0 8
  let bitsv := fieldAt b 8 8
  let func := bitsv / pow2 18 % 16
  let blk := fieldAt b 0x100 256
  let vs := fieldAt b 0x38 8
  if st / pow2 59 = 0 ∧ st / 1024 % 64 = 0 ∧ st / 16 % 16 = func then
    (slotStateOf (st % 8)).bind (fun q =>
      if q = .faulted then (blockN func (vs % 2048) (vs / pow2 16 % 4) blk).map (fun _ => q) else some q)
  else none

/-- The slot that an area holds; an `sldv` takes its places from the current grant and drops elements at or above VLMAX. -/
def loadedSlot (s : State) (b : Nat) (q : SlotState) : Slot :=
  let st := fieldAt b 0 8
  let ctx := fieldAt b 0x30 8
  let vs := fieldAt b 0x38 8
  { Slot.reset with
    state := q
    bits := wordOf (fieldAt b 8 8)
    mbase := wordOf (fieldAt b 0x10 8)
    vbase := wordOf (fieldAt b 0x18 8)
    n := if fieldAt b 8 8 / pow2 18 % 16 = 2 then
        Nat.min (fieldAt b 0x20 8) (vlmax (grantCount s.hart.grant) (ewOf (BitVec.ofNat 2 (vs / pow2 16))))
      else fieldAt b 0x20 8
    s0 := st / pow2 16 % pow2 32
    start := st / pow2 16 % pow2 32
    winBase := fieldAt b 0x28 8
    residue := fieldAt b 0x80 128
    rvalid := st.testBit 8
    ovf := st.testBit 9
    root := BitVec.ofNat 40 (fieldAt b 0x40 8 / 4096)
    asid := BitVec.ofNat 16 ctx
    level := (levelOfCode (ctx / pow2 16 % 4)).getD .u
    vl := BitVec.ofNat 11 vs
    vew := BitVec.ofNat 2 (vs / pow2 16)
    grant := s.hart.grant
    block := fieldAt b 0x100 256
    wrote := none }

/-- The load form of `sres` (R246). DEDUCED: the record of an area that fails names the block inside the area, at `s[SA]` + 0x100
(R233, log 105). -/
def execSresLoad (o : StOp) (s : State) : Outcome State Fault Refusal :=
  let k := o.slot.toNat
  finish (do
    computeOnly s (.sresLoad o)
    needS s (.sresLoad o)
    let a := s.rS o.sa
    aligned s a 64
    notRunning s k
    let r ← chunkPas a s .read 8 a
    let s := r.1
    partsReady s readReady r.2
    let v ← readArea s r.2
    match savedState v with
    | none => blockError s k (a + 0x100)
    | some .faulted =>
      let x := loadedSlot s v .faulted
      done (setSlot (clearGroups s x) s.cur k x.begin) 8
    | some q => done (setSlot s s.cur k (loadedSlot s v q)) 8)

end Sys2Proof.Machine
end

