-- ==== Sys2Proof/Machine/Transcend.lean ====
section
/-! DEFINITION. The irrational functions of the special-function unit (spec/05_vector.md R172, R173) and the square
root (R116), as exact values where the result is rational and as rationals that round as the exact result does
elsewhere (log entry 11). Fixed-point numbers have 400 fraction bits. -/

namespace Sys2Proof.Machine

/-- Fraction bits of the fixed-point working format. -/
def fxBits : Nat := 400
def fxOne : Nat := pow2 fxBits

/-- Newton's iteration for the integer square root, from above. -/
def isqrtLoop : Nat → Nat → Nat → Nat
  | 0, _, x => x
  | fuel + 1, n, x =>
    let y := (x + n / x) / 2
    if x ≤ y then x else isqrtLoop fuel n y

/-- floor(√n). -/
def isqrt (n : Nat) : Nat :=
  if n = 0 then 0 else isqrtLoop 400 n (pow2 (Nat.log2 n / 2 + 1))

/-- √(n/d) with 300 further fraction bits: exact when n·d is a square. -/
def sqrtRat (n d : Nat) : Val :=
  let r := isqrt (n * d)
  if r * r = n * d then mkFin false r d
  else .fin false (2 * isqrt (n * d * pow2 600) + 1) (2 * d * pow2 300)

/-- √a with the special cases of R116. -/
def vsqrt (a : Val) : Val × Flags :=
  match a with
  | .nan s => (.nan false, sigFlag (.nan s))
  | .inf neg => if neg then (.nan false, fNV) else (.inf false, 0)
  | .fin neg n d =>
    if n = 0 then (.fin neg 0 1, 0) else if neg then (.nan false, fNV) else (sqrtRat n d, 0)

/-- 1/√a (R172). -/
def vrsqrt (a : Val) : Val × Flags :=
  match a with
  | .nan s => (.nan false, sigFlag (.nan s))
  | .inf neg => if neg then (.nan false, fNV) else (.fin false 0 1, 0)
  | .fin neg n d =>
    if n = 0 then (.inf neg, fDZ) else if neg then (.nan false, fNV) else (sqrtRat d n, 0)

/-- 1/a (R172). -/
def vrecip (a : Val) : Val × Flags :=
  match a with
  | .nan s => (.nan false, sigFlag (.nan s))
  | .inf neg => (.fin neg 0 1, 0)
  | .fin neg n d => if n = 0 then (.inf neg, fDZ) else (.fin neg d n, 0)

/-- The Taylor sum of e^t − 1 for a fixed-point t: the term after `term` is term·t/k. -/
def expLoop : Nat → Nat → Nat → Nat → Nat → Nat
  | 0, _, _, _, acc => acc
  | fuel + 1, t, k, term, acc =>
    let nxt := term * t / (k * fxOne)
    expLoop fuel t (k + 1) nxt (acc + nxt)

/-- e^t − 1 for a fixed-point t below 1. -/
def expm1Fx (t : Nat) : Nat := expLoop 100 t 1 fxOne 0

/-- ln 2 as the sum of 1/(k·2^k). -/
def ln2Loop : Nat → Nat → Nat
  | 0, acc => acc
  | k + 1, acc => ln2Loop k (acc + fxOne / ((k + 1) * pow2 (k + 1)))

def ln2Fx : Nat := ln2Loop 400 0

/-- 2^(i + f/2^400) for a fixed-point fraction f: exact when f is 0. -/
def exp2Split (i : Int) (f : Nat) : Val :=
  if f = 0 then scaled false 1 i
  else
    match scaled false (2 * (fxOne + expm1Fx (f * ln2Fx / fxOne)) + 1) i with
    | .fin s n d => .fin s n (d * (2 * fxOne))
    | v => v

/-- 2^(±n/d). Beyond ±4000 the result is replaced by 2^±4000, which every format rounds alike. -/
def exp2Rat (neg : Bool) (n d : Nat) : Val :=
  if 4000 * d < n then scaled false 1 (if neg then -4000 else 4000)
  else
    let x : Int := if neg then -(n : Int) else (n : Int)
    let i := x / (d : Int)
    let rem := (x % (d : Int)).toNat
    let f := rem * fxOne / d
    if rem = 0 then scaled false 1 i else exp2Split i (if f = 0 then 1 else f)

/-- 2^a (R172). -/
def vexp2 (a : Val) : Val × Flags :=
  match a with
  | .nan s => (.nan false, sigFlag (.nan s))
  | .inf neg => (if neg then .fin false 0 1 else .inf false, 0)
  | .fin neg n d => (exp2Rat neg n d, 0)

/-- The series z + z³/3 + z⁵/5 + … of the inverse hyperbolic tangent in fixed point. -/
def atanhLoop : Nat → Nat → Nat → Nat → Nat → Nat
  | 0, _, _, _, acc => acc
  | fuel + 1, z2, k, p, acc => atanhLoop fuel z2 (k + 2) (p * z2 / fxOne) (acc + p / k)

/-- log2(n/d) for positive n/d: exact for a power of two. -/
def log2Val (n d : Nat) : Val :=
  let e := log2Rat n d
  let nn := match e with | .ofNat _ => n | .negSucc j => n * pow2 (j + 1)
  let dd := match e with | .ofNat j => d * pow2 j | .negSucc _ => d
  if nn = dd then valOfInt e
  else
    let z := (nn - dd) * fxOne / (nn + dd)
    let ln := 2 * atanhLoop 140 (z * z / fxOne) 1 z 0
    let frac := ln * fxOne / ln2Fx
    let s : Int := e * (fxOne : Int) + (frac : Int)
    .fin (decide (s < 0)) (2 * s.natAbs + 1) (2 * fxOne)

/-- log2 a (R172). -/
def vlog2 (a : Val) : Val × Flags :=
  match a with
  | .nan s => (.nan false, sigFlag (.nan s))
  | .inf neg => if neg then (.nan false, fNV) else (.inf false, 0)
  | .fin neg n d =>
    if n = 0 then (.inf true, fDZ) else if neg then (.nan false, fNV) else (log2Val n d, 0)

/-- tanh(n/d) for positive n/d. -/
def tanhRat (neg : Bool) (n d : Nat) : Val :=
  if 256 * d ≤ n then .fin neg (pow2 600 - 1) (pow2 600)
  else if n * pow2 60 < d then
    -- x − x³/3
    .fin neg (n * (3 * (d * d) - n * n)) (3 * (d * d * d))
  else
    -- e^(2x) = 2^i · e^t with 2x = i ln 2 + t
    let x2 := 2 * n * fxOne / d
    let i := x2 / ln2Fx
    let em := pow2 i * (fxOne + expm1Fx (x2 % ln2Fx)) - fxOne
    .fin neg em (em + 2 * fxOne)

/-- tanh a (R172). -/
def vtanh (a : Val) : Val × Flags :=
  match a with
  | .nan s => (.nan false, sigFlag (.nan s))
  | .inf neg => (.fin neg 1 1, 0)
  | .fin neg n d => if n = 0 then (.fin neg 0 1, 0) else (tanhRat neg n d, 0)

end Sys2Proof.Machine
end

