-- ==== Sys2Proof/Machine/AssayerRun.lean ====
section
/-! DEFINITION. The Assayer of a die as an agent (spec/16_assayer.md R351 to R361, R366, R367): the accesses it makes for a
sample, an attempt's combinations, the step-size decision, and its traffic on the three avenues. -/

namespace Sys2Proof.Machine

open Host (Outcome)

def sampleAt (s : State) (d i : Nat) : Sample := sget Sample.reset s.dies.samples (d * 4096 + i)

def setSample (s : State) (d i : Nat) (x : Sample) : State :=
  { s with dies := { s.dies with samples := sset Sample.reset s.dies.samples (d * 4096 + i) x } }

/-- The method in a slot of die `d` (R354), as one number. -/
def methodAt (s : State) (d m : Nat) : Option Nat := sget none s.dies.methods (d * 4 + m)

/-! Numbers: RNE, no saturation, no flags (R357) -/

def rneRnd : Rnd := ⟨.rne, false, 0, 0, 0⟩
def code32 (v : Val) : BitVec 32 := BitVec.ofNat 32 (round .fp32 v rneRnd).1
def val32 (c : BitVec 32) : Val := decode .fp32 c.toNat
def to32 (v : Val) : Val := val32 (code32 v)
def to64 (v : Val) : Val := decode .fp64 (round .fp64 v rneRnd).1
def mulV (a b : Val) : Val := (vmul a b).1
def sumV (l : List Val) : Val := (vsum .rne l).1
def minV (a b : Val) : Val := if vless b a then b else a
def maxV (a b : Val) : Val := if vless a b then b else a
def finiteV : Val → Bool
  | .fin _ _ _ => true
  | _ => false

/-- `fp32` number `k` from byte `off` of a method table (R354). -/
def coefAt (b off k : Nat) : Val := decode .fp32 (fieldAt b (off + 4 * k) 4)
def mStages (b : Nat) : Nat := fieldAt b 0 1
def mFsal (b : Nat) : Bool := decide (fieldAt b 2 1 % 2 = 1)
def mC (b j : Nat) : Val := coefAt b 0x10 j
def mB (b p : Nat) : Val := coefAt b 0x30 p
def mBhat (b p : Nat) : Val := coefAt b 0x50 p
def mA (b p q : Nat) : Val := coefAt b (0x70 + 32 * p) q

/-- The controller parameters in the order of R354: SAFE, FMIN, FMAX, ALPHA, BETA, ATOL, RTOL, HMIN, HMAX. -/
def mCtl (b k : Nat) : Val := coefAt b 0x170 k

/-! Where a sample's vectors lie (R356) -/

def Sample.pad (x : Sample) : Nat := 128 * ((x.n + 31) / 32)
def Sample.kAddr (x : Sample) (j : Nat) : Nat := (x.hist.toNat + j * x.pad) % pow2 64
def Sample.inputAddr (x : Sample) (b : Nat) : Nat := x.kAddr (mStages b)
def Sample.newAddr (x : Sample) (b : Nat) : Nat := x.kAddr (mStages b + 1)

/-! Accesses made for a sample -/

/-- How an access of the Assayer stops: it waits, or the sample ends with STATUS 4 or 5 and FADDR (R367). -/
inductive AsmStop where
  | wait
  | fail (s : State) (status faddr : Nat)
  deriving DecidableEq, Repr

abbrev AsmEff (α : Type) := Except AsmStop α

/-- The physical place of `n` bytes at a virtual address, in the sample's context (R356). -/
def samplePa (s : State) (d : Nat) (x : Sample) (acc : Acc) (va n : Nat) : AsmEff (State × Nat) :=
  let window := fun (s : State) (pa : Nat) =>
    match windowSub s x.level x.asid acc pa n with
    | some _ => (.error (.fail s 4 va) : AsmEff (State × Nat))
    | none => if pieceReady s (decide (acc = .write)) pa then .ok (s, pa) else .error .wait
  if x.level = .m then window s va
  else
    match translate s ⟨x.level, x.root, x.asid, 520 + d⟩ va acc with
    | (s, .ok pa _ _ _) => window s pa
    | (s, .fault _ _) => .error (.fail s 4 va)
    | (s, .poison line) => .error (.fail s 5 line)
    | (_, .held) => .error .wait

/-- Element `i` of the `fp32` vector at `base`. -/
def readElem (s : State) (d : Nat) (x : Sample) (base i : Nat) : AsmEff (State × Nat) := do
  let p ← samplePa s d x .read ((base + 4 * i) % pow2 64) 4
  if markAny p.1 p.2 4 then .error (.fail p.1 5 (poisonPa p.2))
  else .ok (p.1, peek p.1 p.2 4)

def writeElem (s : State) (d : Nat) (x : Sample) (base i v : Nat) : AsmEff State := do
  let p ← samplePa s d x .write ((base + 4 * i) % pow2 64) 4
  .ok (storeAt p.1 p.2 4 v)

/-- Element `i` of each listed vector. -/
def readElems (s : State) (d : Nat) (x : Sample) (i : Nat) : List Nat → AsmEff (State × List Val)
  | [] => .ok (s, [])
  | b :: bs => do
    let r ← readElem s d x b i
    let q ← readElems r.1 d x i bs
    .ok (q.1, decode .fp32 r.2 :: q.2)

/-- Perform `f` on elements `i` to `i + n - 1`. -/
def forElems {α : Type} (f : Nat → State × α → AsmEff (State × α)) : Nat → Nat → State × α → AsmEff (State × α)
  | 0, _, a => .ok a
  | n + 1, i, a => do
    let b ← f i a
    forElems f n (i + 1) b

/-- Write round(`fp32`, y[i] + the sum of coefficient times vector element) to `dst` for every element (R357). -/
def combine (s : State) (d : Nat) (x : Sample) (terms : List (Val × Nat)) (dst : Nat) : AsmEff State := do
  let r ← forElems (fun i a => do
    let y ← readElem a.1 d x x.y.toNat i
    let k ← readElems y.1 d x i (terms.map (fun t => t.2))
    let v := sumV (decode .fp32 y.2 :: (terms.zip k.2).map (fun t => mulV t.1.1 t.2))
    let w ← writeElem k.1 d x dst i (code32 v).toNat
    .ok (w, ())) x.n 0 (s, ())
  .ok r.1

/-- Copy the sample's N elements from one vector to another, in ascending order (R357). -/
def copyVec (s : State) (d : Nat) (x : Sample) (src dst : Nat) : AsmEff State := do
  let r ← forElems (fun i a => do
    let v ← readElem a.1 d x src i
    let w ← writeElem v.1 d x dst i v.2
    .ok (w, ())) x.n 0 (s, ())
  .ok r.1

/-! Ending a sample (R359, R367) -/

/-- The descriptor of an entry in the layout of R356 as one number. -/
def sampleCode : SampleState → Nat
  | .idle => 0 | .held => 1 | .run => 2 | .finishing => 3

def descriptorOf (x : Sample) (state : Nat) : Nat :=
  digits 32 [x.t.toNat, x.h.toNat, x.tend.toNat, x.eprev.toNat, x.nacc.toNat, x.nrej.toNat, x.n,
    x.method.toNat + (if x.kv then 256 else 0) + state * pow2 16]
  + pow2 256 * digits 64 [x.y.toNat, x.hist.toNat, x.user.toNat]
  + pow2 448 * x.cstat.toNat

/-- The entry waits no more for work, and its held request is dropped. -/
def forget (s : State) (d i : Nat) : State :=
  let a := assayerAt s d
  setAssayer s d { a with work := a.work.filter (fun k => !(k == i)), requests := a.requests.filter (fun k => !(k == i)) }

/-- End sample `i` with STATUS and FADDR: the write-back, then the completion record waits for its push. -/
def endSample (s : State) (d i status faddr : Nat) : AsmEff State :=
  let x := { sampleAt s d i with
    state := .finishing, attempt := .none, tag := none, cstat := BitVec.ofNat 32 status, faddr := wordOf faddr }
  let finishAt := fun (s : State) (x : Sample) =>
    let s := forget (setSample s d i x) d i
    setAssayer s d { assayerAt s d with completions := (assayerAt s d).completions ++ [i] }
  let failed := fun (s : State) =>
    finishAt s { x with
      cstat := BitVec.ofNat 32 (status + pow2 31)
      faddr := if status = 4 ∨ status = 5 then wordOf faddr else x.desc }
  match samplePa s d x .write x.desc.toNat 64 with
  | .ok p => .ok (finishAt (storeAt p.1 p.2 64 (descriptorOf x 0)) x)
  | .error (.fail s _ _) => .ok (failed s)
  | .error .wait => .error .wait

/-! Attempts (R357) -/

/-- The sign of TEND − T. -/
def Sample.dir (x : Sample) : Int :=
  match vcmp (val32 x.tend) (val32 x.t) with
  | .gt => 1 | .lt => -1 | .eq => 0

/-- D·v. -/
def signed (dir : Int) (v : Val) : Val := mulV (valOfInt dir) v

/-- Queue the request for stage `j` (R358): it takes the counter as its tag. -/
def queueRequest (s : State) (d i j : Nat) : State :=
  let x := sampleAt s d i
  let s := setSample s d i { x with attempt := .await j, tag := some x.counter, counter := x.counter + 1 }
  setAssayer s d { assayerAt s d with requests := (assayerAt s d).requests ++ [i] }

/-- gb or ge terms over stages below `m`: coefficient round(`fp32`, h·f p) with k_p. -/
def stageTerms (x : Sample) (f : Nat → Val) (m : Nat) : List (Val × Nat) :=
  (List.range m).map (fun p => (to32 (mulV (val32 x.hcur) (f p)), x.kAddr p))

/-- Form the input of stage `j` and queue its request. -/
def stageRequest (s : State) (d i b j : Nat) : AsmEff State := do
  let x := sampleAt s d i
  let sn := mStages b
  let s ← (if j = 0 then .ok s
    else if mFsal b = true ∧ j = sn - 1 then combine s d x (stageTerms x (mB b) (sn - 1)) (x.newAddr b)
    else combine s d x (stageTerms x (mA b j) j) (x.inputAddr b))
  .ok (queueRequest s d i j)

/-- Begin an attempt: the step and its first request. -/
def beginAttempt (s : State) (d i b : Nat) : AsmEff State :=
  let x := sampleAt s d i
  let rem := code32 (sumV [val32 x.tend, vneg (val32 x.t)])
  let last := !vless (vabs (val32 x.h)) (vabs (val32 rem))
  let x := { x with hcur := if last then rem else x.h, last := last }
  stageRequest (setSample s d i x) d i b (if x.kv then 1 else 0)

/-- What the error loop gathers: acc and whether a value was not finite. -/
structure ErrAcc where
  acc : Val
  bad : Bool
  deriving DecidableEq, Repr

/-- The error norm of R357 over the new state in its buffer. -/
def errorLoop (s : State) (d : Nat) (x : Sample) (b : Nat) : AsmEff (State × ErrAcc) :=
  let sn := mStages b
  let terms := stageTerms x (fun p => sumV [mB b p, vneg (mBhat b p)]) sn
  forElems (fun i a => do
    let v ← readElems a.1 d x i ([x.y.toNat, x.newAddr b] ++ terms.map (fun t => t.2))
    let y := v.2.getD 0 (.nan false)
    let yn := v.2.getD 1 (.nan false)
    let err := to32 (sumV ((terms.zip (v.2.drop 2)).map (fun t => mulV t.1.1 t.2)))
    let sc := to64 (sumV [mCtl b 5, mulV (mCtl b 6) (maxV (vabs y) (vabs yn))])
    let qv := to64 (vdiv err sc).1
    .ok (v.1, ⟨to64 (sumV [a.2.acc, mulV qv qv]), a.2.bad || !finiteV yn || !finiteV err⟩)) x.n 0
    (s, ⟨.fin false 0 1, false⟩)

/-- 2^-16. -/
def tiny : Val := .fin false 1 65536

/-- The next step size hn for a norm. -/
def nextStep (x : Sample) (b : Nat) (ok : Bool) (nn : Val) : Val :=
  let lg := fun (v : Val) => to32 (vlog2 v).1
  let e := to32 (sumV [vneg (mulV (mCtl b 3) (lg nn)), mulV (mCtl b 4) (lg (maxV (val32 x.eprev) tiny))])
  let f := to32 (mulV (mCtl b 0) (to32 (vexp2 e).1))
  let f := minV (maxV f (mCtl b 1)) (mCtl b 2)
  let f := if ok then f else minV f (.fin false 1 1)
  minV (to32 (mulV (vabs (val32 x.hcur)) f)) (mCtl b 8)

/-- A counter of R366 adds 1. -/
def countAccepted (s : State) (d : Nat) : State :=
  setAssayer s d { assayerAt s d with accepted := (assayerAt s d).accepted + 1 }
def countRejected (s : State) (d : Nat) : State :=
  setAssayer s d { assayerAt s d with rejected := (assayerAt s d).rejected + 1 }

/-- After the decision: the sample ends, or its next attempt begins. `ended` holds for an accepted last step. -/
def afterStep (s : State) (d i b : Nat) (ended : Bool) (dir : Int) (hn : Val) : AsmEff State :=
  let x := { sampleAt s d i with h := code32 (signed dir hn) }
  let s := setSample s d i x
  if ended then endSample s d i 0 0
  else if vless hn (mCtl b 7) then endSample s d i 1 0
  else beginAttempt s d i b

/-- An accepted step (R357). -/
def acceptStep (s : State) (d i b : Nat) (nn hn : Val) : AsmEff State := do
  let x := sampleAt s d i
  let s ← copyVec s d x (x.newAddr b) x.y.toNat
  let x' := { x with
    t := if x.last then x.tend else code32 (sumV [val32 x.t, val32 x.hcur])
    eprev := code32 nn
    nacc := x.nacc + 1 }
  let s := countAccepted (setSample s d i x') d
  let s ← (if mFsal b then copyVec s d x' (x.kAddr (mStages b - 1)) (x.kAddr 0) else .ok s)
  afterStep (setSample s d i { x' with kv := mFsal b }) d i b x.last x.dir hn

/-- A rejected step: k_0 is f(T, Y) still. -/
def rejectStep (s : State) (d i b : Nat) (hn : Val) : AsmEff State :=
  let x := sampleAt s d i
  afterStep (countRejected (setSample s d i { x with nrej := x.nrej + 1, kv := true }) d) d i b false x.dir hn

/-- The end of an attempt: new state, error and decision. -/
def finishAttempt (s : State) (d i b : Nat) : AsmEff State := do
  let x := sampleAt s d i
  let s ← (if mFsal b then .ok s else combine s d x (stageTerms x (mB b) (mStages b)) (x.newAddr b))
  let r ← errorLoop s d x b
  let norm := to64 (vsqrt (vdiv r.2.acc (valOfInt (x.n : Int))).1).1
  if r.2.bad || !finiteV norm then endSample r.1 d i 6 0
  else
    let ok := !vless (.fin false 1 1) norm
    let nn := maxV (to32 norm) tiny
    let hn := nextStep x b ok nn
    if ok then acceptStep r.1 d i b nn hn else rejectStep r.1 d i b hn

/-- The work of a sample that stands first in service order. -/
def sampleWork (s : State) (d i : Nat) : AsmEff State :=
  let x := sampleAt s d i
  match methodAt s d x.method.toNat with
  | none => .ok s
  | some b =>
    match x.attempt with
    | .begin => if x.dir = 0 then endSample s d i 0 0 else beginAttempt s d i b
    | .request j => stageRequest s d i b j
    | .finish => finishAttempt s d i b
    | _ => .ok s

/-- One turn of the combination datapath (R358, R361). An access that must wait leaves the work where it is; one that
fails ends the sample. -/
def combinationTurn (s : State) (d : Nat) : State :=
  match (assayerAt s d).work with
  | [] => s
  | i :: rest =>
    let t := setAssayer s d { assayerAt s d with work := rest }
    match sampleWork t d i with
    | .ok u => u
    | .error .wait => s
    | .error (.fail u st fa) =>
      match endSample u d i st fa with
      | .ok v => v
      | .error _ => s

/-! The three avenues (R351, R352, R358) -/

/-- Pipeline slot and request avenue of the binding. -/
def boundAv (s : State) (d : Nat) : Option (Nat × Nat) :=
  (assayerAt s d).bound.map (fun h => (h.toNat / 8192, h.toNat / 256 % 32))

/-- Push a record, zero beyond `v`, when the avenue has room (R332, R352). -/
def engPush (s : State) (d k a v : Nat) : Option State :=
  if avCount s d k a < (avDesc s d k a).cap then
    let i := avTail s d k a
    let s := poke s (recordAt s d k a i) (avDesc s d k a).rsize v
    let s := poke s (stampAt s d k a i) 8 (sget 0 s.clock d)
    some (setAvCounters s d k a (avHead s d k a) (i + 1))
  else none

/-- The evaluation request of a sample whose attempt awaits stage `j` (R352). -/
def requestRecord (s : State) (d i : Nat) : Nat :=
  let x := sampleAt s d i
  let j := match x.attempt with | .await j => j | _ => 0
  let b := (methodAt s d x.method.toNat).getD 0
  let ya := if j = 0 then x.y.toNat
    else if mFsal b = true ∧ j = mStages b - 1 then x.newAddr b else x.inputAddr b
  let te := code32 (sumV [val32 x.t, mulV (mC b j) (val32 x.hcur)])
  digits 32 [i, (x.tag.getD 0).toNat, te.toNat, j + x.method.toNat * 256]
    + pow2 128 * digits 64 [ya, x.kAddr j, x.user.toNat, x.n]

/-- Push the oldest held request (R358). -/
def requestTurn (s : State) (d : Nat) : State :=
  match boundAv s d, (assayerAt s d).requests with
  | some (k, a), i :: rest =>
    match engPush s d k a (requestRecord s d i) with
    | some t =>
      let y := assayerAt t d
      setAssayer t d { y with requests := rest, requestsPushed := y.requestsPushed + 1 }
    | none => s
  | _, _ => s

/-- The completion record of a sample (R352). -/
def completionRecord (x : Sample) (i : Nat) : Nat :=
  digits 32 [i, x.cstat.toNat, x.t.toNat, x.h.toNat, x.nacc.toNat, x.nrej.toNat]
    + pow2 192 * digits 64 [x.desc.toNat, x.user.toNat, x.faddr.toNat]

/-- Entries of a die that are RUN or FINISHING, from index `lo` on, `n` of them. -/
def busySamples (s : State) (d lo n : Nat) : Nat :=
  (s.dies.samples.filter (fun p => decide (p.1 / 4096 = d) && decide (lo ≤ p.1 % 4096) && decide (p.1 % 4096 < lo + n)
    && (decide (p.2.state = .run) || decide (p.2.state = .finishing)))).length

/-- The binding ends when no sample is RUN or FINISHING (R351). -/
def settleBinding (s : State) (d : Nat) : State := if busySamples s d 0 4096 = 0 then assayerUnbind s d else s

/-- Push the oldest completion record; its sample becomes IDLE (R358). -/
def completionTurn (s : State) (d : Nat) : State :=
  match boundAv s d, (assayerAt s d).completions with
  | some (k, a), i :: rest =>
    match engPush s d k (a + 2) (completionRecord (sampleAt s d i) i) with
    | some t =>
      let y := assayerAt t d
      let t := setAssayer t d { y with completions := rest, completionsPushed := y.completionsPushed + 1 }
      settleBinding (setSample t d i { sampleAt t d i with state := .idle }) d
    | none => s
  | _, _ => s

/-- The derivative record answers the outstanding request of its sample (R355). -/
def derivMatches (s : State) (d v : Nat) : Bool :=
  let i := fieldAt v 0 4
  let x := sampleAt s d i
  decide (i < 4096) && decide (x.state = .run) && !(assayerAt s d).requests.any (fun k => k == i)
    && decide (x.tag = some (BitVec.ofNat 32 (fieldAt v 4 4)))

/-- A matched success: the sample's next work is queued. -/
def derivNext (s : State) (d i : Nat) : State :=
  let x := sampleAt s d i
  let b := (methodAt s d x.method.toNat).getD 0
  let next := match x.attempt with
    | .await j => if j + 1 < mStages b then Attempt.request (j + 1) else .finish
    | a => a
  let s := setSample s d i { x with tag := none, attempt := next }
  setAssayer s d { assayerAt s d with work := (assayerAt s d).work ++ [i] }

/-- Pop a derivative record (R358). -/
def derivTurn (s : State) (d : Nat) : State :=
  match boundAv s d with
  | none => s
  | some (k, r) =>
    let a := r + 1
    if avCount s d k a = 0 then s
    else
      let j := avHead s d k a
      let pa := recordAt s d k a j
      let v := peek s pa 16
      let marked := markAny s pa 16
      let t := setAvCounters s d k a (j + 1) (avTail s d k a)
      let t := setAssayer t d { assayerAt t d with popped := (assayerAt t d).popped + 1 }
      if marked || !derivMatches t d v then
        setAssayer t d { assayerAt t d with unmatched := (assayerAt t d).unmatched + 1 }
      else if fieldAt v 8 4 = 0 then derivNext t d (fieldAt v 0 4)
      else
        match endSample t d (fieldAt v 0 4) 3 0 with
        | .ok u => u
        | .error _ => s

/-- The four events of the Assayer. -/
def execAssayerDerivPop (die : Nat) (s : State) : Outcome State Fault Refusal := .next (derivTurn s die)
def execAssayerRequestPush (die : Nat) (s : State) : Outcome State Fault Refusal := .next (requestTurn s die)
def execAssayerCombination (die : Nat) (s : State) : Outcome State Fault Refusal := .next (combinationTurn s die)
def execAssayerCompletionPush (die : Nat) (s : State) : Outcome State Fault Refusal := .next (completionTurn s die)

end Sys2Proof.Machine
end

