-- ==== Sys2Proof/Machine/Assayer.lean ====
section
/-! DEFINITION. The Assayer's instructions, major 0x3C (spec/16_assayer.md R354 to R356, R362 to R366). -/

namespace Sys2Proof.Machine

open Host (Outcome)

/-- The range [first, first + count) stays within the table (R362). -/
def rangeOk (s : State) (first : Word) (count : Nat) : Eff Unit :=
  need (decide (first.toNat + count ≤ 4096)) s (tAssayer 3 first)

/-- A coefficient is +0, by its code. -/
def zeroCoef (b off k : Nat) : Bool := decide (fieldAt b (off + 4 * k) 4 = 0)

/-- A positive value, as the ranges of R354 use it. -/
def posV (v : Val) : Bool := vless (.fin false 0 1) v
def leV (a b : Val) : Bool := !decide (vcmp a b = .gt)

/-- The controller parameters are in range (R354). -/
def controlOk (b : Nat) : Bool :=
  let zero : Val := .fin false 0 1
  let one : Val := .fin false 1 1
  (List.range 9).all (fun k => finiteV (mCtl b k))
    && posV (mCtl b 0) && posV (mCtl b 1) && leV (mCtl b 1) one && leV one (mCtl b 2) && posV (mCtl b 3)
    && leV zero (mCtl b 4) && posV (mCtl b 5) && leV zero (mCtl b 6) && posV (mCtl b 7) && leV (mCtl b 7) (mCtl b 8)

/-- The FSAL conditions of R354. -/
def fsalOk (b : Nat) : Bool :=
  let s := mStages b
  !mFsal b || (decide (fieldAt b (0x10 + 4 * (s - 1)) 4 = 0x3F800000) && zeroCoef b 0x30 (s - 1)
    && (List.range (s - 1)).all (fun j =>
      decide (fieldAt b (0x70 + 32 * (s - 1) + 4 * j) 4 = fieldAt b (0x30 + 4 * j) 4)))

/-- A valid method table (R354). -/
def methodOk (b : Nat) : Bool :=
  let s := mStages b
  decide (2 ≤ s) && decide (s ≤ 8) && decide (1 ≤ fieldAt b 1 1) && decide (fieldAt b 1 1 ≤ 8) && decide (fieldAt b 2 1 ≤ 1)
    && zeroBytes b 3 0x10 && zeroBytes b 0x194 0x200
    && (List.range 88).all (fun k => finiteV (coefAt b 0x10 k)) && zeroCoef b 0x10 0
    && (List.range 8).all (fun i => (List.range 8).all (fun j =>
      (decide (j < i) && decide (i < s)) || zeroCoef b (0x70 + 32 * i) j))
    && (List.range 8).all (fun i => decide (i < s) || (zeroCoef b 0x10 i && zeroCoef b 0x30 i && zeroCoef b 0x50 i))
    && fsalOk b && controlOk b

/-- Some entry that is not IDLE names a method slot of die `d` (R363). -/
def methodUsed (s : State) (d m : Nat) : Bool :=
  s.dies.samples.any (fun p => decide (p.1 / 4096 = d) && decide (p.2.method.toNat = m) && !decide (p.2.state = .idle))

/-- `asmeth` (R363). -/
def execAsmeth (o : ExOp) (s : State) : Outcome State Fault Refusal :=
  finish (do
    engineOnly s 60 0 o
    let a := s.rS o.sa
    aligned s a 64
    let r ← hartReadWords s a 64
    let s := r.1
    let d := dieOf s.cur
    let m := o.imm.toNat % 4
    need (methodOk r.2) s (tAssayer 1 a)
    if methodUsed s d m then done (s.wS o.sd 1) 8
    else
      let s := { s with dies := { s.dies with methods := sset none s.dies.methods (d * 4 + m) (some r.2) } }
      done (s.wS o.sd 0) 8)

/-- A valid descriptor, as the HELD entry it loads (R356). -/
def parseSample (s : State) (d b : Nat) : Option Sample :=
  let c := fun (k : Nat) => BitVec.ofNat 32 (fieldAt b (4 * k) 4)
  let m := fieldAt b 0x1C 1
  let y := fieldAt b 0x20 8
  let hist := fieldAt b 0x28 8
  let n := fieldAt b 0x18 4
  match (if m < 4 then methodAt s d m else none) with
  | none => none
  | some t =>
    let h := val32 (c 1)
    let x : Sample := { Sample.reset with
      state := .held
      t := c 0
      h := c 1
      tend := c 2
      eprev := c 3
      nacc := c 4
      nrej := c 5
      n := n
      method := BitVec.ofNat 2 m
      kv := decide (fieldAt b 0x1D 1 % 2 = 1)
      y := wordOf y
      hist := wordOf hist
      user := wordOf (fieldAt b 0x30 8) }
    if fieldAt b 0x1F 1 = 0 ∧ zeroBytes b 0x3C 0x40 = true ∧ fieldAt b 0x1D 1 ≤ 1 ∧ 1 ≤ n ∧ n ≤ pow2 24
        ∧ (canonical y && decide (y % 128 = 0) && canonical hist && decide (hist % 128 = 0)) = true
        ∧ [0, 1, 2, 3].all (fun k => finiteV (val32 (c k))) = true ∧ posV (val32 (c 3)) = true
        ∧ leV (mCtl t 7) (vabs h) = true ∧ leV (vabs h) (mCtl t 8) = true
        ∧ (x.dir = 0 ∨ decide (x.dir = -1) = negOf h) then some x
    else none

/-- Claim entry `i` for a loaded descriptor at `a`, in the context of the loading hart (R356, R364). The request counter
stays. -/
def claimSample (s : State) (d i : Nat) (x : Sample) (a : Word) : State :=
  let h := s.hart
  setSample s d i { x with
    cstat := (sampleAt s d i).cstat
    counter := (sampleAt s d i).counter
    desc := a
    root := h.root
    asid := h.asid
    level := h.level }

/-- Step `k` of `assamp`: the state, and whether the entry was claimed (R364). -/
def sampStep (s : State) (a : Word) (first k : Nat) : Eff (State × Bool) := do
  let va := a + wordOf (64 * k)
  aligned s va 64
  let r ← hartReadWords s va 8
  let s := r.1
  let d := dieOf s.cur
  match parseSample s d r.2 with
  | none => raise s (tAssayer 2 va)
  | some x =>
    if (sampleAt s d (first + k)).state = .idle then .ok (claimSample s d (first + k) x va, true) else .ok (s, false)

/-- `n` steps of `assamp` from `k` on; the step that found its entry taken, if any. -/
def sampSteps (a : Word) (first : Nat) : Nat → Nat → State → Eff (State × Option Nat)
  | 0, _, s => .ok (s, none)
  | n + 1, k, s =>
    match sampStep s a first k with
    | .error x => .error (x.atIndex k)
    | .ok (s, true) => sampSteps a first n (k + 1) s
    | .ok (s, false) => .ok (s, some k)

/-- `assamp` (R364). -/
def execAssamp (o : ExOp) (s : State) : Outcome State Fault Refusal :=
  let count := o.imm.toNat
  finish (do
    engineOnly s 60 1 o
    rangeOk s (s.rS o.sb) count
    if count ≤ s.vsi then done ((s.setVsi 0).wS o.sd 0) 8
    else
      let stop := stopIndex s count 1 id
      let r ← sampSteps (s.rS o.sa) (s.rS o.sb).toNat (stop - s.vsi) s.vsi s
      match r.2 with
      | some k => done ((r.1.setVsi 0).wS o.sd (wordOf (k + 1))) 8
      | none =>
        if stop < count then waitFor (clearStop (r.1.setVsi stop)) .none
        else done ((r.1.setVsi 0).wS o.sd 0) 8)

/-- Step `k` of `asdrain` (R364). -/
def asdrainStep (a : Word) (first k : Nat) (s : State) : Eff State := do
  let va := a + wordOf (64 * k)
  aligned s va 64
  let x := sampleAt s (dieOf s.cur) (first + k)
  hartWriteWords s va 8 (descriptorOf x (sampleCode x.state))

/-- `asdrain` (R364). -/
def execAsdrain (o : ExOp) (s : State) : Outcome State Fault Refusal :=
  let count := o.imm.toNat
  let first := (s.rS o.sb).toNat
  finish (do
    engineOnly s 60 3 o
    rangeOk s (s.rS o.sb) count
    let last := fun (s : State) => (s.wS o.sd (wordOf (busySamples s (dieOf s.cur) first count)))
    if count ≤ s.vsi then done (last (s.setVsi 0)) 8
    else runLoop s ⟨count, 1, id, asdrainStep (s.rS o.sa) first, fun s => .ok (last s)⟩ 0 8)

/-- Make a HELD entry RUN and queue its work (R365). -/
def startSample (s : State) (d i : Nat) : State :=
  let s := setSample s d i { sampleAt s d i with state := .run, attempt := .begin }
  setAssayer s d { assayerAt s d with work := (assayerAt s d).work ++ [i] }

/-- The HELD entries of a range, ascending. -/
def heldSamples (s : State) (d lo n : Nat) : List Nat :=
  ((s.dies.samples.filter (fun p => decide (p.1 / 4096 = d) && decide (lo ≤ p.1 % 4096) && decide (p.1 % 4096 < lo + n)
    && decide (p.2.state = .held))).map (fun p => p.1 % 4096))

/-- The record sizes of R351. -/
def assayerSizes (s : State) (d k a : Nat) : Bool :=
  decide (48 ≤ (avDesc s d k a).rsize) && decide (16 ≤ (avDesc s d k (a + 1)).rsize)
    && decide (48 ≤ (avDesc s d k (a + 2)).rsize)

/-- A binding to a pipeline that is not RUNNING ends at once, as does one with nothing to serve (R351, R360). -/
def afterStart (s : State) (d k : Nat) : State :=
  if (pipeAt s d k).state = 1 then settleBinding s d else assayerUnbind s d

/-- `asstart` (R365). -/
def execAsstart (o : ExOp) (s : State) : Outcome State Fault Refusal :=
  let h := s.rS o.sa
  let count := o.imm.toNat
  finish (do
    engineOnly s 60 2 o
    rangeOk s (s.rS o.sb) count
    let d := dieOf s.cur
    match avOf s h with
    | none => raise s (tAvenue 1 h)
    | some (k, a) =>
      if (pipeAt s d k).avs.length ≤ a + 2 then raise s (tAvenue 1 h)
      else if !assayerSizes s d k a then raise s (tAssayer 4 h)
      else if (assayerAt s d).bound.isSome ∧ ¬ (assayerAt s d).bound = some (h.truncate 16) then
        done (s.wS o.sd allOnes64) 8
      else
        let l := heldSamples s d (s.rS o.sb).toNat count
        let t := setAssayer s d { assayerAt s d with bound := some (h.truncate 16) }
        let t := l.foldl (fun t i => startSample t d i) t
        done ((afterStart t d k).wS o.sd (wordOf l.length)) 8)

/-- `asabort` (R365). -/
def execAsabort (o : ExOp) (s : State) : Outcome State Fault Refusal :=
  finish (do
    engineOnly s 60 4 o
    rangeOk s (s.rS o.sa) 1
    let d := dieOf s.cur
    let i := (s.rS o.sa).toNat
    let x := sampleAt s d i
    let r := wordOf (sampleCode x.state)
    match x.state with
    | .held => done ((setSample s d i { x with state := .idle }).wS o.sd r) 8
    | .run =>
      match endSample s d i 2 0 with
      | .ok t => done (t.wS o.sd r) 8
      | .error _ => waitFor s .retry
    | _ => done (s.wS o.sd r) 8)

/-- The counters of R366. -/
def assayerCounter (s : State) (d : Nat) (k : Nat) : Word :=
  let a := assayerAt s d
  match k with
  | 0 => a.requestsPushed
  | 1 => a.popped
  | 2 => a.unmatched
  | 3 => a.accepted
  | 4 => a.rejected
  | 5 => a.completionsPushed
  | 6 => wordOf (busySamples s d 0 4096)
  | 7 => match a.bound with | some h => wordOf (pow2 16 + h.toNat) | none => 0
  | _ => 0

/-- `asstat` (R365). -/
def execAsstat (o : ExOp) (s : State) : Outcome State Fault Refusal :=
  finish (do
    engineOnly s 60 5 o
    done (s.wS o.sd (assayerCounter s (dieOf s.cur) (s.rS o.sa).toNat)) 8)

end Sys2Proof.Machine
end

