-- ==== Sys2Proof/Machine/Attention.lean ====
section
/-! DEFINITION. The attention instructions, major 0x39 (spec/08_attention.md R247 to R260). -/

namespace Sys2Proof.Machine

open Host (Outcome)

/-- The rows of a group of G rows at `v`. -/
def groupRows (o : VOp) (v : VReg) : List Nat := (List.range (o.g1 + 1)).map (fun i => v.toNat + i)

/-- Every attention form but `amode` needs 32-bit elements (R250). -/
def att32 (s : State) : Bool := decide (s.ew = 32)

/-- Element k of a row at width 32 as a value. -/
def src32 (s : State) (row k : Nat) : Eff Val := (srcElem s row 32 k).map (decode .fp32)

/-- The code of an `fp32` value that is exact. -/
def fp32Code (v : Val) : Nat := (round .fp32 v ⟨.rne, false, 0, 0, 0⟩).1

/-- Read the active elements of a row at width 32: (column, value). -/
def rowVals (s : State) (row : Nat) : List Nat → Eff (List (Nat × Val))
  | [] => .ok []
  | k :: ks => do
    let v ← src32 s row k
    let r ← rowVals s row ks
    .ok ((k, v) :: r)

/-- Write element i of a statistics row; the cell is whole when this execution wrote both its elements. -/
def putStat (s : State) (row i code : Nat) : State := putElem s row 32 i code (cellWhole s.first 32 (fun _ => true) i)

/-- The masking test of R251. -/
def scoreMasked (causal : Bool) (pos win : Word) (i k : Nat) : Bool :=
  let q := bits pos 63 32 + i
  let p := bits pos 31 0 + k
  let kend := bits win 31 0
  let w := bits win 63 32
  (causal && decide (q < p)) || (!decide (kend = 0) && decide (kend ≤ p)) || (!decide (w = 0) && decide (p + w ≤ q))

def akvRow (o : VOp) (i : Nat) (s : State) : Eff State := do
  let row := o.vd.toNat + i
  groupLanded s 32 row 1
  let pos := s.rS o.ss
  let win := s.rS (BitVec.ofNat 5 o.vb)
  let hit := fun k => s.hart.active o.mask k && scoreMasked o.mod0 pos win i k
  .ok (((activeCols s o.mask).filter (scoreMasked o.mod0 pos win i)).foldl
    (fun t k => putElem t row 32 k 0xFF800000 (cellWhole 0 32 hit k)) s)

/-- What index i of a row-counting form uses: row i of its group, and bit or element i of a mask or statistics row. -/
def rowTouch (o : VOp) (group : Option VReg) (k : Nat) : Touch :=
  match group with
  | some v => if v.toNat ≤ k ∧ k ≤ v.toNat + o.g1 then .row (k - v.toNat) else .elem
  | none => .elem

/-- A row-counting attention program; `gr` and `gw` are the groups that it reads and writes. -/
def rowProg (o : VOp) (gr gw : Option VReg) (rd wr mwr : List Nat) (f : Nat → State → Eff State) : VProg where
  legal := att32
  rd := rd
  wr := wr
  mrd := maskReads o.mask
  mwr := mwr
  inOrder := false
  issue := noIssue
  body := .loop (fun _ => ⟨o.g1 + 1, 1, id, f, noLast⟩)
  rdTouch := fun k => if 48 ≤ k then .whole else rowTouch o gr k
  wrTouch := rowTouch o gw

def progAkvmask (o : VOp) : VProg := rowProg o none (some o.vd) [] (groupRows o o.vd) [] (akvRow o)

/-- A row of `asmax` (R252). -/
def asmaxRow (o : VOp) (i : Nat) (s : State) : Eff State := do
  let m ← src32 s o.vb i
  let xs ← rowVals s (o.va.toNat + i) (activeCols s o.mask)
  elemLanded s (o.vb + 2) 32 i
  let bad := isNaN m || xs.any (fun p => isNaN p.2)
  let t := xs.foldl (fun acc p => if isNaN p.2 then acc else (vminmax true acc p.2).1) (.inf true)
  let m' := if bad then .nan false else (vminmax true m t).1
  let a : Nat × Flags :=
    if bad then (canonOf .fp32, fNV)
    else if vcmp m m' = .eq then (fp32Code (.fin false 1 1), 0)
    else round .fp32 (vexp2 (vadd2 .rne m (vneg m')).1).1 (s.rnd o.rms false i (o.vb + pow2 51))
  let s ← flagStop s a.2
  .ok (putStat (putStat s o.vb i (fp32Code m')) (o.vb + 2) i a.1)

def progAsmax (o : VOp) : VProg :=
  rowProg o (some o.va) none (groupRows o o.va ++ [o.vb]) [o.vb, o.vb + 2] [] (asmaxRow o)

/-- The zero code (R250). -/
def zeroCode (e4m3 : Bool) : Nat := if e4m3 then 0 else 63

/-- The code of one score (R253). -/
def expCode (e4m3 : Bool) (m x : Val) : Nat × Flags :=
  if isNaN x || isNaN m then (zeroCode e4m3, fNV)
  else if x = .inf true then (zeroCode e4m3, 0)
  else if vcmp x m = .eq then prob e4m3 (.fin false 1 1)
  else prob e4m3 (vexp2 (vadd2 .rne x (vneg m)).1).1

/-- A row of `apexp` (R253). DEDUCED: `sg := 0` of R253 is itself an addend, a +0 that decides the sign of a zero sum with no
active key (R71), where the `S := 0` of R72 is none (log 85). -/
def apexpRow (o : VOp) (i : Nat) (s : State) : Eff State := do
  let pm := s.hart.pmode
  let m ← src32 s o.vb i
  let l ← src32 s (o.vb + 1) i
  let al ← src32 s (o.vb + 2) i
  let xs ← rowVals s (o.va.toNat + i) (activeCols s o.mask)
  groupLanded s 8 (o.vd.toNat + i) 1
  let cs := xs.map (fun p => (p.1, expCode pm m p.2))
  let pr := vmul al l
  let sum := vsum (s.rmEff o.rms) (pr.1 :: .fin false 0 1 :: cs.map (fun c => pval pm c.2.1))
  let r := round .fp32 sum.1 (s.rnd o.rms false i (o.vb + 1 + pow2 51))
  let s ← flagStop s (cs.foldl (fun acc c => acc ||| c.2.2) (pr.2 ||| sum.2 ||| r.2))
  let t := cs.foldl (fun t c => putElem t (o.vd.toNat + i) 8 c.1 c.2.1
    (cellWhole 0 8 (fun k => s.hart.active o.mask k && decide (k < s.vl)) c.1)) s
  .ok (putStat t (o.vb + 1) i r.1)

def progApexp (o : VOp) : VProg :=
  rowProg o (some o.va) (some o.vd) (groupRows o o.va ++ [o.vb, o.vb + 1, o.vb + 2]) (groupRows o o.vd ++ [o.vb + 1]) [] (apexpRow o)

/-- The quotients of an `afin` row (R256). -/
def afinCells (o : VOp) (s : State) (i : Nat) (l : Val) : List (Nat × Val) → List (Nat × Nat) × Flags
  | [] => ([], 0)
  | (e, x) :: rest =>
    let r := afinCells o s i l rest
    let q := vdiv x l
    let c := round .fp32 q.1 (s.rnd o.rms o.mod1 e (o.vd.toNat + i + pow2 50))
    ((e, c.1) :: r.1, q.2 ||| c.2 ||| r.2)

/-- A row of `afin` (R256). -/
def afinRow (o : VOp) (i : Nat) (s : State) : Eff State := do
  let row := o.vd.toNat + i
  let m ← src32 s o.vb i
  let full := decide (m = .inf true)
  let l ← src32 s (o.vb + 1) i
  let cols := activeCols s o.mask
  groupLanded s 32 row 1
  let r ← if full then .ok (cols.map (fun e => (e, 0)), (0 : Flags))
    else (rowVals s row cols).map (afinCells o s i l)
  let s ← flagStop s r.2
  let t := putResults s o.mask 32 (r.1.map (fun p => (row, p.1, p.2)))
  .ok (t.setMbit o.va.toNat i full)

def progAfin (o : VOp) : VProg :=
  rowProg o (some o.vd) (some o.vd) (groupRows o o.vd ++ [o.vb, o.vb + 1]) (groupRows o o.vd) [o.va.toNat] (afinRow o)

/-! apv -/

/-- NK and VOFF of the control word (R254). -/
def apvNk (s : State) (o : VOp) : Nat := bits (s.rS o.ss) 40 32
def apvOff (s : State) (o : VOp) : Nat := bits (s.rS o.ss) 23 0

/-- The V operand of `apv` as the B operand of a dense update (R254). -/
def apvUpd (s : State) (o : VOp) : Upd where
  ta := o.tb
  tb := o.tb
  ua := false
  ub := false
  maj := false
  acc := 0
  ordered := false
  sparse := false
  nsel := 16
  k := apvNk s o
  g := o.g1 + 1
  vd := o.vd.toNat
  sa := 0
  sb := apvOff s o
  mask := o.mask
  rms := o.rms
  sat := o.mod1

/-- `pmul` of R254. -/
def pmul (ta : Ty) (v : Val) (c : Nat) : Val × Flags :=
  if ta = .pny then pennyMul v c else vmul v (pval true c)

/-- The products of a cell in a unit: each reads its code P[i][k]. -/
def apvTerms (o : VOp) (s : State) (i : Nat) : List (Nat × Nat × Nat × Nat) → Eff (List (Val × Flags))
  | [] => .ok []
  | t :: ts => do
    let c ← srcElem s (o.va.toNat + i) 8 t.2.1
    let r ← apvTerms o s i ts
    .ok (pmul o.ta (decode o.tb t.2.2.1) c :: r)

/-- The results of a unit of `apv`: (row, column, code) and the flags. -/
def apvCells (o : VOp) (d : Upd) (s : State) (u : Nat) : List (Nat × Nat) → Eff (List (Nat × Nat × Nat) × Flags)
  | [] => .ok ([], 0)
  | (i, e) :: rest => do
    let x ← src32 s (o.vd.toNat + i) e
    let x' : Val × Flags ← if u = 0 then (src32 s (o.vb + 2) i).map (fun a => vmul a x) else .ok (x, 0)
    let ts ← apvTerms o s i (d.bTerms s u e)
    let r ← apvCells o d s u rest
    let v := vsum (s.rmEff o.rms) (x'.1 :: ts.map (fun t => t.1))
    let q := round .fp32 v.1 (s.rnd o.rms o.mod1 e (o.vd.toNat + i + u * pow2 40 + pow2 49))
    .ok ((o.vd.toNat + i, e, q.1) :: r.1, ts.foldl (fun acc t => acc ||| t.2) (x'.2 ||| v.2 ||| q.2 ||| r.2))

/-- Unit u of `apv`. -/
def apvUnit (o : VOp) (d : Upd) (u : Nat) (s : State) : Eff State := do
  let spans := d.bSpans s u
  spansReady s spans
  groupLanded s 32 o.vd.toNat (o.g1 + 1)
  linesClean s (spanLines spans)
  let r ← apvCells o d s u (pairs (o.g1 + 1) (activeCols s o.mask))
  let t := addCount s (ctlPa (coreOf s.cur) 0x100) (d.horizontal s u)
  let t ← flagStop t r.2
  .ok (putResults t o.mask 32 r.1)

def apvRows (o : VOp) : List Nat := groupRows o o.vd ++ groupRows o o.va ++ [o.vb + 2]

/-- R255: `apv` is an update with its own issue-time checks. -/
def progApv (o : VOp) : VProg where
  legal := att32
  rd := apvRows o
  wr := groupRows o o.vd
  mrd := maskReads o.mask
  mwr := []
  inOrder := false
  issue := fun s => do
    updateFree s
    need (decide (1 ≤ apvNk s o) && decide (apvNk s o ≤ 32 * grantCount s.hart.grant)) s (tIllegal (instrBits (.apv o)))
    need (decide (apvOff s o % 8 = 0)) s (tMisalign (wordOf (apvOff s o)))
  body := .loop (fun s =>
    let d := apvUpd s o
    ⟨if s.vl = 0 then 0 else d.units, 1, id, apvUnit o d, markUpdate (apvRows o)⟩)
  keeps := true
  rdTouch := fun _ => .whole
  wrTouch := fun _ => .whole
  mem := fun s u => readSpans s ((apvUpd s o).bSpans s u)

/-! amode -/

/-- m, l and α of row i at their initial values (R257). -/
def initRow (o : VOp) (s : State) (i : Nat) : State :=
  let w := cellWhole 0 32 (fun k => decide (k ≤ o.g1)) i
  let s := putElem s o.vb 32 i 0xFF800000 w
  let s := putElem s (o.vb + 1) 32 i 0 w
  putElem s (o.vb + 2) 32 i 0x3F800000 w

/-- R257: one step whatever `vsi` holds. -/
def execAmode (o : VOp) (s : State) : Outcome State Fault Refusal :=
  let i : Instr := .amode o
  finish (do
    computeOnly s i
    need (!o.mod1 || att32 s) s (tIllegal (instrBits i))
    need (!o.mod1 || !decide (s.hart.grant = 0)) s (tNolease (instrBits i))
    if o.mod1 then do
      rowsFree s [o.vb, o.vb + 1, o.vb + 2]
      rowsLanded s 32 ((pairs 3 (List.range (o.g1 / 32 + 1))).map (fun p => (o.vb + p.1, p.2)))
    else .ok ()
    let x := s.hart
    let old := x.conf.fmode
    let t := s.setConf { x.conf with
      fmode := if o.mod0 then old ||| 8 else old &&& 0xFFF7#16
      vsi := 0 }
    let t := t.wS o.ss (wordOf old.toNat)
    let t := if o.mod1 then (List.range (o.g1 + 1)).foldl (initRow o) t else t
    done t 8)

def execAkvmask (o : VOp) (s : State) : Outcome State Fault Refusal := execV (.akvmask o) (progAkvmask o) s
def execAsmax (o : VOp) (s : State) : Outcome State Fault Refusal := execV (.asmax o) (progAsmax o) s
def execApexp (o : VOp) (s : State) : Outcome State Fault Refusal := execV (.apexp o) (progApexp o) s
def execApv (o : VOp) (s : State) : Outcome State Fault Refusal := execV (.apv o) (progApv o) s
def execAfin (o : VOp) (s : State) : Outcome State Fault Refusal := execV (.afin o) (progAfin o) s

end Sys2Proof.Machine
end

