-- ==== Sys2Proof/Machine/Collective.lean ====
section
/-! DEFINITION. Collective instructions, major 0x3D, and the completion of a collective (spec/21_fabric.md R427 to R431,
R425, R384). -/

namespace Sys2Proof.Machine

open Host (Outcome)

/-! Communicators -/

/-- A valid communicator (R427). -/
structure Comm where
  nrank : Nat
  rank : Nat
  rlist : Nat
  deriving DecidableEq, Repr

/-- The package identity at rank `q` of a list. -/
def rankPkg (s : State) (rlist q : Nat) : Option Nat := peekBacked s (rlist + 2 * q) 2

/-- Communicator `c` of the table at `FCOMM`.BASE. -/
def commOf (s : State) (c : Nat) : Option Comm :=
  (peekBacked s (bits (rawReg s (diePa 0 0x3008)) 51 6 * 64 + 64 * c) 64).bind (fun b =>
    let n := fieldAt b 0 2
    let r := fieldAt b 2 2
    let l := fieldAt b 8 8
    if fieldAt b 4 1 % 2 = 1 ∧ fieldAt b 5 3 = 0 ∧ fieldAt b 0x10 48 = 0 ∧ 2 ≤ n ∧ n ≤ 4096 ∧ r < n
        ∧ rankPkg s l r = some (ownPkg s) then some ⟨n, r, l⟩
    else none)

def collsOf (s : State) (c : Nat) : List Coll := sget [] s.pkg.colls c

def setColls (s : State) (c : Nat) (l : List Coll) : State :=
  { s with pkg := { s.pkg with colls := sset [] s.pkg.colls c l } }

/-- The next sequence number of a communicator (R429). -/
def nextSeq (s : State) (c : Nat) : BitVec 32 := sget 0 s.pkg.collSeq c

/-- A collective that is not over: outstanding, or stopped for a page of its own (R429, R425). -/
def Coll.open (x : Coll) : Bool :=
  match x.st with
  | .outstanding | .sending | .failed 5 _ | .retired 5 => true
  | _ => false

/-- A collective that still takes what its peers send: one that is not over, and whose own destination is not yet written. -/
def Coll.takes (x : Coll) : Bool := x.open && !decide (x.st = .sending)

/-- One of the last 16 collectives issued on its communicator (R431). -/
def recentSeq (s : State) (c : Nat) (q : BitVec 32) : Bool :=
  let back := (nextSeq s c - q).toNat
  decide (1 ≤ back) && decide (back ≤ 16)

/-- Source and destination bytes of a collective of element size `b` (R430). -/
def collSrcBytes (kind n count b : Nat) : Nat := if kind = 2 then n * count * b else count * b
def collDstBytes (kind n count b : Nat) : Nat := if kind = 1 then n * count * b else count * b

/-- The element type of a type code; bytes for KIND 1 and 3 (R429). -/
def collTy (kind ty : Nat) : Ty := if kind = 0 ∨ kind = 2 then (tyOfCode ty).getD .ui8 else .ui8

def collElem (kind ty : Nat) : Nat := tyWidth (collTy kind ty) / 8

/-- The conditions under which an issue is invalid (R429). -/
def collBad (m : Comm) (kind b count root src dst : Nat) : Bool :=
  let se := collSrcBytes kind m.nrank count b
  let de := collDstBytes kind m.nrank count b
  let overlap := decide (src < dst + de) && decide (dst < src + se)
  decide (count = 0) || decide (pow2 36 < se) || decide (pow2 36 < de) || !decide (src % b = 0) || !decide (dst % b = 0)
    || decide (m.nrank ≤ root) || (overlap && !(decide (kind = 0) && decide (src = dst)))

/-- Issue a collective (R429). `f` is the FUNC. -/
def issueColl (kind op f : Nat) (o : ExOp) (s : State) : Outcome State Fault Refusal :=
  let c := o.imm.toNat % 256
  let w := s.rS o.sc
  let count := bits w 39 0
  let root := bits w 51 40
  let src := s.rS o.sa
  let dst := s.rS o.sb
  finish (do
    engineOnly s 61 f o
    match commOf s c with
    | none => raise s (tColl 1 (wordOf c))
    | some m =>
      if collBad m kind (collElem kind o.emod.toNat) count root src.toNat dst.toNat then raise s (tColl 1 (wordOf c))
      else if 16 ≤ ((collsOf s c).filter Coll.open).length then waitFor s .retry
      else
        let q := nextSeq s c
        let h := s.hart
        let x : Coll := {
          seq := q
          kind := kind
          op := op
          ty := o.emod.toNat
          src := src
          dst := dst
          count := count
          rootRank := root
          hart := s.cur
          root := h.root
          asid := h.asid
          level := h.level
          st := .outstanding }
        let s := { s with pkg := { s.pkg with collSeq := sset 0 s.pkg.collSeq c (q + 1) } }
        let s := setColls s c ((collsOf s c).filter (fun y => y.open || recentSeq s c y.seq) ++ [x])
        let s := s.putHart { s.hart with stat := { s.hart.stat with ceff := true } }
        done (s.wS o.sd (wordOf (c * pow2 32 + q.toNat))) 8)

def execCollAred (op : CollOp) (o : ExOp) (s : State) : Outcome State Fault Refusal :=
  issueColl 0 (collOpCode op) (collOpCode op) o s
def execCollAgat (o : ExOp) (s : State) : Outcome State Fault Refusal := issueColl 1 0 8 o s
def execCollRsct (op : CollOp) (o : ExOp) (s : State) : Outcome State Fault Refusal :=
  issueColl 2 (collOpCode op) (16 + collOpCode op) o s
def execCollBcast (o : ExOp) (s : State) : Outcome State Fault Refusal := issueColl 3 0 24 o s

/-! The buffers of this package -/

/-- Replace the collective with a sequence number. -/
def updateColl (s : State) (c : Nat) (q : BitVec 32) (f : Coll → Coll) : State :=
  setColls s c ((collsOf s c).map (fun x => if x.seq = q then f x else x))

/-- The ranges [va, va + len) cut at 4 KiB boundaries: at most `fuel` pieces. -/
def pageCuts : Nat → Nat → Nat → List (Nat × Nat)
  | 0, _, _ => []
  | fuel + 1, va, len =>
    if len = 0 then []
    else
      let n := Nat.min len (4096 - va % 4096)
      (va, n) :: pageCuts fuel (va + n) (len - n)

def pagesOf (va len : Nat) : List (Nat × Nat) := pageCuts (len / 4096 + 2) va len

/-- Why a collective cannot reach a piece: the page that faults, or none while a migration holds the entry (R313). -/
abbrev PieceStop := Option Nat

/-- The physical place of the `n` bytes at a virtual address, within one page, in the context that a collective recorded, where
first and last byte may be accessed so. -/
def collPa (s : State) (x : Coll) (acc : Acc) (va n : Nat) : State × Except PieceStop Nat :=
  let stop := .error (some (va / 4096 * 4096))
  let check := fun (s : State) (pa : Nat) =>
    if (windowSub s x.level x.asid acc pa 1).isNone && (windowSub s x.level x.asid acc (pa + n - 1) 1).isNone then (s, .ok pa)
    else (s, stop)
  if x.level = .m then check s va
  else
    match translate s ⟨x.level, x.root, x.asid, tlbOf x.hart⟩ va acc with
    | (s, .ok pa _ _ _) => check s pa
    | (s, .held) => (s, .error none)
    | (s, _) => (s, stop)

/-- The physical pieces of a range. -/
def collPas (s : State) (x : Coll) (acc : Acc) : List (Nat × Nat) → State × Except PieceStop (List (Nat × Nat))
  | [] => (s, .ok [])
  | p :: ps =>
    match collPa s x acc (p.1 % pow2 64) p.2 with
    | (s, .error e) => (s, .error e)
    | (s, .ok pa) =>
      match collPas s x acc ps with
      | (s, .ok l) => (s, .ok ((pa, p.2) :: l))
      | (s, .error e) => (s, .error e)

/-- A participant's source pieces: none are read for a broadcast except at ROOT (R430). -/
def collSrcPieces (m : Comm) (x : Coll) : List (Nat × Nat) :=
  if x.kind = 3 ∧ ¬ m.rank = x.rootRank then []
  else pagesOf x.src.toNat (collSrcBytes x.kind m.nrank x.count (collElem x.kind x.ty))

/-- Its destination pieces: none are written at ROOT of a broadcast in place. -/
def collDstPieces (m : Comm) (x : Coll) : List (Nat × Nat) :=
  if x.kind = 3 ∧ m.rank = x.rootRank ∧ x.src = x.dst then []
  else pagesOf x.dst.toNat (collDstBytes x.kind m.nrank x.count (collElem x.kind x.ty))

/-- The physical pieces of source and destination, or the page that faults (R431 SUB 5). -/
def collBuffers (s : State) (m : Comm) (x : Coll) : State × Except PieceStop (List (Nat × Nat) × List (Nat × Nat)) :=
  match collPas s x .read (collSrcPieces m x) with
  | (s, .error e) => (s, .error e)
  | (s, .ok src) =>
    match collPas s x .write (collDstPieces m x) with
    | (s, .error e) => (s, .error e)
    | (s, .ok dst) => (s, .ok (src, dst))

/-! Waiting -/

/-- Send RETRY for every refused frame of a collective that this package holds; the peer sends them again (R425). -/
def sendRetry (s : State) (c : Nat) (q : BitVec 32) : State :=
  let mine := fun (f : Frame) => decide (f.kind = 1) && decide (f.comm = c) && decide (f.seq = q.toNat)
  { s with pkg := { s.pkg with
    answers := s.pkg.answers ++ ((s.pkg.refusedIn.filter mine).map (fun f => (f.spkg, f.daddr, FrameAnswer.retry)))
    refusedIn := s.pkg.refusedIn.filter (fun f => !mine f) } }

/-- A collective stopped for a page is waited on again: the page checks run again (R425). -/
def resumeColl (s : State) (c : Nat) (x : Coll) : Eff State :=
  match commOf s c with
  | none => waitFor s .retry
  | some m =>
    match collBuffers s m x with
    | (s, .error (some page)) => raise s (tColl 5 (wordOf page))
    | (s, .error none) => waitFor s .retry
    | (s, .ok _) => waitFor (sendRetry (updateColl s c x.seq (fun y => { y with st := .outstanding })) c x.seq) .retry

/-- `coll.wait` (R431). -/
def execCollWait (o : ExOp) (s : State) : Outcome State Fault Refusal :=
  let h := s.rS o.sa
  let c := bits h 63 32
  let q := BitVec.ofNat 32 (bits h 31 0)
  finish (do
    engineOnly s 61 32 o
    match (if recentSeq s c q then (collsOf s c).find? (fun x => decide (x.seq = q)) else none) with
    | none => done (s.wS o.sd 0) 8
    | some x =>
      match x.st with
      | .outstanding | .sending => waitFor s .retry
      | .done => done (s.wS o.sd 0) 8
      | .failed sub v => raise (updateColl s c q (fun y => { y with st := .retired sub })) (tColl sub v)
      | .retired 5 => resumeColl s c x
      | .retired sub => done (s.wS o.sd (wordOf sub)) 8)

/-! Completion (R430) -/

/-- One rank's source: its bytes and, for each byte, whether its line is poisoned. -/
structure RankData where
  bytes : List Byte
  marked : List Bool
  deriving DecidableEq, Repr

/-- Element `i` of `b` bytes. -/
def RankData.elem (d : RankData) (b i : Nat) : Nat := gather (fun k => d.bytes.getD k 0) (b * i) b

def RankData.bad (d : RankData) (b i : Nat) : Bool := (List.range b).any (fun k => d.marked.getD (b * i + k) false)

/-- What a peer brought; its marks are by the 128-byte lines of its source. -/
def peerData (p : PeerPart) : RankData :=
  ⟨p.bytes, (List.range p.bytes.length).map (fun k => p.marks.getD (k / 128) false)⟩

def piecesReady (s : State) (l : List (Nat × Nat)) : Bool := l.all (fun p => (List.range p.2).all (fun k => byteReady s (p.1 + k)))

/-- Every Vault line of the pieces is full, as a read by an engine of the device needs it (R386). DEDUCED: a collective is none
of the agents that R386 lets read an empty line (log 92). -/
def piecesFull (s : State) (l : List (Nat × Nat)) : Bool :=
  l.all (fun p => (List.range p.2).all (fun k =>
    match regionOf (p.1 + k) with
    | .vault c o => !lineReadsEmpty s c o
    | _ => true))

/-- What this package's pieces hold. -/
def ownData (s : State) (l : List (Nat × Nat)) : RankData :=
  ⟨(l.map (fun p => (List.range p.2).map (fun k => peekByte s (p.1 + k)))).flatten,
    (l.map (fun p => (List.range p.2).map (fun k => markAt s (p.1 + k)))).flatten⟩

/-- The reducing operation on codes (R73, R430). -/
def collStep (t : Ty) (op i a b : Nat) : Nat :=
  if isFloat t then
    let v := (match op with
      | 0 => vadd2 .rne (decode t a) (decode t b)
      | 1 => vminmax true (decode t a) (decode t b)
      | _ => vminmax false (decode t a) (decode t b))
    (round t v.1 ⟨.rne, false, 0, i, 0⟩).1
  else
    let x := intOf t a
    let y := intOf t b
    wrapBits (match op with | 0 => x + y | 1 => if x < y then y else x | _ => if y < x then y else x) (tyWidth t)

/-- fold(i) of R430 over the ranks in ascending order. -/
def foldElem (t : Ty) (op b i : Nat) : List RankData → Nat
  | [] => 0
  | d :: ds => ds.foldl (fun acc e => collStep t op i acc (e.elem b i)) (d.elem b i)

/-- The destination of a rank: bytes with their marks. -/
def collResult (x : Coll) (rank : Nat) (ds : List RankData) : RankData :=
  let t := collTy x.kind x.ty
  let b := collElem x.kind x.ty
  let fold := fun (base : Nat) =>
    let es := (List.range x.count).map (fun i => base + i)
    (⟨(es.map (fun i => bytesOfNat b (foldElem t x.op b i ds))).flatten,
      (es.map (fun i => List.replicate b (ds.any (fun d => d.bad b i)))).flatten⟩ : RankData)
  match x.kind with
  | 0 => fold 0
  | 2 => fold (rank * x.count)
  | 1 => ⟨(ds.map (fun d => d.bytes)).flatten, (ds.map (fun d => d.marked)).flatten⟩
  | _ => ds.getD x.rootRank ⟨[], []⟩

/-- The marks of a piece after a write: a cell written whole loses its mark (R387), and marked data marks the line or cell that it
reaches (R316). -/
def markPiece (s : State) (pa : Nat) (marked : List Bool) : State :=
  let s := (List.range marked.length).foldl (fun s k =>
    match regionOf (pa + k) with
    | .square _ _ _ 0 => if k + 8 ≤ marked.length ∧ unheld s (pa + k) = false then setMarkAt s (pa + k) false else s
    | _ => s) s
  (enumList marked).foldl (fun s m => if m.2 then markCopied s (pa + m.1) else s) s

/-- Write a destination through its pieces. -/
def writeResult (s : State) (r : RankData) : List (Nat × Nat) → State
  | [] => s
  | p :: ps =>
    let s := pokeBytes s p.1 (r.bytes.take p.2)
    let s := markPiece s p.1 (r.marked.take p.2)
    writeResult s ⟨r.bytes.drop p.2, r.marked.drop p.2⟩ ps

/-- A peer's part differs from this package's collective (R431 SUB 3). -/
def partDiffers (x : Coll) (p : PeerPart) : Bool :=
  !(decide (p.kind = x.kind) && decide (p.op = x.op) && decide (p.ty = x.ty) && decide (p.count = x.count)
    && decide (p.root = x.rootRank))

/-- The parts in rank order with this package's own among them; none while a rank is missing. -/
def rankData (m : Comm) (own : RankData) (peers : List PeerPart) : Option (List RankData) :=
  allSome ((List.range m.nrank).map (fun q =>
    if q = m.rank then some own else (peers.find? (fun p => p.rank == q)).map peerData))

/-- End a collective with a failure. -/
def failColl (s : State) (c : Nat) (x : Coll) (sub : Nat) (v : Word) : State :=
  updateColl s c x.seq (fun y => { y with st := .failed sub v })

/-! The frames of this package's share (R422, R424) -/

/-- The chunks of data for pieces of a peer's virtual addresses, as KIND 1 frames. -/
def dataFrames (s : State) (c dpkg : Nat) (q : BitVec 32) (r : RankData) : List (Nat × Nat) → List Frame
  | [] => []
  | p :: ps =>
    let marks := r.marked.take p.2
    ⟨ownPkg s, dpkg, 1, false, p.1 % pow2 64, c, q.toNat, r.bytes.take p.2,
      (List.range ((p.2 + 127) / 128)).map (fun i => ((marks.drop (128 * i)).take 128).any id), none⟩
      :: dataFrames s c dpkg q ⟨r.bytes.drop p.2, r.marked.drop p.2⟩ ps

/-- What this package sends to the destination of rank `q`: its own part of a gather, the data of a broadcast at ROOT, and the
folded elements of a reduction that falls to it; the spec leaves open which rank folds (log 93). -/
def shareFor (m : Comm) (c : Nat) (x : Coll) (own : RankData) (ds : List RankData) (q dst : Nat) : Option (RankData × Nat) :=
  match x.kind with
  | 1 => some (own, dst + m.rank * x.count)
  | 3 => if m.rank = x.rootRank then some (own, dst) else none
  | _ => if m.rank = Config.foldRank c x.seq.toNat % m.nrank then some (collResult x q ds, dst) else none

/-- The frames of this package's share for its peers. -/
def collFrames (s : State) (c : Nat) (m : Comm) (x : Coll) (own : RankData) (ds : List RankData) (peers : List PeerPart) :
    List Frame :=
  (((List.range m.nrank).filter (fun q => !decide (q = m.rank))).map (fun q =>
    match peers.find? (fun p => p.rank == q), rankPkg s m.rlist q with
    | some p, some dpkg =>
      match shareFor m c x own ds q p.dst with
      | some (r, va) => dataFrames s c dpkg x.seq r (pagesOf va r.bytes.length)
      | none => []
    | _, _ => [])).flatten

/-- A held frame belongs to a collective. -/
def frameOf (c : Nat) (q : BitVec 32) (f : HeldFrame) : Bool :=
  decide (f.frame.kind = 1) && decide (f.frame.comm = c) && decide (f.frame.seq = q.toNat)

/-- A collective whose destination is written is complete once its frames are committed (R384, R424). -/
def settleSent (s : State) (c : Nat) (q : BitVec 32) : State :=
  if s.pkg.held.any (frameOf c q) then s
  else updateColl s c q (fun y => if y.st = .sending then { y with st := .done } else y)

/-- A collective meets its peers' parts (R430, R431): it reads its sources, writes its destination and sends its share. It waits
while a cell or line that it needs is not ready, and while a migration holds a page of its own. -/
def completeColl (s : State) (c : Nat) (m : Comm) (x : Coll) (peers : List PeerPart) : State :=
  if peers.any (partDiffers x) then failColl s c x 3 (wordOf (c * pow2 32 + x.seq.toNat))
  else
    match peers.find? (fun p => p.refusal.isSome) with
    | some p => failColl s c x 4 (wordOf (p.rank % 4096 + (p.refusal.getD 0) % 256 * 65536))
    | none =>
      match collBuffers s m x with
      | (s, .error (some page)) => failColl s c x 5 (wordOf page)
      | (s, .error none) => s
      | (s, .ok (src, dst)) =>
        if !piecesReady s src || !piecesFull s src || !piecesReady s dst then s
        else
          let own := ownData s src
          match rankData m own peers with
          | none => s
          | some ds =>
            let frames := collFrames s c m x own ds peers
            let s := updateColl (writeResult s (collResult x m.rank ds) dst) c x.seq (fun y => { y with st := .sending })
            settleSent (frames.foldl sendFrame s) c x.seq

/-- The oldest outstanding collective of a communicator completes or fails with what the peers bring. -/
def execCollectiveComplete (comm : Nat) (peers : List PeerPart) (s : State) : Outcome State Fault Refusal :=
  .next (match commOf s comm, (collsOf s comm).find? (fun x => decide (x.st = .outstanding)) with
    | some m, some x => completeColl s comm m x peers
    | _, _ => s)

end Sys2Proof.Machine
end

