-- ==== Sys2Proof/Machine/CommandHart.lean ====
section
/-! DEFINITION. Command-hart instructions (spec/19_command_host.md R399, R404 to R408) and MSI-X messages. -/

namespace Sys2Proof.Machine

open Host (Outcome)

/-- A command-hart instruction (R84). -/
def commandOnly (s : State) (i : Instr) : Eff Unit := need (isCommand s.cur) s (tIllegal (instrBits i))

/-- The host link is up (R433). -/
def linkUp (s : State) : Bool := (hlink s).getLsbD 0

/-- The mask bit of MSI-X vector `n`: bit 0 of its vector-control word, in the PCIe layout (R395). -/
def msixMasked (s : State) (n : Nat) : Bool := (rawReg s (ioPa 0 (0x10000 + 16 * n + 8))).getLsbD 32

/-- Send MSI-X vector `n`: discarded while the link is down; a masked vector sets its pending bit (R408). -/
def sendMsi (s : State) (n : Nat) : State :=
  if !linkUp s then s
  else if msixMasked s n then
    { s with pkg := { s.pkg with msixPending := sset false s.pkg.msixPending n true } }
  else { s with pkg := { s.pkg with msi := s.pkg.msi ++ [n] } }

/-- Semaphore n (R397). -/
def semAt (s : State) (n : Nat) : Word := rawReg s (semPa n)
def setSem (s : State) (n : Nat) (v : Word) : State := setReg s (semPa n) v

/-- The semaphore that `s[ra]` names, or ILLEGAL (R405). -/
def semNamed (s : State) (i : Instr) (ra : SReg) : Eff Nat := do
  commandOnly s i
  need (decide ((s.rS ra).toNat < 256)) s (tIllegal (instrBits i))
  .ok (s.rS ra).toNat

def execSemWaitGe (rd ra rb : SReg) (s : State) : Outcome State Fault Refusal :=
  finish (do
    let n ← semNamed s (.semWaitGe rd ra rb) ra
    if (semAt s n).ult (s.rS rb) then waitFor s .retry else done (s.wS rd (semAt s n)) 4)

/-- `sem.sig` in both forms (R405). -/
def signal (i : Instr) (f : Word → Word → Word) (rd ra rb : SReg) (s : State) : Outcome State Fault Refusal :=
  finish (do
    let n ← semNamed s i ra
    let old := semAt s n
    done ((setSem s n (f old (s.rS rb))).wS rd old) 4)

def execSemSig (rd ra rb : SReg) (s : State) : Outcome State Fault Refusal :=
  signal (.semSig rd ra rb) (fun _ v => v) rd ra rb s

def execSemSigAdd (rd ra rb : SReg) (s : State) : Outcome State Fault Refusal :=
  signal (.semSigAdd rd ra rb) (fun old v => old + v) rd ra rb s

/-- The zero bits of SEMCTL (R399). -/
def semctlOk (w : Nat) : Bool := decide (w / 256 % 128 = 0) && decide (w / pow2 16 % pow2 16 = 0)

/-- A launch record (R399). -/
def parseLaunch (b : Nat) : Option QueueEntry :=
  let kind := fieldAt b 0 1
  let die := fieldAt b 1 1
  let ps := fieldAt b 2 1
  let count := fieldAt b 4 4
  let rec_ := fieldAt b 8 8
  let sem := fieldAt b 0x18 8
  if fieldAt b 3 1 = 0 ∧ fieldAt b 0x10 8 = 0 ∧ die ≤ 7 ∧ rec_ % 64 = 0 ∧ semctlOk sem = true then
    (if kind = 0 ∧ ps = 0 ∧ 1 ≤ count ∧ count ≤ 4096 then some (.tasks die count rec_ (wordOf sem))
    else if kind = 1 ∧ ps ≤ 7 ∧ count = 0 then some (.pipeline die ps rec_ (wordOf sem))
    else none)
  else none

/-- A copy descriptor (R399). -/
def parseCopy (b : Nat) : Option QueueEntry :=
  let len := fieldAt b 0x10 8
  let sem := fieldAt b 0x18 8
  if 1 ≤ len ∧ len ≤ pow2 40 ∧ semctlOk sem = true then some (.copy (fieldAt b 0 8) (fieldAt b 8 8) len (wordOf sem))
  else none

/-- A queue has room (R398). -/
def queueRoom (s : State) (io q : Nat) : Bool := decide ((queueAt s io q).entries.length < 64)

/-- Append an entry and write its sequence number (R406). -/
def appendEntry (s : State) (io q : Nat) (e : QueueEntry) (rd : SReg) : State :=
  let x := queueAt s io q
  let seq := x.head + BitVec.ofNat 32 x.entries.length
  (setQueue s io q { x with entries := x.entries ++ [e] }).wS rd (wordOf seq.toNat)

/-- `launch` and `copy` (R406): read the record and check it, once; then wait for room and append it. -/
def enqueue (i : Instr) (parse : Nat → Option QueueEntry) (q : Nat) (rd ra : SReg) (s : State) :
    Outcome State Fault Refusal :=
  finish (do
    commandOnly s i
    aligned s (s.rS ra) 32
    let r ← hartReadWords s (s.rS ra) 4
    let s := r.1
    match parse r.2 with
    | none => done (s.wS rd allOnes64) 4
    | some e =>
      let io := ioOf s.cur
      if queueRoom s io q then done (appendEntry s io q e rd) 4 else waitFor s (.enqueue io q e rd))

/-- A turn of a `launch` or `copy` that waits for room with its entry (R406). -/
def execEnqueueWait (s : State) : Outcome State Fault Refusal :=
  finish (match s.hart.hold with
    | .enqueue io q e rd =>
      if queueRoom s io q then done (appendEntry (s.putHart { s.hart with hold := .none }) io q e rd) 4
      else waitFor s (.enqueue io q e rd)
    | _ => .ok s)

def execLaunch (rd ra : SReg) (s : State) : Outcome State Fault Refusal :=
  enqueue (.launch rd ra) parseLaunch s.hart.cq.toNat rd ra s

def execCopy (rd ra : SReg) (s : State) : Outcome State Fault Refusal :=
  enqueue (.copy rd ra) parseCopy s.hart.xq.toNat rd ra s

/-- `irq` (R408). -/
def execIrq (ra : SReg) (s : State) : Outcome State Fault Refusal :=
  finish (do
    commandOnly s (.irq ra)
    need (decide ((s.rS ra).toNat < 2048)) s (tIllegal (instrBits (.irq ra)))
    done (sendMsi s (s.rS ra).toNat) 4)

/-- `irq.hart` (R408). -/
def execIrqHart (ra rb : SReg) (s : State) : Outcome State Fault Refusal :=
  let h := (s.rS rb).toNat % 4096
  finish (do
    commandOnly s (.irqHart ra rb)
    need (decide ((s.rS ra).toNat < 0x0E0)) s (tIllegal (instrBits (.irqHart ra rb)))
    if 16 ≤ (extQueue s h).length then waitFor s .retry else done (extPush s h (s.rS ra).toNat) 4)

/-- `qsel` (R407). -/
def execQsel (rd ra : SReg) (s : State) : Outcome State Fault Refusal :=
  let q := (s.rS ra).toNat
  let x := s.hart
  finish (do
    commandOnly s (.qsel rd ra)
    if q < 8 then done ((s.putHart { x with cq := BitVec.ofNat 3 q }).wS rd (wordOf (x.cq.toNat + 16 * x.xq.toNat))) 4
    else if q < 12 then done ((s.putHart { x with xq := BitVec.ofNat 4 q }).wS rd (wordOf (x.cq.toNat + 16 * x.xq.toNat))) 4
    else done (s.wS rd allOnes64) 4)

end Sys2Proof.Machine
end

