-- ==== Sys2Proof/Machine/ScalarFp.lean ====
section
/-! DEFINITION. Scalar floating point (spec/04_scalar.md R115 to R121). -/

namespace Sys2Proof.Machine

open Host (Outcome)

/-- Write a scalar floating-point result with its flags (R19, R36). -/
def putF (s : State) (rd : SReg) (b : Nat) (f : Flags) : Eff State := do
  let s ← flagStop s f
  done (s.wF rd (wordOf b)) 4

/-- `f[r]` decoded in a format (R19). -/
def State.valF (s : State) (t : Ty) (r : SReg) : Val := decode t ((s.rF r).toNat % pow2 (tyWidth t))

/-- An arithmetic instruction: one rounding of an exact value, SR tag 0x100 + RD (R115, R117). -/
def fpResult (fmt : FFmt) (rms : Option RMode) (rd : SReg) (v : Val × Flags) (s : State) : Outcome State Fault Refusal :=
  let r := round (ffmtTy fmt) v.1 (s.rnd rms false 0 (0x100 + rd.toNat))
  finish (putF s rd r.1 (v.2 ||| r.2))

/-- An exact sum with its flags. -/
def fsumOf (s : State) (rms : Option RMode) (a b : Val) : Val × Flags := vadd2 (s.rmEff rms) a b

/-- x·y + z, or z − x·y, exactly, with the flags of both steps (R116). -/
def fusedOf (rm : RMode) (negate : Bool) (x y z : Val) : Val × Flags :=
  let p := vmul x y
  let q := vadd2 rm (if negate then vneg p.1 else p.1) z
  (q.1, p.2 ||| q.2)

def execFadd (fmt : FFmt) (rms : Option RMode) (rd ra rb : SReg) (s : State) :=
  fpResult fmt rms rd (fsumOf s rms (s.valF (ffmtTy fmt) ra) (s.valF (ffmtTy fmt) rb)) s

def execFsub (fmt : FFmt) (rms : Option RMode) (rd ra rb : SReg) (s : State) :=
  fpResult fmt rms rd (fsumOf s rms (s.valF (ffmtTy fmt) ra) (vneg (s.valF (ffmtTy fmt) rb))) s

def execFmul (fmt : FFmt) (rms : Option RMode) (rd ra rb : SReg) (s : State) :=
  fpResult fmt rms rd (vmul (s.valF (ffmtTy fmt) ra) (s.valF (ffmtTy fmt) rb)) s

def execFdiv (fmt : FFmt) (rms : Option RMode) (rd ra rb : SReg) (s : State) :=
  fpResult fmt rms rd (vdiv (s.valF (ffmtTy fmt) ra) (s.valF (ffmtTy fmt) rb)) s

def execFsqrt (fmt : FFmt) (rms : Option RMode) (rd ra : SReg) (s : State) :=
  fpResult fmt rms rd (vsqrt (s.valF (ffmtTy fmt) ra)) s

def execFmin (fmt : FFmt) (rd ra rb : SReg) (s : State) :=
  fpResult fmt none rd (vminmax false (s.valF (ffmtTy fmt) ra) (s.valF (ffmtTy fmt) rb)) s

def execFmax (fmt : FFmt) (rd ra rb : SReg) (s : State) :=
  fpResult fmt none rd (vminmax true (s.valF (ffmtTy fmt) ra) (s.valF (ffmtTy fmt) rb)) s

def execFmadd (fmt : FFmt) (rms : Option RMode) (rd ra rb : SReg) (s : State) :=
  fpResult fmt rms rd
    (fusedOf (s.rmEff rms) false (s.valF (ffmtTy fmt) ra) (s.valF (ffmtTy fmt) rb) (s.valF (ffmtTy fmt) rd)) s

def execFnmsub (fmt : FFmt) (rms : Option RMode) (rd ra rb : SReg) (s : State) :=
  fpResult fmt rms rd
    (fusedOf (s.rmEff rms) true (s.valF (ffmtTy fmt) ra) (s.valF (ffmtTy fmt) rb) (s.valF (ffmtTy fmt) rd)) s

/-- An integer result in a register: sign-extended for the signed types, zero-extended for the others (R119). -/
def intWord (t : Ty) (b : Nat) : Word := if isSigned t then sxWord b (tyWidth t) else wordOf (b % pow2 (tyWidth t))

/-- R119. The field rules exclude two integer types. -/
def execFcvt (dst src : CvtTy) (sat : Bool) (rms : Option RMode) (rd ra : SReg) (s : State) : Outcome State Fault Refusal :=
  let dt := cvtTy dst
  let st := cvtTy src
  let v := if cvtIsInt src then decode st (s.rS ra).toNat else s.valF st ra
  let r := s.rnd rms sat 0 (0x100 + rd.toNat)
  if cvtIsInt dst then
    let q := toInt dt v r
    finish (do
      let s ← flagStop s q.2
      done (s.wS rd (intWord dt q.1)) 4)
  else
    let q := round dt v r
    finish (putF s rd q.1 q.2)

/-- R120. -/
def execFmvFs (rd ra : SReg) (s : State) : Outcome State Fault Refusal := .next ((s.wF rd (s.rS ra)).adv 4)
def execFmvSf (rd ra : SReg) (s : State) : Outcome State Fault Refusal := putS s rd (s.rF ra)
def execFmvFf (rd ra : SReg) (s : State) : Outcome State Fault Refusal := .next ((s.wF rd (s.rF ra)).adv 4)

/-- The low `w` bits of `a` with sign bit `b`. -/
def withSign (w a : Nat) (b : Bool) : Nat := a % pow2 (w - 1) + (if b then pow2 (w - 1) else 0)

/-- Sign injection: `f` forms the sign from those of both operands. -/
def signInject (f : Bool → Bool → Bool) (fmt : FFmt) (rd ra rb : SReg) (s : State) : Outcome State Fault Refusal :=
  let w := tyWidth (ffmtTy fmt)
  let a := (s.rF ra).toNat
  let b := (s.rF rb).toNat
  .next ((s.wF rd (wordOf (withSign w a (f (a.testBit (w - 1)) (b.testBit (w - 1)))))).adv 4)

def execFsgn (fmt : FFmt) (rd ra rb : SReg) (s : State) := signInject (fun _ b => b) fmt rd ra rb s
def execFsgnN (fmt : FFmt) (rd ra rb : SReg) (s : State) := signInject (fun _ b => !b) fmt rd ra rb s
def execFsgnX (fmt : FFmt) (rd ra rb : SReg) (s : State) := signInject (fun a b => xor a b) fmt rd ra rb s

/-- A comparison (R121): `quiet` raises NV for a signalling NaN only. -/
def compareOf (ok : Ordering → Bool) (quiet : Bool) (x y : Val) : Bool × Flags :=
  if isNaN x || isNaN y then (false, if quiet then sigFlag x ||| sigFlag y else fNV) else (ok (vcmp x y), 0)

def isEq : Ordering → Bool | .eq => true | _ => false
def isLt : Ordering → Bool | .lt => true | _ => false
def isLe : Ordering → Bool | .gt => false | _ => true

def fpCompare (ok : Ordering → Bool) (quiet : Bool) (fmt : FFmt) (rd ra rb : SReg) (s : State) :
    Outcome State Fault Refusal :=
  let r := compareOf ok quiet (s.valF (ffmtTy fmt) ra) (s.valF (ffmtTy fmt) rb)
  finish (do
    let s ← flagStop s r.2
    done (s.wS rd (if r.1 then 1 else 0)) 4)

def execFeq (fmt : FFmt) (rd ra rb : SReg) (s : State) := fpCompare isEq true fmt rd ra rb s
def execFlt (fmt : FFmt) (rd ra rb : SReg) (s : State) := fpCompare isLt false fmt rd ra rb s
def execFle (fmt : FFmt) (rd ra rb : SReg) (s : State) := fpCompare isLe false fmt rd ra rb s

/-- The class mask of an encoding (R121). -/
def classMask (f : Fmt) (b : Nat) : Nat :=
  let m := b % pow2 f.mbits
  let e := b / pow2 f.mbits % pow2 f.ebits
  let neg := decide (b / pow2 (f.mbits + f.ebits) % 2 = 1)
  if e = pow2 f.ebits - 1 then
    (if m = 0 then (if neg then 1 else 128) else if m < pow2 (f.mbits - 1) then 256 else 512)
  else if e = 0 then
    (if m = 0 then (if neg then 8 else 16) else if neg then 4 else 32)
  else if neg then 2 else 64

/-- `classMask` of a type's encoding. -/
def classOf (t : Ty) (b : Nat) : Nat :=
  match fmtOf t with
  | some f => classMask f b
  | none => 0

def execFclass (fmt : FFmt) (rd ra : SReg) (s : State) : Outcome State Fault Refusal :=
  putS s rd (wordOf (classOf (ffmtTy fmt) (s.rF ra).toNat))

end Sys2Proof.Machine
end

