-- ==== Sys2Proof/Machine/VectorFp.lean ====
section
/-! DEFINITION. Vector floating point and conversion, major 0x32 (spec/05_vector.md R163 to R165), and the special
functions, major 0x35 (R172, R173). -/

namespace Sys2Proof.Machine

open Host (Outcome)

/-- One rounding of an exact value to TA with idx = e and tag = VD (R153, R163). -/
def roundElem (s : State) (o : VOp) (e : Nat) (v : Val × Flags) : Nat × Flags :=
  let r := round o.ta v.1 (s.rnd o.rms o.mod1 e o.vd.toNat)
  (r.1, v.2 ||| r.2)

/-- Element `e` of a row decoded as TA. -/
def srcVal (s : State) (t : Ty) (row e : Nat) : Eff Val := (srcElem s row (tyWidth t) e).map (decode t)

/-- A two-operand floating-point instruction: `f` forms the exact result from a and b. DEDUCED: for `vfmin` and `vfmax` a bf16
immediate that TA cannot represent is chosen exactly and then rounded under `fmode`.RM, with its flags, where the table of R163
says no rounding (log 86). -/
def fpProg (o : VOp) (f : RMode → Val → Val → Val × Flags) : VProg :=
  mapProg o (o.va.toNat :: vbReads o) (fun e s => do
    let a ← srcVal s o.ta o.va.toNat e
    let b ← opndVal s o e
    .ok (roundElem s o e (f (s.rmEff o.rms) a b)))

/-- A fused multiply-add (R116). -/
def fpFused (negate : Bool) (o : VOp) : VProg :=
  mapProg o (o.va.toNat :: vbReads o ++ [o.vd.toNat]) (fun e s => do
    let a ← srcVal s o.ta o.va.toNat e
    let b ← opndVal s o e
    let d ← srcVal s o.ta o.vd.toNat e
    .ok (roundElem s o e (fusedOf (s.rmEff o.rms) negate a b d)))

/-- A one-operand floating-point instruction. -/
def fpUnary (o : VOp) (f : Val → Val × Flags) : VProg :=
  mapProg o [o.va.toNat] (fun e s => do
    let a ← srcVal s o.ta o.va.toNat e
    .ok (roundElem s o e (f a)))

def progVfadd (o : VOp) : VProg := fpProg o (fun rm a b => vadd2 rm a b)
def progVfsub (o : VOp) : VProg := fpProg o (fun rm a b => vadd2 rm a (vneg b))
def progVfmul (o : VOp) : VProg := fpProg o (fun _ a b => vmul a b)
def progVfdiv (o : VOp) : VProg := fpProg o (fun _ a b => vdiv a b)
def progVfsqrt (o : VOp) : VProg := fpUnary o vsqrt
def progVfmin (o : VOp) : VProg := fpProg o (fun _ a b => vminmax false a b)
def progVfmax (o : VOp) : VProg := fpProg o (fun _ a b => vminmax true a b)
def progVfmadd (o : VOp) : VProg := fpFused false o
def progVfnmsub (o : VOp) : VProg := fpFused true o

/-- The sign bit of `opnd(e)`: an immediate's is that of its `bf16` code. -/
def opndSign (s : State) (o : VOp) (e : Nat) : Eff Bool :=
  match o.src with
  | .vi imm => .ok (imm.getLsbD 15)
  | .vr _ _ _ => (opndBits s o e).map (fun b => b.testBit (tyWidth o.ta - 1))

/-- Sign injection: `f` forms the sign from those of a and b (R164). -/
def signProg (f : Bool → Bool → Bool) (o : VOp) : VProg :=
  copyProg o (o.va.toNat :: vbReads o) (fun e s => do
    let a ← srcElem s o.va.toNat (tyWidth o.ta) e
    let b ← opndSign s o e
    .ok (withSign (tyWidth o.ta) a (f (a.testBit (tyWidth o.ta - 1)) b)))

def progVfsgn (o : VOp) : VProg := signProg (fun _ b => b) o
def progVfsgnN (o : VOp) : VProg := signProg (fun _ b => !b) o
def progVfsgnX (o : VOp) : VProg := signProg (fun a b => xor a b) o

def progVfclass (o : VOp) : VProg :=
  copyProg o [o.va.toNat] (fun e s => (srcElem s o.va.toNat (tyWidth o.ta) e).map (classOf o.ta))

/-- The conversion of a TB code to TA (R165). -/
def convertElem (s : State) (o : VOp) (e a : Nat) : Nat × Flags :=
  let v := decode o.tb a
  if isInt o.ta then
    (if isInt o.tb then intResult o.ta o.mod1 (intOf o.tb a) else toInt o.ta v (s.rnd o.rms o.mod1 e o.vd.toNat))
  else round o.ta v (s.rnd o.rms o.mod1 e o.vd.toNat)

/-- An instruction whose source and destination have widths `ws` and `wd` (R151). -/
def mixedProg (o : VOp) (ws wd : Nat) (legal : State → Bool) (f : Nat → Nat → State → Nat × Flags) : VProg where
  legal := legal
  rd := [o.va.toNat]
  wr := [o.vd.toNat]
  mrd := maskReads o.mask
  mwr := []
  inOrder := false
  issue := noIssue
  body := elemLoop o.mask wd (fun e s => do
    let a ← srcElem s o.va.toNat ws e
    elemLanded s o.vd.toNat wd e
    putResult o wd e (f e a s).1 (f e a s).2 s)
  rdTouch := fun k => if k < 48 then .narrow ws else .elem
  wrTouch := fun _ => .narrow wd

def progVcvt (o : VOp) : VProg :=
  mixedProg o (tyWidth o.tb) (tyWidth o.ta) (widerLegal (tyWidth o.tb) (tyWidth o.ta)) (fun e a s => convertElem s o e a)

/-- A special function (R172): one rounding of the exact value. -/
def progVexp2 (o : VOp) : VProg := fpUnary o vexp2
def progVlog2 (o : VOp) : VProg := fpUnary o vlog2
def progVrsqrt (o : VOp) : VProg := fpUnary o vrsqrt
def progVrecip (o : VOp) : VProg := fpUnary o vrecip
def progVtanh (o : VOp) : VProg := fpUnary o vtanh

/-- R173: the probability code of 2^a; a NaN raises NV. -/
def pennyElem (s : State) (o : VOp) (a : Nat) : Nat × Flags := prob s.hart.pmode (vexp2 (decode o.ta a)).1

def progVpenny (o : VOp) : VProg :=
  mixedProg o (tyWidth o.ta) 8 (widthLegal o.ta) (fun _ a s => pennyElem s o a)

def execVfadd (o : VOp) (s : State) : Outcome State Fault Refusal := execV (.vfadd o) (progVfadd o) s
def execVfsub (o : VOp) (s : State) : Outcome State Fault Refusal := execV (.vfsub o) (progVfsub o) s
def execVfmul (o : VOp) (s : State) : Outcome State Fault Refusal := execV (.vfmul o) (progVfmul o) s
def execVfdiv (o : VOp) (s : State) : Outcome State Fault Refusal := execV (.vfdiv o) (progVfdiv o) s
def execVfsqrt (o : VOp) (s : State) : Outcome State Fault Refusal := execV (.vfsqrt o) (progVfsqrt o) s
def execVfmin (o : VOp) (s : State) : Outcome State Fault Refusal := execV (.vfmin o) (progVfmin o) s
def execVfmax (o : VOp) (s : State) : Outcome State Fault Refusal := execV (.vfmax o) (progVfmax o) s
def execVfmadd (o : VOp) (s : State) : Outcome State Fault Refusal := execV (.vfmadd o) (progVfmadd o) s
def execVfnmsub (o : VOp) (s : State) : Outcome State Fault Refusal := execV (.vfnmsub o) (progVfnmsub o) s
def execVfsgn (o : VOp) (s : State) : Outcome State Fault Refusal := execV (.vfsgn o) (progVfsgn o) s
def execVfsgnN (o : VOp) (s : State) : Outcome State Fault Refusal := execV (.vfsgnN o) (progVfsgnN o) s
def execVfsgnX (o : VOp) (s : State) : Outcome State Fault Refusal := execV (.vfsgnX o) (progVfsgnX o) s
def execVfclass (o : VOp) (s : State) : Outcome State Fault Refusal := execV (.vfclass o) (progVfclass o) s
def execVcvt (o : VOp) (s : State) : Outcome State Fault Refusal := execV (.vcvt o) (progVcvt o) s
def execVexp2 (o : VOp) (s : State) : Outcome State Fault Refusal := execV (.vexp2 o) (progVexp2 o) s
def execVlog2 (o : VOp) (s : State) : Outcome State Fault Refusal := execV (.vlog2 o) (progVlog2 o) s
def execVpenny (o : VOp) (s : State) : Outcome State Fault Refusal := execV (.vpenny o) (progVpenny o) s
def execVrsqrt (o : VOp) (s : State) : Outcome State Fault Refusal := execV (.vrsqrt o) (progVrsqrt o) s
def execVrecip (o : VOp) (s : State) : Outcome State Fault Refusal := execV (.vrecip o) (progVrecip o) s
def execVtanh (o : VOp) (s : State) : Outcome State Fault Refusal := execV (.vtanh o) (progVtanh o) s

end Sys2Proof.Machine
end

