-- ==== Sys2Proof/Machine/Mask.lean ====
section
/-! DEFINITION. Mask instructions, major 0x33 (spec/05_vector.md R166). Mask fields name m0 to m11 by 0 to 11. -/

namespace Sys2Proof.Machine

open Host (Outcome)

/-- An instruction that writes bits of mask register VD. -/
def maskProg (o : VOp) (legal : State → Bool) (rd mrd : List Nat) (f : Nat → State → Eff (Bool × Flags)) : VProg where
  legal := legal
  rd := rd
  wr := []
  mrd := mrd ++ maskReads o.mask
  mwr := [o.vd.toNat]
  inOrder := false
  issue := noIssue
  body := .loop (fun s => ⟨s.vl, 1024 / s.ew, id, fun e s =>
    if s.hart.active o.mask e then do
      let r ← f e s
      let s ← flagStop s r.2
      .ok (s.setMbit o.vd.toNat e r.1)
    else .ok s, noLast⟩)

def cmpHolds : CmpOp → Ordering → Bool
  | .eq, .eq => true
  | .ne, .eq => false
  | .ne, _ => true
  | .lt, .lt => true
  | .le, .lt | .le, .eq => true
  | .gt, .gt => true
  | .ge, .gt | .ge, .eq => true
  | _, _ => false

/-- A floating-point comparison: `eq` and `ne` are quiet, and only `ne` holds with a NaN. -/
def fpCmp (c : CmpOp) (a b : Val) : Bool × Flags :=
  if isNaN a || isNaN b then
    match c with
    | .eq => (false, sigFlag a ||| sigFlag b)
    | .ne => (true, sigFlag a ||| sigFlag b)
    | _ => (false, fNV)
  else (cmpHolds c (vcmp a b), 0)

def progVcmp (c : CmpOp) (o : VOp) : VProg :=
  maskProg o (widthLegal o.ta) (o.va.toNat :: vbReads o) [] (fun e s => do
    let a ← srcVal s o.ta o.va.toNat e
    let b ← opndVal s o e
    .ok (cmpHolds c (vcmp a b), 0))

def progVfcmp (c : CmpOp) (o : VOp) : VProg :=
  maskProg o (widthLegal o.ta) (o.va.toNat :: vbReads o) [] (fun e s => do
    let a ← srcVal s o.ta o.va.toNat e
    let b ← opndVal s o e
    .ok (fpCmp c a b))

/-- The count is `vl` at the current `vew`, whatever it is. -/
def anyWidth (_ : State) : Bool := true

def maskLogic (f : Bool → Bool → Bool) (o : VOp) : VProg :=
  maskProg o anyWidth [] [o.va.toNat, o.vb] (fun e s => .ok (f (s.mbit o.va.toNat e) (s.mbit o.vb e), 0))

def progMand (o : VOp) : VProg := maskLogic (fun a b => a && b) o
def progMor (o : VOp) : VProg := maskLogic (fun a b => a || b) o
def progMxor (o : VOp) : VProg := maskLogic (fun a b => xor a b) o
def progMandn (o : VOp) : VProg := maskLogic (fun a b => a && !b) o

def progMfill (o : VOp) : VProg :=
  maskProg o anyWidth [] [] (fun e s => .ok (decide (e < (s.rS o.ss).toNat), 0))

/-- The active body elements whose bit in mA is 1. -/
def maskHits (s : State) (o : VOp) : List Nat :=
  (List.range s.vl).filter (fun e => decide (s.vsi ≤ e) && s.hart.active o.mask e && s.mbit o.va.toNat e)

/-- A mask instruction with a scalar result is a single step (R154). -/
def maskScalar (o : VOp) (f : List Nat → Word) : VProg where
  legal := anyWidth
  rd := []
  wr := []
  mrd := o.va.toNat :: maskReads o.mask
  mwr := []
  inOrder := false
  issue := noIssue
  body := .single (fun s => s.vl) (fun s => .ok (s.wS o.ss (f (maskHits s o))))

def progMpopc (o : VOp) : VProg := maskScalar o (fun l => wordOf l.length)

def progMfirst (o : VOp) : VProg :=
  maskScalar o (fun l => match l with | [] => allOnes64 | e :: _ => wordOf e)

/-- `miota` writes a vector register. -/
def progMiota (o : VOp) : VProg :=
  { mapProg o [] (fun e s => .ok (popNat e (s.hart.rM o.va.toNat).toNat % pow2 (tyWidth o.ta), 0)) with
    mrd := o.va.toNat :: maskReads o.mask }

def execVcmp (c : CmpOp) (o : VOp) (s : State) : Outcome State Fault Refusal := execV (.vcmp c o) (progVcmp c o) s
def execVfcmp (c : CmpOp) (o : VOp) (s : State) : Outcome State Fault Refusal := execV (.vfcmp c o) (progVfcmp c o) s
def execMand (o : VOp) (s : State) : Outcome State Fault Refusal := execV (.mand o) (progMand o) s
def execMor (o : VOp) (s : State) : Outcome State Fault Refusal := execV (.mor o) (progMor o) s
def execMxor (o : VOp) (s : State) : Outcome State Fault Refusal := execV (.mxor o) (progMxor o) s
def execMandn (o : VOp) (s : State) : Outcome State Fault Refusal := execV (.mandn o) (progMandn o) s
def execMpopc (o : VOp) (s : State) : Outcome State Fault Refusal := execV (.mpopc o) (progMpopc o) s
def execMfirst (o : VOp) (s : State) : Outcome State Fault Refusal := execV (.mfirst o) (progMfirst o) s
def execMfill (o : VOp) (s : State) : Outcome State Fault Refusal := execV (.mfill o) (progMfill o) s
def execMiota (o : VOp) (s : State) : Outcome State Fault Refusal := execV (.miota o) (progMiota o) s

end Sys2Proof.Machine
end

