-- ==== Sys2Proof/Machine/Permute.lean ====
section
/-! DEFINITION. Permute, slide and reduce, major 0x34 (spec/05_vector.md R167 to R171), with `tree_reduce`
(spec/02_number_formats.md R73, R74). -/

namespace Sys2Proof.Machine

open Host (Outcome)

/-- The slide distance k (R168). -/
def slideBy (s : State) (o : VOp) : Nat :=
  match o.src with
  | .vi imm => imm.toNat
  | .vr _ _ _ => (s.rS o.ss).toNat

/-- `src(i)` of R168: 0 at and above VLMAX. -/
def srcOrZero (s : State) (o : VOp) (i : Nat) : Eff Nat :=
  if i < vlmax (grantCount s.hart.grant) (tyWidth o.ta) then srcElem s o.va.toNat (tyWidth o.ta) i else .ok 0

/-- `vslideup` leaves elements below k; it is the in-order reader of R167. -/
def progVslideup (o : VOp) : VProg where
  legal := widthLegal o.ta
  rd := [o.va.toNat]
  wr := [o.vd.toNat]
  mrd := maskReads o.mask
  mwr := []
  inOrder := true
  issue := noIssue
  body := elemLoop o.mask (tyWidth o.ta) (fun e s =>
    let k := slideBy s o
    if e < k then .ok s
    else do
      let v ← srcElem s o.va.toNat (tyWidth o.ta) (e - k)
      elemLanded s o.vd.toNat (tyWidth o.ta) e
      .ok (putElem s o.vd.toNat (tyWidth o.ta) e v
        (cellWhole s.first (tyWidth o.ta) (fun i => s.hart.active o.mask i && decide (k ≤ i)) e)))

def progVslidedn (o : VOp) : VProg :=
  { copyProg o [o.va.toNat] (fun e s => srcOrZero s o (e + slideBy s o)) with
    rdTouch := fun k => if k = o.va.toNat then .whole else .elem }

def progVrgather (o : VOp) : VProg :=
  { copyProg o [o.va.toNat, o.vb] (fun e s => do
      let i ← srcElem s o.vb (tyWidth o.ta) e
      srcOrZero s o i) with
    rdTouch := fun k => if k = o.va.toNat then .whole else .elem }

/-- Active elements in [0, e). -/
def activeBelow (s : State) (o : VOp) (e : Nat) : Nat :=
  ((List.range e).filter (fun k => s.hart.active o.mask k)).length

def progVcompress (o : VOp) : VProg where
  legal := widthLegal o.ta
  rd := [o.va.toNat]
  wr := [o.vd.toNat]
  mrd := maskReads o.mask
  mwr := []
  inOrder := false
  issue := noIssue
  body := elemLoop o.mask (tyWidth o.ta) (fun e s => do
    let v ← srcElem s o.va.toNat (tyWidth o.ta) e
    let j := activeBelow s o e
    elemLanded s o.vd.toNat (tyWidth o.ta) j
    .ok (putElem s o.vd.toNat (tyWidth o.ta) j v
      (cellWhole (activeBelow s o s.first) (tyWidth o.ta) (fun _ => true) j)))
  wrTouch := fun _ => .whole

/-- The element number of `vext` and `vins`. -/
def extIndex (o : VOp) : Nat :=
  match o.src with | .vi imm => imm.toNat | .vr _ _ _ => 0

/-- Write a scalar result of type TA to `s[SS]`, extended, or to `f[SS]` (R19, R168, R169). -/
def putScalar (s : State) (t : Ty) (toF : Bool) (r : SReg) (b : Nat) : State :=
  if toF then s.wF r (wordOf (b % pow2 (tyWidth t))) else s.wS r (intWord t b)

/-- `vext` is a single step (R154). -/
def progVext (o : VOp) : VProg where
  legal := widthLegal o.ta
  rd := [o.va.toNat]
  wr := []
  mrd := []
  mwr := []
  inOrder := false
  issue := noIssue
  body := .single (fun s => s.vl) (fun s => do
    let v ← if extIndex o < s.vl then srcElem s o.va.toNat (tyWidth o.ta) (extIndex o) else .ok 0
    .ok (putScalar s o.ta o.mod1 o.ss v))

/-- `vins` performs element k alone. -/
def progVins (o : VOp) : VProg where
  legal := widthLegal o.ta
  rd := []
  wr := [o.vd.toNat]
  mrd := maskReads o.mask
  mwr := []
  inOrder := false
  issue := noIssue
  body := elemLoop o.mask (tyWidth o.ta) (fun e s =>
    if e = extIndex o then do
      elemLanded s o.vd.toNat (tyWidth o.ta) e
      .ok (putElem s o.vd.toNat (tyWidth o.ta) e (slideScalar s o) (decide (tyWidth o.ta = 64)))
    else .ok s)

/-! Reductions -/

/-- The combining step of a reduction: the exact operation, then `round` (or `wrap`) with an index; values are codes. -/
abbrev Combine := Nat → Nat → Nat → Nat × Flags

/-- One level of the tree of R73: level `h`, position `j`; none stands for ABSENT. -/
def treeLevel (f : Combine) (h : Nat) : Nat → List (Option Nat) → List (Option Nat) × Flags
  | j, p :: q :: rest =>
    let r := treeLevel f h (j + 1) rest
    match p, q with
    | none, _ => (q :: r.1, r.2)
    | _, none => (p :: r.1, r.2)
    | some a, some b =>
      let c := f (h * 1024 + j) a b
      (some c.1 :: r.1, c.2 ||| r.2)
  | _, l => (l, 0)

/-- The levels from `h` on, until one node is left. -/
def treeLoop (f : Combine) : Nat → Nat → List (Option Nat) → Option Nat × Flags
  | 0, _, l => (l.headD none, 0)
  | fuel + 1, h, l =>
    match l with
    | [] => (none, 0)
    | [x] => (x, 0)
    | _ =>
      let r := treeLevel f h 0 l
      let q := treeLoop f fuel (h + 1) r.1
      (q.1, r.2 ||| q.2)

/-- The least power of two at or above n. -/
def pow2Above (n : Nat) : Nat := if n ≤ 1 then 1 else pow2 (Nat.log2 (n - 1) + 1)

/-- `tree_reduce` of R73 on leaves; none when every leaf is ABSENT, so that the seed keeps its bits. -/
def treeReduce (f : Combine) (seed : Nat) (leaves : List (Option Nat)) : Option Nat × Flags :=
  let l := leaves ++ List.replicate (pow2Above leaves.length - leaves.length) none
  match treeLoop f 16 0 l with
  | (none, fl) => (none, fl)
  | (some x, fl) =>
    let c := f 1048576 seed x
    (some c.1, fl ||| c.2)

/-- A floating-point combining step on codes of type t. -/
def fpCombine (s : State) (t : Ty) (rms : Option RMode) (tag : Nat) (op : Val → Val → Val × Flags) : Combine :=
  fun idx a b =>
    let v := op (decode t a) (decode t b)
    let r := round t v.1 (s.rnd rms false idx tag)
    (r.1, v.2 ||| r.2)

/-- An integer combining step. -/
def intCombine (t : Ty) (sat : Bool) (op : Int → Int → Int) : Combine :=
  fun _ a b => intResult t sat (op (intOf t a) (intOf t b))

/-- Read the active body elements in ascending order with `rd`, ABSENT for the others. DEDUCED: a POISON inside a single-step
instruction stops it as a whole, with the poisoned source element in VALUE (R154, R157, log 87). -/
def leavesOf (s : State) (mask : BitVec 4) (rd : Nat → Eff Nat) : Nat → Nat → Eff (List (Option Nat))
  | _, 0 => .ok []
  | e, n + 1 => do
    let x ← if s.vsi ≤ e && s.hart.active mask e then (rd e).map some else .ok none
    let r ← leavesOf s mask rd (e + 1) n
    .ok (x :: r)

/-- Finish a reduction: set the flags, then write the register unless no element was active (R169, R170). -/
def putReduction (s : State) (t : Ty) (toF : Bool) (r : SReg) (res : Option Nat × Flags) : Eff State := do
  let s ← flagStop s res.2
  match res.1 with
  | none => .ok s
  | some v => .ok (putScalar s t toF r v)

/-- A reduction of R169. -/
def redProg (o : VOp) (f : State → Combine) : VProg where
  legal := widthLegal o.ta
  rd := [o.va.toNat]
  wr := []
  mrd := maskReads o.mask
  mwr := []
  inOrder := false
  issue := noIssue
  body := .single (fun s => s.vl) (fun s => do
    let l ← leavesOf s o.mask (srcElem s o.va.toNat (tyWidth o.ta)) 0 s.vl
    putReduction s o.ta (isFloat o.ta) o.ss (treeReduce (f s) (scalarBits s o.ta o.ss) l))

/-- The tag 0x200 + SS. -/
def redTag (o : VOp) : Nat := 0x200 + o.ss.toNat

/-- The combining step of an arithmetic reduction, integer or floating point. -/
def arithCombine (o : VOp) (i : Int → Int → Int) (g : RMode → Val → Val → Val × Flags) (s : State) : Combine :=
  if isFloat o.ta then fpCombine s o.ta o.rms (redTag o) (g (s.rmEff o.rms)) else intCombine o.ta o.mod1 i

def progVredsum (o : VOp) : VProg := redProg o (arithCombine o (fun a b => a + b) vadd2)

def progVredmax (o : VOp) : VProg :=
  redProg o (arithCombine o (fun a b => if a < b then b else a) (fun _ a b => vminmax true a b))

def progVredmin (o : VOp) : VProg :=
  redProg o (arithCombine o (fun a b => if b < a then b else a) (fun _ a b => vminmax false a b))

def progVredand (o : VOp) : VProg := redProg o (fun _ _ a b => (a &&& b, 0))
def progVredor (o : VOp) : VProg := redProg o (fun _ _ a b => (a ||| b, 0))

/-- The leaves of R74 for blocks `b` on: the exact sum of a block's active elements times its scale, rounded once. -/
def blockLeaves (s : State) (o : VOp) (l : List (Option Nat)) : Nat → Nat → List (Option Nat) × Flags
  | _, 0 => ([], 0)
  | b, n + 1 =>
    let k := blockLen o.ta
    let xs := ((l.drop (b * k)).take k).filterMap (fun x => x)
    let r := blockLeaves s o l (b + 1) n
    match xs with
    | [] => (none :: r.1, r.2)
    | _ =>
      let sum := vsum (s.rmEff o.rms) (xs.map (blockElem o.ta))
      let q := round o.tb (scaleBy sum.1 (blockScale o.ta (elemAt s o.vb 8 b))) (s.rnd o.rms false (2097152 + b) (redTag o))
      (some q.1 :: r.1, sum.2 ||| q.2 ||| r.2)

/-- Read element `e` of a block-scaled vector, and its block's scale with it: the lowest element that reads a marked cell raises
POISON (R44). -/
def blockRead (s : State) (o : VOp) (e : Nat) : Eff Nat := do
  let x ← srcElem s o.va.toNat 8 e
  let _ ← srcElem s o.vb 8 (e / blockLen o.ta)
  .ok x

/-- R171. -/
def progVredbs (o : VOp) : VProg where
  legal := fun s => decide (s.ew = 8)
  rd := [o.va.toNat, o.vb]
  wr := []
  mrd := maskReads o.mask
  mwr := []
  inOrder := false
  issue := noIssue
  body := .single (fun s => s.vl) (fun s => do
    let l ← leavesOf s o.mask (blockRead s o) 0 s.vl
    let k := blockLen o.ta
    let lv := blockLeaves s o l 0 ((s.vl + k - 1) / k)
    let r := treeReduce (fpCombine s o.tb o.rms (redTag o) (vadd2 (s.rmEff o.rms)))
      ((s.rF o.ss).toNat % pow2 (tyWidth o.tb)) lv.1
    putReduction s o.tb true o.ss (r.1, r.2 ||| lv.2))

def execVslideup (o : VOp) (s : State) : Outcome State Fault Refusal := execV (.vslideup o) (progVslideup o) s
def execVslidedn (o : VOp) (s : State) : Outcome State Fault Refusal := execV (.vslidedn o) (progVslidedn o) s
def execVrgather (o : VOp) (s : State) : Outcome State Fault Refusal := execV (.vrgather o) (progVrgather o) s
def execVcompress (o : VOp) (s : State) : Outcome State Fault Refusal := execV (.vcompress o) (progVcompress o) s
def execVext (o : VOp) (s : State) : Outcome State Fault Refusal := execV (.vext o) (progVext o) s
def execVins (o : VOp) (s : State) : Outcome State Fault Refusal := execV (.vins o) (progVins o) s
def execVredsum (o : VOp) (s : State) : Outcome State Fault Refusal := execV (.vredsum o) (progVredsum o) s
def execVredmax (o : VOp) (s : State) : Outcome State Fault Refusal := execV (.vredmax o) (progVredmax o) s
def execVredmin (o : VOp) (s : State) : Outcome State Fault Refusal := execV (.vredmin o) (progVredmin o) s
def execVredand (o : VOp) (s : State) : Outcome State Fault Refusal := execV (.vredand o) (progVredand o) s
def execVredor (o : VOp) (s : State) : Outcome State Fault Refusal := execV (.vredor o) (progVredor o) s
def execVredbs (o : VOp) (s : State) : Outcome State Fault Refusal := execV (.vredbs o) (progVredbs o) s

end Sys2Proof.Machine
end

