-- ==== Sys2Proof/Machine/Convoy.lean ====
section
/-! DEFINITION. Convoys (spec/03_encoding.md R80, R86 to R88; spec/01_hart.md R28; R203, R260): the rules on slots and the
common stop index. -/

namespace Sys2Proof.Machine

open Host (Outcome)

/-- A checked slot: its word, its work, whether it is a row-counting attention slot, the rows it counts, and whether it is an
`apv` or moves segments. -/
structure CSlot where
  word : Word
  prog : VProg
  rowAtt : Bool
  rowMarks : Bool
  rows : Nat
  apv : Bool
  seg : Bool
  floor : Nat

/-- Unit codes of R80. -/
def uAlu : List Nat := [0, 1]
def uFma : List Nat := [2]
def uSfu : List Nat := [3]
def uPerm : List Nat := [4]
def uMem : List Nat := [5]
def uSquare : List Nat := [6]
def uDrain : List Nat := [7]

/-- The units an instruction may run on in a convoy, with its work (R86); none when it may not stand in one. -/
def slotOf : Instr → Option (List Nat × VProg)
  | .vadd o => some (uAlu, progVadd o)
  | .vsub o => some (uAlu, progVsub o)
  | .vrsub o => some (uAlu, progVrsub o)
  | .vmul o => some (uAlu, progVmul o)
  | .vmulh o => some (uAlu, progVmulh o)
  | .vdiv o => some (uAlu, progVdiv o)
  | .vrem o => some (uAlu, progVrem o)
  | .vmin o => some (uAlu, progVmin o)
  | .vmax o => some (uAlu, progVmax o)
  | .vand o => some (uAlu, progVand o)
  | .vor o => some (uAlu, progVor o)
  | .vxor o => some (uAlu, progVxor o)
  | .vsll o => some (uAlu, progVsll o)
  | .vsrl o => some (uAlu, progVsrl o)
  | .vsra o => some (uAlu, progVsra o)
  | .vmacc o => some (uAlu, progVmacc o)
  | .vabs o => some (uAlu, progVabs o)
  | .vclz o => some (uAlu, progVclz o)
  | .vpopc o => some (uAlu, progVpopc o)
  | .vmv o => some (uAlu, progVmv o)
  | .vmerge o => some (uAlu, progVmerge o)
  | .vid o => some (uAlu, progVid o)
  | .vslide1Up o => some (uAlu, progVslide1Up o)
  | .vslide1Dn o => some (uAlu, progVslide1Dn o)
  | .vfadd o => some (uFma, progVfadd o)
  | .vfsub o => some (uFma, progVfsub o)
  | .vfmul o => some (uFma, progVfmul o)
  | .vfdiv o => some (uFma, progVfdiv o)
  | .vfsqrt o => some (uFma, progVfsqrt o)
  | .vfmin o => some (uFma, progVfmin o)
  | .vfmax o => some (uFma, progVfmax o)
  | .vfmadd o => some (uFma, progVfmadd o)
  | .vfnmsub o => some (uFma, progVfnmsub o)
  | .vfsgn o => some (uFma, progVfsgn o)
  | .vfsgnN o => some (uFma, progVfsgnN o)
  | .vfsgnX o => some (uFma, progVfsgnX o)
  | .vfclass o => some (uFma, progVfclass o)
  | .vcvt o => some (uFma, progVcvt o)
  | .vcmp c o => some (uAlu, progVcmp c o)
  | .vfcmp c o => some (uAlu, progVfcmp c o)
  | .mand o => some (uAlu, progMand o)
  | .mor o => some (uAlu, progMor o)
  | .mxor o => some (uAlu, progMxor o)
  | .mandn o => some (uAlu, progMandn o)
  | .mpopc o => some (uAlu, progMpopc o)
  | .mfirst o => some (uAlu, progMfirst o)
  | .mfill o => some (uAlu, progMfill o)
  | .miota o => some (uAlu, progMiota o)
  | .vslideup o => some (uPerm, progVslideup o)
  | .vslidedn o => some (uPerm, progVslidedn o)
  | .vrgather o => some (uPerm, progVrgather o)
  | .vcompress o => some (uPerm, progVcompress o)
  | .vext o => some (uPerm, progVext o)
  | .vins o => some (uPerm, progVins o)
  | .vredsum o => some (uPerm, progVredsum o)
  | .vredmax o => some (uPerm, progVredmax o)
  | .vredmin o => some (uPerm, progVredmin o)
  | .vredand o => some (uPerm, progVredand o)
  | .vredor o => some (uPerm, progVredor o)
  | .vredbs o => some (uPerm, progVredbs o)
  | .vexp2 o => some (uSfu, progVexp2 o)
  | .vlog2 o => some (uSfu, progVlog2 o)
  | .vpenny o => some (uSfu, progVpenny o)
  | .vrsqrt o => some (uSfu, progVrsqrt o)
  | .vrecip o => some (uSfu, progVrecip o)
  | .vtanh o => some (uSfu, progVtanh o)
  | .vld o => some (uMem, progVld o)
  | .vst o => some (uMem, progVst o)
  | .vlds o => some (uMem, progVlds o)
  | .vsts o => some (uMem, progVsts o)
  | .vldx o => some (uMem, progVldx o)
  | .vstx o => some (uMem, progVstx o)
  | .vldseg o => some (uMem, progVldseg o)
  | .vstseg o => some (uMem, progVstseg o)
  | .mop o => some (uSquare, progMop o)
  | .mmkO o => some (uSquare, progMmkO o)
  | .mmkF o => some (uSquare, progMmkF o)
  | .mmksO o => some (uSquare, progMmksO o)
  | .mmksF o => some (uSquare, progMmksF o)
  | .mzero o => some (uSquare, progMzero o)
  | .mcolGet o => some (uSquare, progMcolGet o)
  | .mcolPut o => some (uSquare, progMcolPut o)
  | .mdiagGet o => some (uSquare, progMdiagGet o)
  | .mdiagPut o => some (uSquare, progMdiagPut o)
  | .mdrain o => some (uDrain, progMdrain o)
  | .akvmask o => some (uAlu, progAkvmask o)
  | .asmax o => some (uPerm, progAsmax o)
  | .apexp o => some (uSfu, progApexp o)
  | .apv o => some (uSquare, progApv o)
  | .afin o => some (uFma, progAfin o)
  | _ => none

/-- The slot for an instruction and its work. -/
def cslotOf (w : Word) (i : Instr) (p : VProg) : CSlot :=
  let base : CSlot := ⟨w, p, false, false, 0, false, false, 0⟩
  match i with
  | .akvmask o | .apexp o | .afin o => { base with rowAtt := true, rowMarks := true, rows := o.g1 + 1 }
  | .asmax o => { base with rowAtt := true, rows := o.g1 + 1 }
  | .apv _ => { base with apv := true }
  | .vldseg _ | .vstseg _ => { base with seg := true }
  | _ => base

/-- Registers by key: rows at their number, masks from 48 on. -/
def readKeys (p : VProg) : List Nat := p.rd ++ p.mrd.map (fun k => 48 + k)
def writeKeys (p : VProg) : List Nat := p.wr ++ p.mwr.map (fun k => 48 + k)

def meets (a b : List Nat) : Bool := a.any (fun k => b.contains k)

/-- R87 for a slot on unit `u` after the slots `prev`. DEDUCED: the registers of the second and third rule are the vector and mask
registers of the first; an `s` or `f` register passes between slots in slot order (R88, log 100). -/
def slotRules (u : Nat) (asmax : Bool) (p : VProg) (prev : List CSlot) : Bool :=
  prev.all (fun q => !meets (writeKeys p) (writeKeys q.prog) && !meets (writeKeys p) (readKeys q.prog))
    && (!decide (u = 4) || p.inOrder
      || prev.all (fun q => !meets (readKeys p) (writeKeys q.prog) || (asmax && q.rowMarks)))

def isAsmax : Instr → Bool
  | .asmax _ => true
  | _ => false

/-- Decode and check the slots in order (R85 to R87); an offending slot raises ILLEGAL with its bits. -/
def checkSlots (s : State) (units : BitVec 18) : Nat → List CSlot → List Word → Eff (List CSlot)
  | _, prev, [] => .ok prev
  | k, prev, w :: ws =>
    match decodeVector w.toNat with
    | .error _ => raise s (tIllegal w)
    | .ok i =>
      match slotOf i with
      | none => raise s (tIllegal w)
      | some (us, p) =>
        let u := unitAt units k
        if us.contains u && p.legal s && slotRules u (isAsmax i) p prev then
          -- an `apv` waits for the row-counting slots before it (R260)
          let fl := prev.foldl (fun acc q => if q.rowAtt then Nat.max acc q.rows else acc) 0
          checkSlots s units (k + 1) (prev ++ [{ cslotOf w i p with floor := fl }]) ws
        else raise s (tIllegal w)

/-- The sticky flags cleared, so that a stop shows what its own operation raised. -/
def clearFlags (s : State) : State :=
  s.putHart { s.hart with conf := { s.hart.conf with fmode := s.hart.conf.fmode &&& 0xFC0F#16 } }

/-- The flags a stop carries. -/
def stopFlags (r : Eff State) : Flags :=
  match r with
  | .error (.trap t x) => if x.code = 0x08 then (t.hart.conf.fmode >>> 4).truncate 6 else 0
  | _ => 0

/-- Why a convoy stops: the slot, whether it is a cause of its issue, the index, the cause and its flags. -/
structure CStop where
  slot : Nat
  early : Bool
  at' : Nat
  stop : Stop
  flags : Flags

/-- The rank of a cause at one index (R44, R198): those of issue, waits and address faults, POISON, FPX. -/
def stopRank (c : CStop) : Nat :=
  if c.early then 0
  else
    match c.stop with
    | .wait _ _ => 1
    | .trap _ t => if t.code = 0x0A then 2 else if t.code = 0x08 then 3 else 1

/-- Above every limit (`vl` and a number of units are at most 1,024, R195) and every value of `vsi`. -/
def allIndices : Nat := pow2 14

/-- Perform `n` indices from `e` on, and say at which index it stops. -/
def slotSteps (body : Nat → State → Eff State) (k : Nat) : Nat → Nat → State → Except CStop State
  | 0, _, s => .ok s
  | n + 1, e, s =>
    match body e s with
    | .ok t => slotSteps body k n (e + 1) t
    | .error x => .error ⟨k, false, e, x, stopFlags (body e (clearFlags s))⟩

def isSingle (c : CSlot) : Bool := match c.prog.body with | .single _ _ => true | .loop _ => false

/-- Whether the slot has work below `lim`: an `apv` that has done nothing begins at unit 0, and only where it can reach its
floor (R260). -/
def CSlot.begins (c : CSlot) (lim : Nat) (s : State) : Bool :=
  if c.apv && decide (s.vsi < c.floor) then decide (c.floor ≤ lim) else decide (s.vsi < lim)

/-- The first index of a slot. -/
def slotFrom (c : CSlot) (s : State) : Nat := if c.apv && decide (s.vsi < c.floor) then 0 else s.vsi

/-- The index limit of a slot. -/
def CSlot.limit (c : CSlot) (s : State) : Nat :=
  match c.prog.body with
  | .loop f => (f s).limit
  | .single limit _ => limit s

/-- Slot `k` over its indices below `lim`: its issue-time checks, then its work. A single step counts as element 0 (R154). -/
def runSlot (c : CSlot) (k lim : Nat) (s : State) : Except CStop State :=
  match c.prog.body with
  | .single limit f =>
    if decide (lim = 0) || decide (limit s ≤ s.vsi) then .ok s
    else
      match f s with
      | .ok t => .ok t
      | .error x => .error ⟨k, false, 0, x, stopFlags (f (clearFlags s))⟩
  | .loop f =>
    if c.begins lim s then
      match c.prog.issue s with
      | .error x => .error ⟨k, true, s.vsi, x, 0⟩
      | .ok () =>
        let l := f s
        let lo := slotFrom c s
        slotSteps l.body k (Nat.min lim l.limit - lo) lo s
    else .ok s

/-- The completion effects of a slot that begins at `s`. -/
def CSlot.lastAt (c : CSlot) (s : State) : State → Eff State :=
  match c.prog.body with
  | .single _ _ => noLast
  | .loop f => if (f s).limit ≤ s.vsi then noLast else (f s).last

/-- Every slot in order, each below `lim` (R88): the state, and the completion effects of each. -/
def runSlots (lim : Nat) : Nat → List CSlot → State → Except CStop (State × List (State → Eff State))
  | _, [], s => .ok (s, [])
  | k, c :: cs, s =>
    match runSlot c k lim s with
    | .error x => .error x
    | .ok t =>
      match runSlots lim (k + 1) cs t with
      | .error x => .error x
      | .ok r => .ok (r.1, c.lastAt s :: r.2)

/-! What a later slot may do while an earlier one is unfinished (R88, R162, R203, R260) -/

/-- The width at which an index uses one element. -/
def Touch.width (ew : Nat) : Touch → Option Nat
  | .elem => some ew
  | .narrow w => some w
  | .row _ | .whole => none

/-- A register of which the writer has performed the indices below `r`: the bound on the indices of the reader that use nothing
the writer has yet to write. -/
def Touch.bound (ew r : Nat) (w c : Touch) : Option Nat :=
  match w, c with
  | .row j, .row i => if j < r then none else some i
  | .row j, _ => if j < r then none else some 0
  | _, .row i => some i
  | w, c =>
    match w.width ew, c.width ew with
    | some a, some b => some (r * a / b)
    | _, _ => some 0

/-- The part of register `k` that a slot reads; a single step reads it whole. -/
def CSlot.reads (c : CSlot) (k : Nat) : Touch := if isSingle c then .whole else c.prog.rdTouch k

/-- The indices of `q` that use no register which `p`, with its indices below `r` performed, has yet to write. -/
def regBound (p q : CSlot) (r : Nat) (s : State) : Nat :=
  ((readKeys q.prog).filter (fun k => (writeKeys p.prog).contains k)).foldl
    (fun acc k => match Touch.bound s.ew r (p.prog.wrTouch k) (q.reads k) with
      | some b => Nat.min acc b
      | none => acc) allIndices

/-- Two footprints meet in a byte that one of them writes. -/
def footMeet (a b : List (Bool × Nat × Nat)) : Bool :=
  a.any (fun x => b.any (fun y => (x.1 || y.1) && decide (x.2.1 < y.2.1 + y.2.2) && decide (y.2.1 < x.2.1 + x.2.2)))

/-- A slot that has been tried: its limit, and the index below which its indices are performed. -/
structure Tried where
  slot : CSlot
  limit : Nat
  reach : Nat
  loose : Bool

/-- Every index of the slot is performed. -/
def Tried.isDone (p : Tried) : Bool := decide (p.limit ≤ p.reach)

/-- The footprint of the indices that a slot has yet to perform. -/
def footFrom (p : Tried) (s : State) : List (Bool × Nat × Nat) :=
  ((List.range (p.limit - p.reach)).map (fun i => p.slot.prog.mem s (p.reach + i))).flatten

/-- The first index of `q` whose bytes meet those that `p` has yet to use; where the addresses of `p` are not yet known
(`loose`), any bytes do. -/
def memBound (p : Tried) (q : CSlot) (s : State) : Nat :=
  let foot := footFrom p s
  let lo := slotFrom q s
  (((List.range (q.limit s - lo)).map (fun i => lo + i)).find? (fun e =>
    let own := q.prog.mem s e
    if p.loose then !own.isEmpty else footMeet foot own)).getD allIndices

/-- The indices of `q` that may be performed before those that the earlier slot `p` has yet to perform. An `apv` begins only
once every row-counting slot before it is complete (R260). -/
def slotBound (p : Tried) (q : CSlot) (s : State) : Nat :=
  if p.isDone then allIndices
  else if q.apv && p.slot.rowAtt then 0
  else Nat.min (regBound p.slot q p.reach s) (memBound p q s)

/-- Its address registers are not yet all written. -/
def isLoose (tried : List Tried) (c : CSlot) : Bool :=
  tried.any (fun p => !p.isDone && meets c.prog.addrKeys (writeKeys p.slot.prog))

/-- The indices of a slot that the slots before it leave open to it. -/
def openTo (tried : List Tried) (c : CSlot) (s : State) : Nat :=
  tried.foldl (fun acc p => Nat.min acc (slotBound p c s)) allIndices

/-- The first of two causes (R44). -/
def betterStop (a : Option CStop) (b : CStop) : CStop :=
  match a with
  | none => b
  | some a =>
    if b.at' < a.at' ∨ (b.at' = a.at' ∧ stopRank b < stopRank a) then b else a

/-- Try the slots in order below `first`, each as far as the slots before it let it go, and give the cause at the lowest
index. DEDUCED (log 32): a slot does not reach an index that needs what an earlier, stopped slot has yet to write. -/
def findStop (first : Nat) : Nat → List Tried → Option CStop → List CSlot → State → Option CStop
  | _, _, best, [], _ => best
  | k, tried, best, c :: cs, s =>
    let free := openTo tried c s
    let lim := if isSingle c && decide (free < c.limit s) then 0 else Nat.min first free
    let mark := fun (r : Nat) => tried ++ [⟨c, c.limit s, r, isLoose tried c⟩]
    match runSlot c k lim s with
    | .ok t =>
      let whole := isSingle c && !decide (lim = 0)
      findStop first (k + 1) (mark (if whole then c.limit s else if c.begins lim s then lim else slotFrom c s)) best cs t
    | .error x =>
      let t := match runSlot c k x.at' s with | .ok t => t | .error _ => s
      findStop first (k + 1) (mark x.at') (some (betterStop best x)) cs t

/-- The highest limit of the slots. -/
def topLimit (slots : List CSlot) (s : State) : Nat := slots.foldl (fun acc c => Nat.max acc (c.limit s)) 0

/-- The coarsest granule of the slots (R154). -/
def topGran (slots : List CSlot) (s : State) : Nat :=
  slots.foldl (fun acc c => match c.prog.body with | .loop f => Nat.max acc (f s).gran | .single _ _ => acc) 1

/-- The index at which a requested stop comes: the highest that a slot asks for. -/
def topSeek (slots : List CSlot) (s : State) (k : Nat) : Nat :=
  slots.foldl (fun acc c => match c.prog.body with | .loop f => Nat.max acc ((f s).seek k) | .single _ _ => acc) k

/-- Every slot can be at index `e` with the slots before it: no slot has used below `e` what an earlier one writes at or above
`e` (R28, R88). -/
def coherentAt (e : Nat) : List Tried → List CSlot → State → Bool
  | _, [], _ => true
  | tried, c :: cs, s =>
    (!c.begins e s || decide (Nat.min e (c.limit s) ≤ openTo tried c s))
      && coherentAt e (tried ++ [⟨c, c.limit s, if c.begins e s then e else slotFrom c s, isLoose tried c⟩]) cs s

/-- The common stop index for a stop at `e` (R28, R154, R180, R203, R260). DEDUCED (log 32): where a slot needs the whole of what an
earlier one has not finished, the convoy has done nothing and stops where it began. -/
def commonIndex (slots : List CSlot) (s : State) (e : Nat) : Nat :=
  let e := if slots.any (fun c => c.seg) then e / 32 * 32 else e
  if e ≤ s.vsi || slots.any isSingle then s.vsi
  else
    match runSlots e 0 slots s with
    | .ok r => if coherentAt e [] slots r.1 then e else s.vsi
    | .error _ => s.vsi

/-- The index of a cause in the count of every slot: an `apv` below its floor stops where the convoy began, and a wait for a
landed bit at the start of its group. -/
def causeIndex (slots : List CSlot) (s : State) (c : CStop) : Nat :=
  let low := match slots[c.slot]? with
    | some x => x.apv && decide (c.at' < x.floor)
    | none => false
  if low then s.vsi
  else
    match c.stop with
    | .wait _ (.landed _ _ _) => groupStart (topGran slots s) s.vsi c.at'
    | _ => c.at'

/-- The completion effects of every slot, in order. -/
def lastSlots (l : List (State → Eff State)) (s : State) : Eff State := l.foldlM (fun s f => f s) s

/-- The rows that the updates and drains of a convoy stopped at `e` keep (R202). -/
def keptBy (slots : List CSlot) (e : Nat) (s : State) : BitVec 48 :=
  slots.foldl (fun acc c => if c.begins e s && decide (e < c.limit s) then acc ||| c.prog.kept else acc) 0

/-- What the index that stops a convoy leaves behind in its own slot: an access that was made before its POISON, or a packet
lost on its way, is counted (R216, R292). -/
def causeState (slots : List CSlot) (e : Nat) (c : CStop) (t : State) : State :=
  match slots[c.slot]? with
  | none => t
  | some x =>
    match x.prog.body with
    | .single _ _ => t
    | .loop f =>
      if c.early || !decide (c.at' = e) then t
      else
        match (f t).body e t with
        | .error (.trap u _) => u
        | .error (.wait u _) => u
        | .ok _ => t

/-- Stop a convoy that began at `s` at index `e`, with its slots performed below it, for a cause or for a requested stop. -/
def stopConvoy (slots : List CSlot) (s : State) (e : Nat) (c : Option CStop) : Eff State :=
  let t := if e ≤ s.vsi then s else match runSlots e 0 slots s with | .ok r => r.1 | .error _ => s
  let rows := if e ≤ s.vsi then s.hart.kept else keptBy slots e s
  match c with
  | none => .error ((Stop.wait (clearStop (t.setVsi e)) .none).keep s.first rows)
  | some c =>
    let t := causeState slots e c t
    let t := (t.putHart (t.hart.setFlags c.flags)).setVsi e
    match c.stop with
    | .trap _ x => raise t x
    | .wait _ h => .error ((Stop.wait t h).keep s.first rows)

/-- Run checked slots; a convoy of `n` slots takes 4 + 8n bytes. Only a scalar result, which no stop may part, can change the
limit of a later slot. -/
def runConvoy (slots : List CSlot) (s : State) : Eff State :=
  let top := topLimit slots s
  let stop := if slots.any isSingle then top else stopIndex s top (topGran slots s) (topSeek slots s)
  let first := if stop < top then stop else allIndices
  match if stop < top then .error ⟨0, false, stop, .wait s .none, 0⟩ else runSlots allIndices 0 slots s with
  | .ok r => (lastSlots r.2 r.1).bind (fun t => done ((endBegun t).setVsi 0) (4 + 8 * slots.length))
  | .error _ =>
    match findStop first 0 [] none slots s with
    | some c => stopConvoy slots s (commonIndex slots s (causeIndex slots s c)) (some c)
    | none => stopConvoy slots s (commonIndex slots s first) none

/-- A convoy (R80, R85 to R88). -/
def execConvoy (n : BitVec 3) (units : BitVec 18) (slots : List Word) (s : State) :
    Outcome State Fault Refusal :=
  finish (do
    computeOnly s (.convoy n units slots)
    let cs ← checkSlots s units 0 [] slots
    need (!decide (s.hart.grant = 0)) s (tNolease ((cs.map (fun c => c.word)).headD 0))
    rowsFree s (cs.map (fun c => c.prog.rd ++ c.prog.wr)).flatten
    runConvoy cs s)

end Sys2Proof.Machine
end

