-- ==== Sys2Proof/Machine/Shoot.lean ====
section
/-! DEFINITION. Removing translations (spec/13_die_translation.md R307 to R313): request records, posting, quiescence and
the application of a core's queue. -/

namespace Sys2Proof.Machine

/-- A request record (R307) that is valid, with its named cores; none when it breaks R307. -/
structure ShootRec where
  op : Nat
  size : Nat
  asid : BitVec 16
  va : Nat
  done : Nat
  ptea : Nat
  dst : Nat
  cores : Nat
  deriving DecidableEq, Repr

/-- DONE of a record lies where it can be written (R307). -/
def doneOk (s : State) (a : Nat) : Bool := decide (a % 8 = 0) && memBackedAll s a 8

def parseShoot (s : State) (b : Nat) : Option ShootRec :=
  let op := fieldAt b 0 1
  let size := fieldAt b 1 1
  let asid := fieldAt b 2 2
  let va := fieldAt b 8 8
  let ptea := fieldAt b 0x18 8
  let dst := fieldAt b 0x20 8
  let page := op == 0 || op == 3
  let mig := op == 3
  let ok :=
    decide (op ≤ 3)
    && (if mig then decide (size = 0) || decide (size = 5) else decide (size = 0))
    && (!decide (op = 2) || decide (asid = 0))
    && (if page then canonical va else decide (va = 0))
    && (if mig then decide (ptea % 8 = 0) && decide (dst % pow2 (pageLog size) = 0)
        else decide (ptea = 0) && decide (dst = 0))
    && decide (fieldAt b 4 4 = 0) && decide (fieldAt b 0x28 24 = 0)
    && doneOk s (fieldAt b 0x10 8)
  if ok then some ⟨op, size, BitVec.ofNat 16 asid, va, fieldAt b 0x10 8, ptea, dst, fieldAt b 0x40 64⟩ else none

/-- A cached translation that a request of OP 0 to 2 names (R307). -/
def shootHits (q : ShootReq) (t : TlbEntry) : Bool :=
  match q.op with
  | 0 => t.covers q.asid q.va
  | 1 => !t.glob && decide (t.asid = q.asid)
  | _ => true

def shootTlb (s : State) (k : Nat) (q : ShootReq) : State :=
  setTlb s k ((tlbAt s k).filter (fun t => !shootHits q t))

/-- Remove from every command hart's cache (R311, R393). -/
def shootCommand (s : State) (q : ShootReq) : State :=
  (List.range 8).foldl (fun s i => shootTlb s (512 + i) q) s

def setShootQueue (s : State) (c : Nat) (l : List ShootReq) : State :=
  { s with cores := { s.cores with shootQ := sset [] s.cores.shootQ c l } }

/-- The named cores, by number. -/
def coresOf (mask : Nat) : List Nat := (List.range 512).filter (fun c => mask.testBit c)

/-- The completion add of 1 on DONE for core `c` (R311); one that no memory backs any more is discarded and logged. -/
def addDone (s : State) (c a : Nat) : State :=
  if memBackedAll s a 8 then poke s a 8 ((peek s a 8 + 1) % pow2 64) else logDiscarded s (dieOfCore c) a

/-- Every named working core has a place in its queue (R308). -/
def shootRoom (s : State) (cores : Nat) : Bool :=
  (coresOf cores).all (fun c => coreDead s c || decide ((shootQueue s c).length < 16))

/-- The Assayer of a core's die removes the translations that a request names (R361). -/
def shootAssayer (s : State) (c : Nat) (q : ShootReq) : State := shootTlb s (520 + dieOfCore c) q

/-- Queue a request in a core at its die's clock; the Assayer of the die has none of its translations from here on
(R361). -/
def queueShoot (s : State) (c : Nat) (q : ShootReq) : State :=
  let s := shootAssayer s c q
  setShootQueue s c (shootQueue s c ++ [{ q with posted := sget 0 s.clock (dieOfCore c) }])

/-- The completion add of a request, if it has one. -/
def doneShoot (s : State) (c : Nat) (q : ShootReq) : State :=
  match q.done with
  | some a => addDone s c a
  | none => s

/-- Post a request to every named core in one step; a position without a working core counts as having applied it
(R308). -/
def postShoot (s : State) (q : ShootReq) (cores : Nat) : State :=
  (coresOf cores).foldl (fun s c => if coreDead s c then doneShoot (shootAssayer s c q) c q else queueShoot s c q)
    (shootCommand s q)

/-- No stream of a hart stands inside a window (R238). -/
def windowsEnded (s : State) (h : Nat) : Bool :=
  (List.range 16).all (fun k => !((slotAt s h k).winOpen && decide ((slotAt s h k).state = .running)))

/-- A partition that counts quiescent (R309); a forced one does so once its streams have ended their windows and FORCED has
counted it (R310). -/
def quiescent (s : State) (h : Nat) : Bool :=
  let x := s.hartAt h
  decide (x.run = .idle) || x.quiet || decide (x.hold = .xlinv) || x.counted

/-- A translation that the page-sorting unit holds for an address space is one that a request names (R307). -/
def pageHits (q : ShootReq) (asid : BitVec 16) (p : Nat × PageResult) : Bool :=
  match p.2 with
  | .fault _ _ => false
  | .ok _ size glob =>
    let n := pow2 (pageLog size)
    match q.op with
    | 0 => decide (q.va / n = 4096 * p.1 / n) && (glob || decide (asid = q.asid))
    | 1 => !glob && decide (asid = q.asid)
    | _ => true

/-- The page-sorting unit of a core drops the translations that a request names (R238, R311). -/
def shootPages (s : State) (c : Nat) (q : ShootReq) : State :=
  { s with slots := s.slots.map (fun p =>
      if p.1 / 128 = c then (p.1, { p.2 with pages := p.2.pages.filter (fun g => !pageHits q p.2.asid g) }) else p) }

/-- A migration whose removal was posted learns that a core has applied it (R313). -/
def migApplied (s : State) (c : Nat) (q : ShootReq) : State :=
  match q.mig with
  | none => s
  | some d =>
    let l := (sget [] s.dies.migs d).map (fun m => { m with waiting := m.waiting.filter (fun k => !(k == c)) })
    { s with dies := { s.dies with migs := sset [] s.dies.migs d l } }

/-- Apply one request in a core; the Assayer of its die has removed the translations first (R311, R361). -/
def applyShoot (s : State) (c : Nat) (q : ShootReq) : State :=
  let s := shootPages (shootAssayer (shootTlb s c q) c q) c q
  migApplied (doneShoot s c q) c q

/-- A hart of a core that has applied its queue: a waiting `qpoint` or `xlinv` completes (R311). -/
def releaseQuiet (s : State) (h : Nat) : State :=
  let x := s.hartAt h
  let ends := x.xlinvWait || decide (x.hold = .qpoint)
  let waits := ends || (x.quiet && decide (x.hold = .retry))
  let x' := { x with quiet := false, xlinvWait := false, forced := false, counted := false }
  s.setHart h (if waits then { x' with hold := .none, pc := if ends then x.pc + 4 else x.pc } else x')

/-- The core applies every queued request once all partitions are quiescent (R311). It waits for a Square cell that a DONE word
stands in (R202). -/
def applyCore (s : State) (c : Nat) : State :=
  let q := shootQueue s c
  if q.isEmpty || !(hartsOf c).all (fun h => quiescent s h) || !q.all (fun r => (r.done.map (wordReady s)).getD true) then s
  else
    let s := q.foldl (fun s r => applyShoot s c r) s
    (hartsOf c).foldl releaseQuiet (setShootQueue s c [])

/-- The core's oldest request has waited BOUND cycles (R310). -/
def watchdogDue (s : State) (c : Nat) : Bool :=
  match shootQueue s c with
  | [] => false
  | q :: _ => decide (q.posted + bits (rawReg s (ctlPa c 0x280)) 31 0 ≤ sget 0 s.clock (dieOfCore c))

/-- A forced partition counts quiescent, and FORCED gains 1 (R310). -/
def countForced (s : State) (h : Nat) : State :=
  let a := ctlPa (coreOf h) 0x280
  let w := rawReg s a
  let s := setReg s a (wordOf ((bits w 63 32 + 1) % pow2 32 * pow2 32 + bits w 31 0))
  s.setHart h { s.hartAt h with counted := true }

/-- The watchdog stops a partition that is not yet quiescent (R310), which counts as quiescent once its streams have ended
their windows. -/
def forceQuiet (s : State) (h : Nat) : State :=
  if !watchdogDue s (coreOf h) || quiescent s h then s
  else
    let s := s.setHart h { s.hartAt h with forced := true }
    if windowsEnded s h then countForced s h else s

end Sys2Proof.Machine
end

