-- ==== Sys2Proof/Machine/Ras.lean ====
section
/-! DEFINITION. Errors, the error log and sparing (spec/13_die_translation.md R316 to R321), the failure of a core
(spec/15_pipelines.md R350), and the ports' link errors (spec/21_fabric.md R418, R420). -/

namespace Sys2Proof.Machine

open Host (Outcome)

/-! Marks and machine checks -/

/-- Mark the lines of [base, limit), at most `fuel` of them. -/
def markLines : Nat → State → Nat → Nat → State
  | 0, s, _, _ => s
  | k + 1, s, base, limit => if base < limit then markLines k (setMarkAt s base true) (base / 128 * 128 + 128) limit else s

def markRange (s : State) (base limit : Nat) : State := markLines ((limit - base) / 128 + 2) s base limit

/-- The effect of lost data (R316, R317) before the record is written: a cell or the lines are marked, a translation cache
drops what it held. -/
def markLost (s : State) (e : ErrorReport) : State :=
  match e.kind with
  | .hbm | .hbmChannel | .memCache | .vault => markRange s e.base e.limit
  | .cell => setMarkAt s e.base true
  | .tcache => setTlb s e.core []
  | _ => s

/-- An error of state that carries no mark and cannot be had again raises MCHECK at the harts that own it (R317). -/
def ownersCheck (s : State) (e : ErrorReport) (rec : Nat) : State :=
  match e.kind with
  | .coreReg => (ownerHarts s e).foldl (fun s h => machineCheck s h rec) s
  | _ => s

/-- An ECC error is found (R316 to R319). A corrected one is corrected in place. -/
def detectError (s : State) (e : ErrorReport) : State :=
  if e.uncorrectable then
    let marked := match e.kind with
      | .hbm | .hbmChannel | .memCache | .vault | .cell => true
      | _ => false
    let r := logError (markLost s e) e (decide (e.kind = .tcache)) marked
    ownersCheck r.1 e r.2
  else (logError s e false false).1

def execErrorDetect (e : ErrorReport) (s : State) : Outcome State Fault Refusal := .next (detectError s e)

/-- The report of an error in the memory line at a physical address. -/
def lineReport (pa : Nat) (bad : Bool) : ErrorReport :=
  let a := pa / 128 * 128
  match regionOf pa with
  | .vault c o => ⟨dieOfCore c, .vault, bad, a, a + 128, c, o / pow2 21, 0, o / 128, .core⟩
  | _ => ⟨a / pow2 37, .hbm, bad, a, a + 128, 0, 0, 0, Config.hbmRow a, .core⟩

/-- The scrubber reads line `line` (physical address / 128) of HBM or of a Vault (R317). -/
def execScrubRead (line : Nat) (found : ScrubResult) (s : State) : Outcome State Fault Refusal :=
  .next (match regionOf (128 * line) with
    | .hbm _ | .vault _ _ =>
      match found with
      | .clean => s
      | .corrected => detectError s (lineReport (128 * line) false)
      | .uncorrectable => detectError s (lineReport (128 * line) true)
    | _ => s)

/-! Sparing -/

def setDiecfg (s : State) (d spares active : Nat) : State := setReg s (diecfgPa d) (wordOf (spares * pow2 16 + active))

def activeCores (s : State) (d : Nat) : Nat := bits (rawReg s (diecfgPa d)) 6 0

/-- Every partition of a core is idle. -/
def coreIdle (s : State) (c : Nat) : Bool := (hartsOf c).all (fun h => decide ((s.hartAt h).run = .idle))

/-- A core leaves its pipeline's pool and its stage's allotment (R345). -/
def leavePool (s : State) (d k c : Nat) : State :=
  let p := pipeAt s d k
  match assoc c p.pool with
  | none => s
  | some pl =>
    let st := match pl with
      | .joining t => some t
      | .serves t _ => some t
      | .leaving _ t => t
    let allot := match st with
      | some t => p.allot.modify t (fun n => n - 1)
      | none => p.allot
    setPipe s d k { p with pool := p.pool.filter (fun e => !(e.1 == c)), allot := allot }

/-- A core is retired: no working core holds its position (R298, R321), and the requests it holds count as applied. -/
def retireCore (s : State) (c : Nat) : State :=
  let d := dieOfCore c
  let s := applyCore s c
  let s := { s with cores := { s.cores with dead := sset false s.cores.dead c true } }
  let s := setDiecfg s d 0 (activeCores s d - 1)
  (List.range 8).foldl (fun s k => leavePool s d k (c % 64)) s

/-- A spare takes the place of core `c`, or the core is retired (R3, R321). -/
def spareCore (s : State) (c : Nat) : State :=
  let d := dieOfCore c
  let n := sparesLeft s d
  if 0 < n then setDiecfg s d (n - 1) (activeCores s d) else retireCore s c

def setBadCluster (s : State) (c : Nat) (b : BitVec 8) : State :=
  { s with cores := { s.cores with badCluster := sset 0 s.cores.badCluster c b } }

/-- The one spare cluster of a core replaces a free cluster; the next one is retired (R321). -/
def spareCluster (s : State) (c p : Nat) : State :=
  if sget false s.cores.spareCluster c then setBadCluster s c (badClusters s c ||| BitVec.ofNat 8 (pow2 p))
  else { s with cores := { s.cores with spareCluster := sset false s.cores.spareCluster c true } }

/-- Mark the listed lines that lie in the HBM of a die. -/
def markRows (s : State) (d : Nat) (l : List Nat) : State :=
  (l.filter (fun a => inHbm a 1 && decide (a / pow2 37 = d))).foldl (fun s a => setMarkAt s a true) s

/-- The loss of a unit that has no spare left (R321): its lines are marked, an edge runs narrower, and a record with RETIRED
is written. -/
def retireUnit (s : State) (u : SparableUnit) : State :=
  match u with
  | .vaultLine c line =>
    let e := lineReport (vaultPa c (128 * line)) false
    logRetired (markRange s e.base e.limit) e true
  | .hbmRow d row =>
    let l := Config.hbmRowLines d row
    logRetired (markRows s d l) ⟨d, .hbm, false, l.foldl Nat.min (l.headD 0), l.foldl Nat.max 0 + 128, 0, 0, 0, row, .core⟩ true
  | .hbmChannel d ch =>
    let l := Config.hbmChannelLines d ch
    logRetired (markRows s d l)
      ⟨d, .hbmChannel, false, l.foldl Nat.min (l.headD 0), l.foldl Nat.max 0 + 128, 0, 0, 0, ch, .core⟩ true
  | .wire d w => logRetired s ⟨d, .dieToDie, false, 0, 0, 0, 0, 0, w, .core⟩ false
  | _ => s

/-- A unit's sparing may be applied now: a core when its partitions are idle, a cluster when it is free, any other at once
(R321). A lane has none: its port retrains (R420). -/
def sparingDue (s : State) (u : SparableUnit) : Bool :=
  match u with
  | .core c => coreIdle s c
  | .cluster c p => (ungranted s c).getLsbD p
  | .lane _ _ => false
  | _ => true

/-- Apply the sparing of a unit that waits for it (R321). Where a spare is left, no value that software can read changes but
SPCORE. -/
def spareUnit (s : State) (u : SparableUnit) : State :=
  if sparingPending s u && sparingDue s u then
    let s := endSparing s u
    match u with
    | .core c => if coreDead s c then s else spareCore s c
    | .cluster c p => spareCluster s c p
    | .lane _ _ => s
    | u => if spareLeft s u then takeSpare s u else retireUnit s u
  else s

def execSpareApply (u : SparableUnit) (s : State) : Outcome State Fault Refusal := .next (spareUnit s u)

/-- The replacement is finished. The accesses that waited for it go on with the values they would have met at once, so
nothing is left to change (R321, log 4). -/
def execSparingComplete (_u : SparableUnit) (s : State) : Outcome State Fault Refusal := .next s

/-! The failure of a core -/

/-- A task to be replayed: nothing of its earlier run is kept (R350). -/
def Task.unstarted (t : Task) : Task :=
  { t with min := t.cmin, pref := t.cpref, bcur := 0, phw := 0, ceff := false, started := false, popped := false }

/-- The task of a failed hart (R350): replayed when its CEFF is 0 and it has popped no record, else EXITED and named in
`TLOST`. -/
def loseTask (s : State) (h k : Nat) : State :=
  let d := dieOf h
  let handle := handleOf s d k
  let s := rebind s d k none 0
  let t := taskAt s d k
  if (s.hartAt h).stat.ceff = false ∧ t.popped = false then makeReady s d k t.unstarted
  else
    let s := settleExited (setTask s d k { taskAt s d k with state := .exited }) d k
    errNotify (setReg s (diePa d 0x390) handle) d 0x0E1

/-- The pipeline and stage that a core serves remember that a partition must start its instance again. -/
def replayInstance (s : State) (h k : Nat) : State :=
  match (taskAt s (dieOf h) k).inst with
  | none => s
  | some (slot, _) =>
    let p := pipeAt s (dieOf h) slot
    setPipe s (dieOf h) slot { p with pool := p.pool.map (fun e =>
      if e.1 = coreOf h % 64 then
        (match e.2 with
          | .serves st todo => (e.1, .serves st (todo ||| BitVec.ofNat 8 (pow2 (partOf h))))
          | _ => e)
      else e) }

/-- A hart of a failed core: its state is lost and its partition idle (R350). What belongs to the partition (R268) and its
pod records (R432) stay. -/
def loseHart (s : State) (h : Nat) : State :=
  let x := s.hartAt h
  let s := match x.task with
    | none => s
    | some k =>
      let s := loseTask s h k
      if (taskAt s (dieOf h) k).state = .ready then replayInstance s h k else s
  let s := releaseTo s h 0
  let s := (List.range 16).foldl (fun s i => setSlot s h i Slot.reset) s
  s.setHart h { Hart.reset h with
    run := .idle
    strap := x.strap
    mtrap := x.mtrap
    root := x.root
    asid := x.asid
    pod := x.pod }

/-- A core fails (R350, R3): its tasks are replayed or lost, its translations go, and a spare takes its place or the core is
retired. -/
def failCore (s : State) (c : Nat) : State :=
  if coreDead s c then s
  else
    let s := (hartsOf c).foldl loseHart s
    spareCore (applyCore (setTlb (endSparing s (.core c)) c []) c) c

def execCoreFailure (core : Nat) (s : State) : Outcome State Fault Refusal := .next (failCore s core)

/-! Ports -/

/-- The report of an error of a lane of port `n`, by its compute die (R418, R420). -/
def portReport (n lane : Nat) : ErrorReport := ⟨n / 8, .port, false, 0, 0, 0, 0, 0, 2 * n + lane % 2, .core⟩

/-- A flit failed its check and was resent: a transient error of the lane that carried it (R418, R420). -/
def execFlitResend (x : PortLane) (s : State) : Outcome State Fault Refusal :=
  .next (if x.port < 64 then (logError s (portReport x.port x.lane) false false).1 else s)

/-- Set UP and WIDTH of a port, keeping EN; frames that no port could carry leave once one is up. -/
def setPort (s : State) (n : Nat) (up : Bool) (width : Nat) : State :=
  sendUnsent (setReg s (fportPa n) (wordOf (bits (rawReg s (fportPa n)) 0 0 + (if up then 2 else 0) + 4 * width)))

/-- A lasting lane fault: the port goes on with its other lane, or is retired (R420). -/
def retrainPort (s : State) (n lane : Nat) : State :=
  let w := bits (rawReg s (fportPa n)) 3 2
  if w = 2 then setPort s n true 1
  else if w = 1 then logRetired (setPort s n false 0) (portReport n lane) false
  else s

/-- A lane of the port that has become lasting goes out of service (R318, R420). -/
def retrainLane (s : State) (n : Nat) : State :=
  match (List.range 2).find? (fun l => sparingPending s (.lane n l)) with
  | some l => retrainPort (endSparing s (.lane n l)) n l
  | none => s

def execLaneRetrain (port : Nat) (s : State) : Outcome State Fault Refusal :=
  .next (if port < 64 then retrainLane s port else s)

/-- A port's link trains on 1 or 2 lanes (R419). -/
def execPortLinkTrained (port : Nat) (width : BitVec 2) (s : State) : Outcome State Fault Refusal :=
  .next (if port < 64 ∧ (width = 1 ∨ width = 2) then setPort s port true width.toNat else s)

end Sys2Proof.Machine
end

