-- ==== Sys2Proof/Machine/DieEvents.lean ====
section
/-! DEFINITION. Events of a die: the dispatcher (spec/15_pipelines.md R340, R341), the quad exchange and barrier network
(spec/12_quad.md R288 to R299), the removal of translations and migration (spec/13_die_translation.md R310 to R315), and
the pipelines' start, stop, cores and balancer (R327 to R330, R343 to R348). -/

namespace Sys2Proof.Machine

open Host (Outcome)

/-! The dispatcher -/

def execDispatchPlace (die : Nat) (s : State) : Outcome State Fault Refusal := .next (placeTask s die)
def execDispatchOffer (die : Nat) (s : State) : Outcome State Fault Refusal := .next (offerTask s die)

/-! The quad exchange -/

/-- The core a packet is for (R288). -/
def packetCore (p : QuadPacket) : Nat := coreOf p.srcHart / 4 * 4 + p.target % 4

/-- Count a served packet and its rounds beyond the first (R290, R292). -/
def countPacket (s : State) (p : QuadPacket) : State :=
  countServed s (packetCore p) (p.offsets.map (fun o => o.2))

/-- The elements of a load packet as its target reads them, each with its poison flag (R288, R299). -/
def packetElems (s : State) (p : QuadPacket) : List (Nat × Nat × Bool) :=
  p.offsets.map (fun o =>
    let pa := vaultPa (packetCore p) o.2
    (o.1, peek s pa p.bytes, markAny s pa p.bytes || decide (p.err = .data)))

/-- Store the elements of a packet in ascending order (R289); an error in the data poisons their lines (R299). -/
def storePacket (s : State) (p : QuadPacket) (vs : List Nat) : State :=
  (p.offsets.zip vs).foldl (fun s o =>
    let pa := vaultPa (packetCore p) o.1.2
    let s := poke s pa p.bytes o.2
    if p.err = .data then setMarkAt s pa true else s) s

/-- The range of addresses that element `o` of a packet writes or, for a load, fills. -/
def packetSpan (s : State) (p : QuadPacket) (o : Nat × Nat) : Nat × Nat :=
  match p.data with
  | some _ => (vaultPa (packetCore p) (o.2 / 128 * 128), vaultPa (packetCore p) (o.2 / 128 * 128) + 128)
  | none =>
    let a := squarePa (coreOf p.srcHart) p.reg.toNat (elemCol (s.hartAt p.srcHart).grant (8 * p.bytes) o.1)
    (a, a + 8)

/-- The record of an error in the data of a packet (R299, R319). -/
def noteSpoilt (s : State) (p : QuadPacket) : State :=
  if p.err = .data then exchangeSpoilt s p.srcHart p.target p.group (p.offsets.map (packetSpan s p)) else s

/-- An error in a header discards the packet: MCHECK at the source, with a record of the target and the group (R299). -/
def discardPacket (s : State) (p : QuadPacket) : State :=
  exchangeLost s p.srcHart p.target p.group p.bytes (p.offsets.map (fun o => o.2))

/-- An error that the exchange will meet in the next packet of a hart's own instruction to this target, for this group (log 80):
the packet itself is formed when its first element is performed. -/
def armError (s : State) (p : QuadPacket) : State :=
  s.setHart p.srcHart { s.hartAt p.srcHart with exch := some ⟨p.target % 4, p.group, p.err⟩ }

/-- Serve a packet at its target (R289, R290). It waits while its load meets an empty line (R178), and its response is then
under way. -/
def servePacket (s : State) (p : QuadPacket) : State :=
  if ¬ p.err = .none ∧ p.offsets = [] ∧ p.srcHart < 4096 then armError s p
  else if coreDead s (packetCore p) then s
  else if p.err = .header then discardPacket s p
  else
    match p.data with
    | some vs => noteSpoilt (countPacket (storePacket s p vs) p) p
    | none =>
      if p.offsets.any (fun o => lineReadsEmpty s (packetCore p) o.2) then s
      else
        let s := noteSpoilt (countPacket s p) p
        { s with agenda := s.agenda ++ [.quadResponseArrive ⟨p.srcHart, p.reg, 8 * p.bytes, packetElems s p⟩] }

def execQuadPacketServe (p : QuadPacket) (s : State) : Outcome State Fault Refusal := .next (servePacket s p)

/-- A response fills the elements of its register, poisoned where flagged (R291, R299); a cell that it replaces whole and
unflagged loses its mark (R157). -/
def fillResponse (s : State) (r : QuadResponse) : State :=
  r.elems.foldl (fun s e =>
    let s := putElem s r.reg.toNat r.ew e.1 e.2.1
      (cellWhole 0 r.ew (fun k => r.elems.any (fun q => q.1 == k && !q.2.2)) e.1)
    if e.2.2 then setCellMark s (coreOf s.cur) r.reg.toNat (elemCol s.hart.grant r.ew e.1) true else s) s

def execQuadResponseArrive (r : QuadResponse) (s : State) : Outcome State Fault Refusal :=
  onHart r.hart (fun s => .ok (fillResponse s r)) s

def execQbctlAbort (quad : Nat) (bits : BitVec 16) (s : State) : Outcome State Fault Refusal :=
  .next (governed s (fun s => quadAbort s quad bits))

def execQbctlAbortedClear (quad : Nat) (bits : BitVec 16) (s : State) : Outcome State Fault Refusal :=
  .next (governed s (fun s => quadAbortedClear s quad bits))

/-! Removal of translations and migration -/

def execShootdownApply (core : Nat) (s : State) : Outcome State Fault Refusal := .next (applyCore s core)

def execWatchdogForce (core part : Nat) (s : State) : Outcome State Fault Refusal := .next (forceQuiet s (core * 8 + part))

def migsOf (s : State) (d : Nat) : List Migration := sget [] s.dies.migs d

def setMigs (s : State) (d : Nat) (l : List Migration) : State :=
  { s with dies := { s.dies with migs := sset [] s.dies.migs d l } }

/-- Replace the migration in progress on a die. -/
def setMig (s : State) (d : Nat) (m : Migration) : State := setMigs s d (m :: (migsOf s d).drop 1)

/-- The migration of die `d` ends, its hold with it: its completion word is STATUS with a line address (R313). -/
def endMig (s : State) (d done status line : Nat) : State :=
  let s := setMigs s d ((migsOf s d).drop 1)
  if memBackedAll s done 8 then poke s done 8 (line + status) else s

/-- Another die's migration holds the same entry (R313). -/
def ptehElsewhere (s : State) (d ptea : Nat) : Bool :=
  s.dies.migs.any (fun q => !(q.1 == d) && (match q.2 with
    | m :: _ => decide (1 ≤ m.phase) && decide (m.ptea = ptea)
    | [] => false))

/-- The frame that the entry at PTEA maps, when it passes the check of R313. -/
def migSource (s : State) (m : Migration) : Option Nat :=
  if !memBackedAll s m.ptea 8 || markAt s m.ptea then none
  else
    let p := pteOf (peek s m.ptea 8)
    let n := pow2 (pageLog m.size)
    let src := p.pfn * 4096
    if p.v && p.res0 && (p.r || p.w || p.x) && decide (p.size = m.size) && decide (src % n = 0) && inHbm src n
        && inHbm m.dst n then some src else none

/-- Post the removal of a held migration when every named core has room (R313, R308). -/
def postRemoval (s : State) (d : Nat) (m : Migration) : State :=
  if shootRoom s m.cores then
    postShoot (setMig s d { m with phase := 2, waiting := (coresOf m.cores).filter (fun c => !coreDead s c) })
      ⟨0, m.asid, m.va, none, some d, 0⟩ m.cores
  else s

/-- Check, hold and removal of the oldest migration of die `d` (R313). -/
def startMig (s : State) (d : Nat) : State :=
  match migsOf s d with
  | [] => s
  | m :: _ =>
    if !wordReady s m.done then s
    else if m.phase = 1 then postRemoval s d m
    else if m.phase = 0 ∧ ptehElsewhere s d m.ptea = false then
      match migSource s m with
      | none => endMig s d m.done 4 0
      | some src =>
        let m := { m with phase := 1, src := src }
        postRemoval (setMig s d m) d m
    else s

def execMigrationStart (die : Nat) (s : State) : Outcome State Fault Refusal := .next (startMig s die)

/-- The entry names the new frame, and status 1 is written (R313). -/
def switchMig (s : State) (d : Nat) (m : Migration) : State :=
  let e := peek s m.ptea 8
  let s := poke s m.ptea 8 (e - (pteOf e).pfn * 4096 + m.dst / 4096 % pow2 40 * 4096)
  endMig s d m.done 1 0

/-- Copy one line with its mark (R313, R316). -/
def copyLine (s : State) (src dst : Nat) : State :=
  let m := markAt s src
  setMarkAt (poke s dst 128 (peek s src 128)) dst m

/-- One line of the copy, once every named core has applied the removal (R313, R314). -/
def migLine (s : State) (d : Nat) (err : CopyError) : State :=
  match migsOf s d with
  | [] => s
  | m :: _ =>
    if m.phase = 2 ∧ m.waiting = [] ∧ wordReady s m.done = true then
      let src := m.src + 128 * m.line
      let dst := m.dst + 128 * m.line
      if err = .sourceBad ∧ markAt s src = false then
        endMig (detectError s (lineReport src true)) d m.done 2 src
      else if err = .writeFailed then endMig s d m.done 3 dst
      else
        let m' := { m with line := m.line + 1 }
        let s := setMig (copyLine s src dst) d m'
        if pow2 (pageLog m.size) ≤ 128 * m'.line then switchMig s d m' else s
    else s

def execMigrationLineCopy (die : Nat) (err : CopyError) (s : State) : Outcome State Fault Refusal := .next (migLine s die err)

/-! Pipelines -/

def execPlctlStart (die slot : Nat) (s : State) : Outcome State Fault Refusal :=
  .next (governed s (fun s => pipeStart s die slot))
def execPlctlStop (die slot : Nat) (s : State) : Outcome State Fault Refusal :=
  .next (governed s (fun s => pipeStop s die slot))
def execPldlAck (die slot : Nat) (bits : BitVec 16) (s : State) : Outcome State Fault Refusal :=
  .next (governed s (fun s => pldlAck s die slot bits))

/-- The place of a core in a pipeline's pool. -/
def setPlace (s : State) (d k c : Nat) (pl : PoolPlace) : State :=
  let p := pipeAt s d k
  setPipe s d k { p with pool := p.pool.map (fun e => if e.1 = c then (c, pl) else e) }

/-- Start the instances of stage `st` on the partitions of `todo`, in ascending order (R329). -/
def startInstances (s : State) (d k st c : Nat) (todo : BitVec 8) : State :=
  (List.range 8).foldl (fun s p =>
    if todo.getLsbD p then
      match startInstance s d k st c p, assoc c (pipeAt s d k).pool with
      | some t, some (.serves _ left) => setPlace t d k c (.serves st (left &&& ~~~ BitVec.ofNat 8 (pow2 p)))
      | _, _ => s
    else s) s

/-- A READY instance of core `c` waits to be replayed (R350). -/
def replayWaits (s : State) (d k st c : Nat) : Bool :=
  s.dies.tasks.any (fun p => p.1 / 4096 == d && decide (p.2.state = .ready) && (p.2.inst == some (k, st))
    && (p.2.core == some (64 * d + c)))

/-- Start one replayed instance on a leaving core, on its lowest partition that can take it. -/
def replayOn (s : State) (d k st c : Nat) : State :=
  match (List.range 8).findSome? (fun p => startInstance s d k st c p) with
  | some t => t
  | none => s

/-- A turn of pool core `c` of slot `k`: it joins the stage it waits for once every partition is handed over, starts the
instances that are still to start, or replays one before it goes on leaving (R328, R329, R346, R350). -/
def poolTurn (s : State) (d k c : Nat) (pl : PoolPlace) : State :=
  let idle := coreIdle s (64 * d + c)
  match pl with
  | .joining st => if idle then startInstances (setPlace s d k c (.serves st 0xFF)) d k st c 0xFF else s
  | .serves st todo => startInstances s d k st c todo
  | .leaving src dst =>
    if replayWaits s d k src c then replayOn s d k src c
    else
      match dst with
      | some t => if idle then startInstances (setPlace s d k c (.serves t 0xFF)) d k t c 0xFF else s
      | none => s

def joinCore (s : State) (core : Nat) : State :=
  let d := dieOfCore core
  match (List.range 8).findSome? (fun k => (assoc (core % 64) (pipeAt s d k).pool).map (fun pl => (k, pl))) with
  | some (k, pl) => poolTurn s d k (core % 64) pl
  | none => s

def execPoolCoreJoin (core : Nat) (s : State) : Outcome State Fault Refusal := .next (joinCore s core)

/-- OCC of a stage (R343): the greatest occupancy of its input avenues, or 256. -/
def stageOcc (s : State) (d k : Nat) (g : StageDesc) : Nat :=
  if g.inmask = 0 then 256
  else ((List.range 32).filter (fun a => g.inmask.getLsbD a)).foldl (fun m a =>
    Nat.max m (256 * avCount s d k a / (avDesc s d k a).cap)) 0

/-- An output avenue of a stage is full. -/
def stageBlocked (s : State) (d k : Nat) (g : StageDesc) : Bool :=
  (List.range 32).any (fun a => g.outmask.getLsbD a && decide (avCount s d k a = (avDesc s d k a).cap))

/-- D of a stage (R343). -/
def stageDemand (s : State) (d k : Nat) (g : StageDesc) : Nat :=
  if stageBlocked s d k g then 0 else g.weight * stageOcc s d k g

/-- The highest core that serves stage `l` and is not leaving. -/
def servingCore (p : Pipe) (l : Nat) : Option Nat :=
  (p.pool.filterMap (fun e => match e.2 with
    | .serves st _ => if st = l then some e.1 else none
    | _ => none)).foldl (fun acc c => match acc with
    | none => some c
    | some b => some (Nat.max b c)) none

/-- The stage of greatest key among those that satisfy `ok`, ties to the lowest. -/
def pickStage (n : Nat) (ok : Nat → Bool) (key : Nat → Nat) : Option Nat :=
  bestIdx (fun _ st => ok st) (fun a b => decide (key b < key a)) (List.range n)

/-- The moves of R345 from the allotment `a0` at the interval's start, at most `fuel` more of them. -/
def moveCores (a0 t : List Nat) : Nat → Pipe → Pipe
  | 0, p => p
  | fuel + 1, p =>
    let n := p.stages.length
    let gain := fun (st : Nat) => decide (nthD a0 st + 2 ≤ nthD t st) && decide (nthD p.allot st < nthD t st)
    let lose := fun (st : Nat) => decide (nthD t st + 2 ≤ nthD a0 st) && decide (nthD t st < nthD p.allot st)
      && (servingCore p st).isSome
    match pickStage n gain (fun st => nthD t st - nthD p.allot st),
        pickStage n lose (fun st => nthD p.allot st - nthD t st) with
    | some g, some l =>
      match servingCore p l with
      | some c => moveCores a0 t fuel { p with
          pool := p.pool.map (fun e => if e.1 = c then (c, .leaving l (some g)) else e)
          allot := (p.allot.modify l (fun x => x - 1)).modify g (fun x => x + 1) }
      | none => p
    | _, _ => p

/-- An interval of the balancer of slot `k` (R343 to R345); under device pre-emption it moves no core (R413). -/
def balance (s : State) (d k : Nat) : State :=
  let p := pipeAt s d k
  if p.state = 1 then
    let p := { p with occ := p.stages.map (stageOcc s d k) }
    match targets p.pool.length p.stages (p.stages.map (stageDemand s d k)) with
    | none => setPipe s d k p
    | some t =>
      let p := { p with target := t }
      setPipe s d k (if devReq s then p else moveCores p.allot t p.movemax p)
  else s

def execBalancerInterval (die slot : Nat) (s : State) : Outcome State Fault Refusal := .next (balance s die slot)

/-- A STOPPING pipeline whose pool partitions are all idle becomes FREE; DONE receives GEN (R330). -/
def stopComplete (s : State) (d k : Nat) : State :=
  let p := pipeAt s d k
  if p.state = 2 ∧ wordReady s p.done = true ∧ p.pool.all (fun e => coreIdle s (64 * d + e.1)) = true
      ∧ p.pool.all (fun e => match e.2 with | .leaving src _ => !replayWaits s d k src e.1 | _ => true) = true then
    let s := setPipe s d k { Pipe.reset with gen := p.gen }
    if ¬ p.done = 0 ∧ memBackedAll s p.done 8 = true then poke s p.done 8 p.gen.toNat else s
  else s

def execPipelineStopComplete (die slot : Nat) (s : State) : Outcome State Fault Refusal := .next (stopComplete s die slot)

end Sys2Proof.Machine
end

