-- ==== Sys2Proof/Machine/HartEvents.lean ====
section
/-! DEFINITION. Events of a hart: interrupts (spec/01_hart.md R40 to R45), the ends of its waits (R135 to R143, R156, R178,
R200, R271, R296, R337), its updates and drains (R200, R211), the zeroing of clusters (R273), and bits that are no
instruction (R84, R85). An event on a hart that is not waiting for it has no effect. -/

namespace Sys2Proof.Machine

open Host (Outcome)

/-! Interrupts -/

/-- R41 lets a hart take an interrupt of this `hip` bit now. An idle partition takes none but MCHECK (R269). -/
def irqAllowed (x : Hart) (bit : Nat) : Bool :=
  match x.run with
  | .halted => false
  | .idle => decide (bit = 0)
  | .running =>
    if bit = 0 then !decide (x.level = .m) || x.stat.mie
    else decide (x.level = .u) || (decide (x.level = .s) && x.stat.sie)

/-- The interrupt taken next: the lowest pending bit that is allowed (R44). A hart that the watchdog has stopped takes none
until its core has applied the requests (R310). -/
def irqNext (s : State) (h : Nat) : Option Nat :=
  if (s.hartAt h).forced then none
  else (List.range 5).find? (fun b => irqAllowed (s.hartAt h) b && (hipBits s h).getD b false)

/-- VALUE of an interrupt (R40). -/
def irqValue (s : State) (h bit : Nat) : Word :=
  match bit with
  | 0 => wordOf ((s.hartAt h).mcheck.getD 0)
  | 3 => wordOf ((deadlineOf s h).getD 0)
  | 4 => wordOf ((extQueue s h).headD 0)
  | _ => 0

/-- The current hart leaves a wait that an interrupt meets: a `bar` completes when its phase has completed, else its arrival
is withdrawn (R134, R432); a `wfi` completes (R143). -/
def settleWait (s : State) : State :=
  match s.hart.hold with
  | .wfi => if hipWord s s.cur = 0 then s else s.adv 4
  | .bar _ _ _ =>
    match releaseHold (barWaitStep s) with
    | .ok t => t
    | .error _ => withdrawBar s s.cur
  | _ => s

/-- The current hart takes the interrupt of a bit (R42); entry to the M handler clears MCHECK (R38). A partition without a task
runs the handler and no more (R269, log 58). -/
def takeIrq (s : State) (bit : Nat) : State :=
  let s := settleWait s
  let x := s.hart
  let y := { x with
    hold := .none
    stopAt := none
    xlinvWait := false
    run := .running
    mcheck := if bit = 0 then none else x.mcheck }
  let z := y.enter true bit 0 (irqValue s s.cur bit) (if bit = 0 then .m else .s)
  s.putHart (if x.run = .idle then { z with parked := some 0 } else z)

/-- `stop` names the index at which a running instruction stops first (R27, R45); with none the hart stands at a
boundary. -/
def execInterruptTake (hart : Nat) (stop : Option Nat) (s : State) : Outcome State Fault Refusal :=
  onHart hart (fun s =>
    match irqNext s hart with
    | none => .ok s
    | some b =>
      match stop with
      | some k => .ok (s.putHart { s.hart with stopAt := some k })
      | none => .ok (takeIrq s b)) s

/-! The ends of waits -/

/-- End a wait whose condition has come about: the instruction is executed again. -/
def endWait (s : State) (c : Bool) : Eff State := .ok (if c then s.putHart { s.hart with hold := .none } else s)

/-- A wait on a Vault line ends when its bit is as wanted (R178), or when a FAULTED slot of the hart owes the line (R243). -/
def lineWaitOver (s : State) : Bool :=
  match s.hart.hold with
  | .line c line full =>
    decide (lineReadsEmpty s c (128 * line) = !full)
      || (decide (c = coreOf s.cur) && (faultedSlot s s.cur (fun _ x => x.owesLine line)).isSome)
  | _ => false

/-- A wait on a landed bit ends when the group is landed (R156), or when a FAULTED slot owes it (R243). -/
def landedWaitOver (s : State) : Bool :=
  match s.hart.hold with
  | .landed c row p =>
    !unlanded s c row p
      || (faultedSlot s s.cur (fun _ x => x.owesGroupIf (fun _ => true) row (logicalOf s.hart.grant p))).isSome
  | _ => false

/-- A wait on rows ends when no update or drain holds them (R200). -/
def rowsWaitOver (s : State) : Bool :=
  match s.hart.hold with
  | .rows busy => decide ((s.hart.updBusy ||| s.hart.drainBusy) &&& busy = 0)
  | _ => false

def execVaultLineWaitEnd (hart : Nat) (s : State) : Outcome State Fault Refusal :=
  onHart hart (fun s => endWait s (lineWaitOver s)) s

def execLandedWaitEnd (hart : Nat) (s : State) : Outcome State Fault Refusal :=
  onHart hart (fun s => endWait s (landedWaitOver s)) s

def execRowReleaseWaitEnd (hart : Nat) (s : State) : Outcome State Fault Refusal :=
  onHart hart (fun s => endWait s (rowsWaitOver s)) s

/-- A boundary that waits runs `plan` again, and commits or goes on waiting (R271). -/
def execBoundaryCommit (hart : Nat) (s : State) : Outcome State Fault Refusal :=
  onHart hart (fun s =>
    match s.hart.hold with
    | .boundary k => releaseHold (boundaryStep s k)
    | _ => .ok s) s

/-- A `bar` in progress observes the completion of its phase (R133, R296). -/
def execBarWaitEnd (hart : Nat) (s : State) : Outcome State Fault Refusal :=
  onHart hart (fun s =>
    match s.hart.hold with
    | .bar _ _ _ => releaseHold (barWaitStep s)
    | _ => .ok s) s

/-- A waiting `vwait` reads its word again (R135). -/
def execVwaitReread (hart : Nat) (s : State) : Outcome State Fault Refusal :=
  onHart hart (fun s =>
    match s.hart.hold with
    | .vwait c sc rd va b => releaseHold (vwaitStep c sc rd va b s)
    | _ => .ok s) s

/-- The 32 cycles of a `pause` are over, or a `hip` bit became set (R137). -/
def execPauseExpire (hart : Nat) (s : State) : Outcome State Fault Refusal :=
  onHart hart (fun s => endWait s (decide (s.hart.hold = .pause))) s

/-- A `wfi` completes when a `hip` bit is set (R143). -/
def execWfiWake (hart : Nat) (s : State) : Outcome State Fault Refusal :=
  onHart hart (fun s =>
    if s.hart.hold = .wfi ∧ ¬ hipWord s s.cur = 0 then done (s.putHart { s.hart with hold := .none }) 4 else .ok s) s

/-- A waiting push or pop examines its avenue again (R336, R337). -/
def execAvenueWaitEnd (hart : Nat) (s : State) : Outcome State Fault Refusal := onHart hart avenueWaitStep s

/-! Updates, drains and zeroing -/

/-- The updates of a hart finish their units and release their rows (R200). -/
def execSquareUpdateComplete (hart : Nat) (s : State) : Outcome State Fault Refusal :=
  .next (s.setHart hart { s.hartAt hart with updBusy := 0 })

/-- The lowest row still held by a drain, shifted out and released (R211). -/
def releaseLowRow (m : BitVec 48) : BitVec 48 := m &&& (m - 1)

def execDrainRowShift (hart : Nat) (s : State) : Outcome State Fault Refusal :=
  .next (s.setHart hart { s.hartAt hart with drainBusy := releaseLowRow (s.hartAt hart).drainBusy })

/-- The zeroing of a released cluster ends and it is free (R273). -/
def execClusterZeroDone (core cluster : Nat) (s : State) : Outcome State Fault Refusal :=
  .next (if cluster < 8 ∧ (zeroing s core).getLsbD cluster = true then
      setZeroing (zeroCluster s core cluster) core (zeroing s core &&& ~~~ BitVec.ofNat 8 (pow2 cluster))
    else s)

/-- ACK of `EXTSRC` removes the oldest source (R409). -/
def execExtsrcAck (core part : Nat) (s : State) : Outcome State Fault Refusal :=
  .next (governed s (fun s => extAck s (core * 8 + part)))

/-! Bits that are no instruction -/

/-- The cause that a fetch or decoding failure raises on the current hart (R84, R85, R305). -/
def badFetchTrap : BadFetch → TrapInfo
  | .encoding bits => tIllegal bits
  | .fault sub va => tIfault sub va
  | .poison line => tPoisonMem line

def execIllegalEncoding (why : BadFetch) (s : State) : Outcome State Fault Refusal := finish (raise s (badFetchTrap why))

end Sys2Proof.Machine
end

