-- ==== Sys2Proof/Machine/HostEvents.lean ====
section
/-! DEFINITION. Events of the I/O dies and of the outside world (spec/19_command_host.md): the command harts' control
(R394), queues (R398 to R402), host accesses (R382, R410), the host link (R433), ownership (R412), device pre-emption and
checkpoint (R413 to R415), boot and power (R417), resets (spec/01_hart.md R17) and register writes (R388). -/

namespace Sys2Proof.Machine

open Host (Outcome)

/-! Command harts -/

def execChctlRunStart (id : Nat) (s : State) : Outcome State Fault Refusal :=
  .next (governed s (fun s => if id < 8 then chStart s id else s))
def execChctlRunStop (id : Nat) (s : State) : Outcome State Fault Refusal :=
  .next (governed s (fun s => if id < 8 then chStop s id else s))
/-- The command hart is at a boundary: a `bar` it waits in is left as for an interrupt (R134, R394). -/
def stopCommand (s : State) (id : Nat) : State :=
  if (s.hartAt (4096 + id)).stopReq then
    devSettle (chStopped { settleWait { s with cur := 4096 + id } with cur := s.cur } id)
  else s

def execCmdhartStopped (id : Nat) (s : State) : Outcome State Fault Refusal := .next (if id < 8 then stopCommand s id else s)

/-! Queues -/

/-- The die whose task table an unstarted oldest entry waits for (R402). -/
def waitsForDie (x : Queue) : Option Nat :=
  match x.entries with
  | .tasks d _ _ _ :: _ => if x.started || x.failed.isSome then none else some d
  | _ => none

def queuePrio (s : State) (io q : Nat) : Nat := bits (rawReg s (ioPa io (0x2000 + 32 * q))) 2 0

/-- Queue a goes before queue b: higher QPRIO, then lower number, then I/O die 0 (R402). -/
def queueBefore (s : State) (a b : Nat × Nat) : Bool :=
  let pa := queuePrio s a.1 a.2
  let pb := queuePrio s b.1 b.2
  decide (pb < pa) || (decide (pa = pb) && (decide (a.2 < b.2) || (decide (a.2 = b.2) && decide (a.1 < b.1))))

/-- Another queue's entry for the same die starts first (R402). -/
def queueOutranked (s : State) (io q d : Nat) : Bool :=
  (List.range 2).any (fun i => (List.range 8).any (fun j =>
    !(decide (i = io) && decide (j = q)) && (waitsForDie (queueAt s i j) == some d) && queueBefore s (i, j) (io, q)))

/-- The queue fails with a cause: MSI-X vector 0 (R401). -/
def failQueue (s : State) (io q cause : Nat) : State :=
  sendMsi (setQueue s io q { clearRun (queueAt s io q) with failed := some cause }) 0

/-- Create the entry's tasks from number `made` on while the table has room (R400), at most `fuel` of them. -/
def createTasks (io q d rec : Nat) : Nat → State → State
  | 0, s => s
  | fuel + 1, s =>
    let x := queueAt s io q
    match freeEntry s d with
    | none => s
    | some e =>
      match (peekBacked s (rec + 64 * x.made) 64).bind parseTask with
      | none => failQueue s io q 1
      | some t =>
        let s := createTask s d e t
        createTasks io q d rec fuel (setQueue s io q { x with made := x.made + 1, handles := x.handles ++ [handleOf s d e] })

/-- Start of a KIND 1 entry (R400): write `PLDESC`, then START; REFUSED fails the queue. -/
def startPipeEntry (s : State) (io q d k rec : Nat) : State :=
  let st := (pipeAt s d k).state
  if st = 0 ∨ st = 3 then
    let s := pipeStart (writeRw s (diePa d (0x400 + 32 * k)) (wordOf rec)) d k
    let p := pipeAt s d k
    if p.state = 3 then failQueue s io q 2
    else setQueue s io q { queueAt s io q with started := true, handles := [wordOf p.gen.toNat] }
  else s

/-- A copy range lies wholly within HBM, one Vault window or the host memory window (R400). -/
def copyRange (s : State) (a len : Nat) : Bool :=
  match regionOf a with
  | .hbm _ => inHbm a len
  | .vault c o => !coreDead s c && decide (o + len ≤ vaultBytes)
  | .hostWin _ o => decide (o + len ≤ pow2 31)
  | _ => false

/-- The fault of a copy descriptor, 0 for none (R400). -/
def copyCause (s : State) (src dst len : Nat) : Nat :=
  if !copyRange s src len || !copyRange s dst len then 3
  else if src < dst + len ∧ dst < src + len then 4
  else 0

/-- Start the oldest entry, or go on creating its tasks (R398, R400); under device pre-emption none starts (R413). -/
def startEntry (s : State) (io q : Nat) : State :=
  let x := queueAt s io q
  if x.failed.isSome || (devReq s && !x.started) then s
  else
    match x.entries with
    | [] => s
    | .tasks d count rec _ :: _ =>
      if x.started then createTasks io q d rec (count - x.made) s
      else if queueOutranked s io q d || (freeEntry s d).isNone then s
      else createTasks io q d rec count (setQueue s io q { x with started := true })
    | .pipeline d k rec _ :: _ => if x.started then s else startPipeEntry s io q d k rec
    | .copy src dst len _ :: _ =>
      if x.started then s
      else
        let c := copyCause s src dst len
        if c = 0 then setQueue s io q { x with started := true } else failQueue s io q c

def execQueueEntryStart (io q : Nat) (s : State) : Outcome State Fault Refusal :=
  .next (if io < 2 ∧ q < 12 then startEntry s io q else s)

/-- Chunks of a copy: 4 KiB blocks aligned on DST (R400). -/
def chunkCount (dst len : Nat) : Nat := (dst % 4096 + len + 4095) / 4096

/-- The offset and length of chunk `n`. -/
def chunkRange (dst len n : Nat) : Nat × Nat :=
  let lo := 4096 * n - dst % 4096
  (lo, Nat.min (4096 * (n + 1) - dst % 4096) len - lo)

def chunkDone (x : Queue) (n : Nat) : Bool := sget false x.chunks n

/-- A queue holds a running copy with chunks left. -/
def copyRuns (x : Queue) : Bool :=
  x.started && (match x.entries with
    | .copy _ dst len _ :: _ => decide (x.chunks.length < chunkCount dst len)
    | _ => false)

/-- A copy queue of higher QPRIO on the I/O die holds a running entry (R402). -/
def copyOutranked (s : State) (io q : Nat) : Bool :=
  (List.range 12).any (fun j => decide (8 ≤ j) && copyRuns (queueAt s io j) && decide (queuePrio s io q < queuePrio s io j))

/-- Move one chunk with its marks (R400). -/
def moveChunk (s : State) (src dst n : Nat) : State := writeResult s (ownData s [(src, n)]) [(dst, n)]

def copyStep (s : State) (io q n : Nat) : State :=
  let x := queueAt s io q
  match x.entries with
  | .copy src dst len _ :: _ =>
    if x.started && decide (n < chunkCount dst len) && !chunkDone x n && !devReq s && !copyOutranked s io q then
      let r := chunkRange dst len n
      let s := moveChunk s (src + r.1) (dst + r.1) r.2
      setQueue s io q { x with chunks := sset false x.chunks n true }
    else s
  | _ => s

def execCopyChunk (io q chunk : Nat) (s : State) : Outcome State Fault Refusal :=
  .next (if io < 2 ∧ q < 12 then copyStep s io q chunk else s)

/-- A task that an entry created is EXITED or FREE. -/
def taskOver (s : State) (d : Nat) (h : Word) : Bool :=
  match handleSlot s d h with
  | none => true
  | some k => decide ((taskAt s d k).state = .exited) || decide ((taskAt s d k).state = .free)

/-- A started entry is complete (R400). -/
def entryOver (s : State) (x : Queue) : Option Word :=
  match x.entries with
  | .tasks d count _ sem :: _ => if x.made = count ∧ x.handles.all (taskOver s d) = true then some sem else none
  | .pipeline d k _ sem :: _ =>
    let p := pipeAt s d k
    if (p.state = 1 ∨ p.state = 2) ∧ x.handles = [wordOf p.gen.toNat] then none else some sem
  | .copy _ dst len sem :: _ => if x.chunks.length = chunkCount dst len then some sem else none
  | [] => none

/-- The semaphore add of a completed entry (R400, R399). -/
def entrySignal (s : State) (sem : Word) : State :=
  if sem.getLsbD 15 then
    let n := bits sem 7 0
    setSem s n (semAt s n + wordOf (bits sem 63 32))
  else s

def finishEntry (s : State) (io q : Nat) : State :=
  let x := queueAt s io q
  if x.started then
    match entryOver s x with
    | some sem => entrySignal (setQueue s io q { clearRun x with entries := x.entries.drop 1, head := x.head + 1 }) sem
    | none => s
  else s

def execQueueEntryComplete (io q : Nat) (s : State) : Outcome State Fault Refusal :=
  .next (if io < 2 ∧ q < 12 then finishEntry s io q else s)

def execQctlSkip (io q : Nat) (s : State) : Outcome State Fault Refusal :=
  .next (governed s (fun s => if io < 2 ∧ q < 12 then queueSkip s io q else s))

def execQctlFlush (io q : Nat) (s : State) : Outcome State Fault Refusal :=
  .next (governed s (fun s => if io < 2 ∧ q < 12 then queueFlush s io q else s))

/-- A plain write of a semaphore (R397). -/
def execSemaphoreWrite (n : Nat) (v : Word) (s : State) : Outcome State Fault Refusal :=
  .next (if n < 256 then setSem s n v else s)

/-! The host -/

/-- The Plaza address behind a BAR (R410); none outside it. -/
def barPa (bar addr : Nat) : Option Nat :=
  if bar = 0 then
    (if addr < pow2 24 then some (ioPa 0 addr) else if addr < pow2 25 then some (ioPa 1 (addr - pow2 24)) else none)
  else if bar = 2 then (if addr < pow2 40 then some addr else none)
  else none

/-- A register that any master may write: `OWNCTL`, a semaphore, the MSI-X table (R412). -/
def openRegister (pa : Nat) : Bool :=
  match regionOf pa with
  | .io i o => decide (o = 0) || (semOf pa).isSome || (decide (i = 0) && decide (0x10000 ≤ o) && decide (o < 0x18000))
  | _ => false

/-- A host write to a register (R388, R412): one aligned 8-byte access, of the owner unless the register is open. -/
def hostRegWrite (s : State) (pa : Nat) (b : List Byte) : State :=
  if b.length = 8 ∧ pa % 8 = 0 ∧ (ownerOf s = 1 ∨ openRegister pa = true) then
    regStore s 1 pa (wordOf (gather (fun k => b.getD k 0) 0 8))
  else s

/-- A host write (R382). One that reaches a hole ends as unsupported. -/
def hostWrite (s : State) (bar addr : Nat) (b : List Byte) : State :=
  if !linkUp s then s
  else
    match barPa bar addr with
    | none => s
    | some pa =>
      if isRegister pa then hostRegWrite s pa b
      else if inHbm pa b.length && decide (pa < plazaBase) then pokeBytes s pa b
      else s

def execHostWrite (bar addr : Nat) (bytes : List Byte) (s : State) : Outcome State Fault Refusal :=
  .next (hostWrite s bar addr bytes)

/-- Answer the host; an empty list is an unsupported request. -/
def replyHost (s : State) (b : List Byte) : State := { s with pkg := { s.pkg with hostReply := s.pkg.hostReply ++ [b] } }

/-- A host read (R382, R410). -/
def hostRead (s : State) (bar addr len : Nat) : State :=
  if !linkUp s then s
  else
    match barPa bar addr with
    | none => replyHost s []
    | some pa =>
      if (isRegister pa && decide (len = 8) && decide (pa % 8 = 0)) || (decide (pa < plazaBase) && inHbm pa len) then
        replyHost s ((List.range len).map (fun k => peekByte s (pa + k)))
      else replyHost s []

def execHostRead (bar addr len : Nat) (s : State) : Outcome State Fault Refusal := .next (hostRead s bar addr len)

/-- The value that an AtomicOp leaves, modulo its width (R410). -/
def atomicResult (op : HostAtomic) (width a b old : Nat) : Nat :=
  match op with
  | .fetchAdd => (old + a) % pow2 (8 * width)
  | .swap => a
  | .cas => if old = a % pow2 (8 * width) then b else old

/-- An AtomicOp may reach this address (R397, R410). -/
def atomicReach (pa bar width : Nat) : Bool :=
  decide (pa % width = 0)
    && ((decide (bar = 0) && (semOf pa).isSome && decide (width = 8))
      || (decide (bar = 2) && inHbm pa width && (decide (width = 4) || decide (width = 8))))

/-- A host AtomicOp, performed as one access, or unsupported (R410). -/
def hostAtomic (s : State) (bar addr : Nat) (op : HostAtomic) (width : Nat) (a b : Word) : State :=
  if !linkUp s then s
  else
    match barPa bar addr with
    | none => replyHost s []
    | some pa =>
      if atomicReach pa bar width then
        let old := peek s pa width
        replyHost (storeAt s pa width (atomicResult op width a.toNat b.toNat old)) (bytesOfNat width old)
      else replyHost s []

def execHostAtomicop (bar addr : Nat) (op : HostAtomic) (width : Nat) (a b : Word) (s : State) :
    Outcome State Fault Refusal :=
  .next (hostAtomic s bar addr op width a b)

/-- `HLINK` from its fields (R433). -/
def setHlink (s : State) (up cxl aopr cxlc : Bool) : State :=
  setReg s (ioPa 0 0x108) (wordOf (ofBits [up, cxl, aopr, cxlc]))

def execHostConfigWrite (aopr cxlc : Bool) (s : State) : Outcome State Fault Refusal :=
  .next (setHlink s (linkUp s) ((hlink s).getLsbD 1) aopr cxlc)

def execHostLinkUp (cxl : Bool) (s : State) : Outcome State Fault Refusal :=
  .next (setHlink s true cxl ((hlink s).getLsbD 2) ((hlink s).getLsbD 3))

/-- The host link goes down or is reset: a host driver that owns loses ownership (R412). DEDUCED: AOPR and CXLC stay (R433,
log 107). -/
def execHostLinkDown (s : State) : Outcome State Fault Refusal :=
  .next (ownRelease (setHlink s false false ((hlink s).getLsbD 2) ((hlink s).getLsbD 3)) 1)

/-! Ownership -/

def execOwnctlClaim (master : BitVec 2) (s : State) : Outcome State Fault Refusal := .next (ownClaim s master.toNat)
def execOwnctlRelease (master : BitVec 2) (s : State) : Outcome State Fault Refusal := .next (ownRelease s master.toNat)
def execOwnctlHand (master target : BitVec 2) (s : State) : Outcome State Fault Refusal :=
  .next (ownHand s master.toNat target.toNat)

/-- An MCTP message restarts the 10 s after which the BMC loses ownership (R412): `bmcHeard` is its step number. -/
def execBmcMessage (s : State) : Outcome State Fault Refusal :=
  .next { s with pkg := { s.pkg with bmcHeard := s.tick } }

/-- 10 s without a message: a BMC that owns loses ownership (R412). -/
def execBmcOwnerTimeout (s : State) : Outcome State Fault Refusal := .next (ownRelease s 2)

/-! Device pre-emption and checkpoint -/

def execDevpreRequest (s : State) : Outcome State Fault Refusal :=
  .next (governed s (fun s => devSettle (devRequest s)))

def execDevpreResume (s : State) : Outcome State Fault Refusal :=
  .next (governed s (fun s => if devReq s then devResume s else s))

def execCkctlGo (restore : Bool) (s : State) : Outcome State Fault Refusal :=
  .next (governed s (fun s => ckGo s restore (devDone s)))

/-- The frames of the parts under way are taken off. -/
def dropParts (s : State) : State :=
  let mine := fun (x : HeldFrame) => decide (x.frame.kind = (if s.pkg.ckDir then 2 else 0)) && s.pkg.ckParts.contains x.frame.daddr
  { s with pkg := { s.pkg with held := s.pkg.held.filter (fun x => !mine x) } }

/-- The chunk under way was taken whole, delivered whole or refused by the tier (R414, R415). -/
def ckChunkStep (s : State) (r : CheckpointReply) : State :=
  if ckStatus s = 1 then
    match r, s.pkg.ckDir with
    | .refused, _ => setCkStatus s 4
    | .committed, false => ckAdvance (dropParts s)
    | .delivered b marks, true => ckAdvance (ckDeliver (dropParts s) (ckPa s.pkg.ckChunk) (b.take 4096) marks)
    | _, _ => s
  else s

def execCheckpointChunk (r : CheckpointReply) (s : State) : Outcome State Fault Refusal := .next (ckChunkStep s r)

/-! Boot and power -/

/-- Device reset (R17, R417): every register, Vault, cluster and hart takes its reset state. HBM and host memory with their
marks, what sparing has done, messages already sent and power stay. -/
def resetDevice (s : State) : State :=
  { State.reset with
    tick := s.tick
    mem := s.mem
    hostMem := s.hostMem
    marks := { Marks.reset with mem := s.marks.mem, hostMem := s.marks.hostMem }
    regs := s.regs.filter (fun p => (List.range 8).any (fun d => p.1 == diecfgPa d))
    dies := { Dies.reset with sparing := s.dies.sparing, spareUsed := s.dies.spareUsed }
    cores := { Cores.reset with
      badCluster := s.cores.badCluster
      spareCluster := s.cores.spareCluster
      dead := s.cores.dead }
    pkg := { Package.reset with
      power := s.pkg.power
      msi := s.pkg.msi
      hostReply := s.pkg.hostReply
      bmcReports := s.pkg.bmcReports
      nargen := s.pkg.nargen } }

def execDeviceReset (s : State) : Outcome State Fault Refusal := .next (resetDevice s)

def setPower (s : State) (p : Power) : State := { s with pkg := { s.pkg with power := p } }

/-- Power-on (R417): a good signature releases every die, a bad one leaves the module in reset and is reported to the BMC. -/
def execPowerOnBoot (signatureGood : Bool) (s : State) : Outcome State Fault Refusal :=
  .next (if signatureGood then setPower (resetDevice s) .on
    else
      let s := setPower (resetDevice s) .heldInReset
      { s with pkg := { s.pkg with bmcReports := s.pkg.bmcReports + 1 } })

/-- THROT of `PWRCAP` (R415). -/
def setThrot (s : State) (t : Bool) : State :=
  setReg s pwrcapPa ((rawReg s pwrcapPa &&& 0xFFFF#64) ||| (if t then 0x10000 else 0))

/-- A 10 ms window in which the module drew `watts`: issue is withheld while that passes WATTS. A window at or below it also ends
what a hot die began: the spec gives that no other end (R417, log 59). -/
def execPowerWindow (watts : Nat) (s : State) : Outcome State Fault Refusal :=
  .next (if bits (regRead s pwrcapPa) 15 0 < watts then setThrot s true
    else setThrot { s with dies := { s.dies with throttled := [] } } false)

/-- A die at 105 degrees is throttled (R417). -/
def execJunctionThrottle (die : Nat) (s : State) : Outcome State Fault Refusal :=
  .next (setThrot { s with dies := { s.dies with throttled := sset false s.dies.throttled die true } } true)

/-- At 115 degrees Nargen logs a record, whose content the spec leaves open, and removes compute power (R417). -/
def execJunctionShutdown (die : Nat) (s : State) : Outcome State Fault Refusal :=
  .next (setPower (writeLog s die ⟨(Config.shutdownWord s.tick).toNat, 0, 0, 0, 0⟩).1 .computeOff)

/-! Registers -/

/-- A write of a register that may be `openRegister`: any master's takes effect there, and `regStore` learns which it is. -/
def openWrite (s : State) (pa : Nat) (v : Word) : State :=
  match s.pkg.writers with
  | [] => regStore s 0 pa v
  | m :: _ => if mayWrite s m || openRegister pa then regStore (dropWriter s) m.toNat pa v else dropWriter s

/-- A write to a register of a window by the next of `writers`, or by a hart when none is listed (R388, R412). -/
def execRegisterWrite (pa : Nat) (v : Word) (s : State) : Outcome State Fault Refusal :=
  .next (if isRegister pa ∧ pa % 8 = 0 then openWrite s pa v else s)

end Sys2Proof.Machine
end

