-- ==== Sys2Proof/Machine/Fabric.lean ====
section
/-! DEFINITION. Events of the fabric (spec/21_fabric.md): identities (R419, R432), frames with their size and commit (R421
to R425), peer accesses (R421, R426), and the pod barriers (R432). -/

namespace Sys2Proof.Machine

open Host (Outcome)

/-! Identities -/

/-- The fabric manager assigns the identity or the barrier home (R419). A new home starts every pod barrier afresh, and
every copy becomes 0 in the same step (R432). -/
def assignId (s : State) (a : FabricAssign) : State :=
  let w := fpkg s
  match a with
  | .pkgid id => setReg s (diePa 0 0x3000) ((w &&& ~~~ 0x1FFF#64) ||| wordOf (4096 + id.toNat))
  | .bhome id =>
    let s := setReg s (diePa 0 0x3000) ((w &&& ~~~ 0x1FFF0000#64) ||| wordOf (pow2 28 + id.toNat * pow2 16))
    { s with pkg := { s.pkg with podCopies := [], podArrived := [], podMembers := [] } }

def execFabricIdAssign (a : FabricAssign) (s : State) : Outcome State Fault Refusal := .next (assignId s a)

/-! Pod barriers at their home -/

/-- Barrier `b` as the home keeps it (R432). -/
def homeBarrier (s : State) (b : Nat) : Barrier := sget Barrier.reset s.pkg.podArrived b

def setHome (s : State) (b : Nat) (x : Barrier) : State :=
  { s with pkg := { s.pkg with podArrived := sset Barrier.reset s.pkg.podArrived b x } }

/-- A completion goes to every package of the pod; the home updates its own copy at once (R432). -/
def podComplete (s : State) (b : Nat) (phase : Word) : State :=
  let s := sendFrame s (podFrame s 4096 3 b 0 phase.toNat)
  { s with pkg := { s.pkg with
    podCopies := sset 0 s.pkg.podCopies b phase
    podMembers := s.pkg.podMembers.filter (fun m => !(m.2.2.1 == b)) } }

/-- The home applies an arrival and answers with the phase it joined (R132, R133, R432). -/
def homeArrival (s : State) (pkg hart b : Nat) (count : Word) : State :=
  let x := homeBarrier s b
  let s := sendFrame s (podFrame s pkg 2 b hart x.phase.toNat)
  let s := { s with pkg := { s.pkg with podMembers := s.pkg.podMembers ++ [(pkg, hart, b, x.phase)] } }
  let y := x.arrive count.toNat
  let s := setHome s b y
  if y.phase = x.phase then s else podComplete s b y.phase

/-- The home applies a withdrawal if the phase that the arrival joined has not completed (R432). Its reply carries the
phase counter: equal to the phase joined when the withdrawal was applied, past it when it came too late. -/
def homeWithdraw (s : State) (pkg hart b : Nat) : State :=
  let x := homeBarrier s b
  let mine := fun (m : Nat × Nat × Nat × Word) => m.1 == pkg && m.2.1 == hart && m.2.2.1 == b && m.2.2.2 == x.phase
  let s := sendFrame s (podFrame s pkg 2 b hart x.phase.toNat)
  match s.pkg.podMembers.find? mine with
  | some m => { setHome s b x.withdraw with pkg := { (setHome s b x.withdraw).pkg with podMembers := s.pkg.podMembers.erase m } }
  | none => s

/-- This package is the home of the pod's barriers. -/
def isHome (s : State) : Bool := podRemote s && decide (barrierHome s = ownPkg s)

def execPodBarrierHomeArrival (pkg hart barrier : Nat) (count : Word) (s : State) : Outcome State Fault Refusal :=
  .next (if isHome s ∧ barrier < 16 then homeArrival s pkg hart barrier count else s)

def execPodBarrierHomeWithdraw (pkg hart barrier : Nat) (s : State) : Outcome State Fault Refusal :=
  .next (if isHome s ∧ barrier < 16 then homeWithdraw s pkg hart barrier else s)

/-! Pod barriers at a package -/

/-- The pending record after an answer of the home (R432). -/
def podAnswer (r : PodRecord) (a : PodReply) : PodRecord :=
  match r, a with
  | .arrivalSent, .joined p => .joined p
  | .withdrawSent none, .joined p => .withdrawSent (some p)
  | .withdrawSent _, .withdrawn => .withdrawn
  | .withdrawSent (some p), .tooLate => .completed p
  | r, _ => r

def podReply (s : State) (h b : Nat) (a : PodReply) : State :=
  match podRecord s h b with
  | some r => setPodRecord s h b (some (podAnswer r a))
  | none => s

def execPodBarrierReply (hart barrier : Nat) (r : PodReply) (s : State) : Outcome State Fault Refusal :=
  .next (podReply s hart barrier r)

def execPodBarrierCompletion (barrier : Nat) (phase : Word) (s : State) : Outcome State Fault Refusal :=
  .next { s with pkg := { s.pkg with podCopies := sset 0 s.pkg.podCopies barrier phase } }

/-- A refused frame is sent again (R424, R425). -/
def resend (s : State) (i : Nat) : State :=
  if s.pkg.held[i]?.any (fun x => x.refused) then leaveHeld s i else s

/-- An arrival of hart `hart` that an unreachable home refused is sent again (R432). -/
def podRetry (s : State) (hart b : Nat) : State :=
  let mine := fun (x : HeldFrame) => decide (x.frame.kind = 6) && decide (x.frame.comm = b) && decide (x.frame.seq = podSeq hart)
  ((enumList s.pkg.held).filter (fun p => mine p.2)).foldl (fun s p => resend s p.1) s

def execPodBarrierRetry (hart barrier : Nat) (s : State) : Outcome State Fault Refusal := .next (podRetry s hart barrier)

/-! Frames that arrive -/

/-- The kinds of peer access (R421): bits of `FIWB`. -/
inductive PeerAcc where
  | read | write | atom
  deriving DecidableEq, Repr

def peerBit : PeerAcc → Nat
  | .read => 1 | .write => 2 | .atom => 3

/-- Inbound window `w` admits an access of `n` bytes (R421). -/
def windowAdmits (s : State) (acc : PeerAcc) (pa n w : Nat) : Bool :=
  let b := rawReg s (diePa 0 (0x3040 + 16 * w))
  b.getLsbD 0 && b.getLsbD (peerBit acc) && decide (bits b 51 12 * 4096 ≤ pa)
    && decide (pa + n ≤ bits (rawReg s (diePa 0 (0x3048 + 16 * w))) 51 12 * 4096)

/-- A peer access lands in HBM or a Vault window: and there `PZPERM` lets it pass (R421, R389). -/
def peerTarget (s : State) (acc : PeerAcc) (pa n : Nat) : Bool :=
  match regionOf pa with
  | .hbm _ => inHbm pa n
  | .vault c o =>
    let p := rawReg s (ctlPa c 0x300)
    !coreDead s c && decide (o + n ≤ vaultBytes) && (if acc = .read then p.getLsbD 8 else p.getLsbD 9)
  | _ => false

/-- A peer access is admitted (R421). -/
def peerAdmitted (s : State) (acc : PeerAcc) (pa n : Nat) : Bool :=
  (List.range 8).any (windowAdmits s acc pa n) && peerTarget s acc pa n

/-- Bytes of a frame and its marked lines, written through physical pieces; lines count from the chunk's first byte (R422,
R424). -/
def commitBytes (s : State) (f : Frame) (pas : List (Nat × Nat)) : State :=
  writeResult s ⟨f.bytes, (List.range f.bytes.length).map (fun k => f.marks.getD (k / 128) false)⟩ pas

/-- A frame that has come and is not performed keeps its place among those of its peer (R383). -/
def oweFrame (s : State) (f : Frame) : State :=
  if s.pkg.owedIn.contains f then s else { s with pkg := { s.pkg with owedIn := s.pkg.owedIn ++ [f] } }

/-- Record an answer to a frame: one that is performed or fails is owed no more. -/
def answer (s : State) (f : Frame) (a : FrameAnswer) : State :=
  let s := { s with pkg := { s.pkg with answers := s.pkg.answers ++ [(f.spkg, f.daddr, a)] } }
  if a = .refuse 1 then oweFrame s f else { s with pkg := { s.pkg with owedIn := s.pkg.owedIn.erase f } }

/-- KIND 0: a write inside the windows commits whole, else code 2 (R421, R424). Its pieces lie in HBM or a Vault and need no
wait. -/
def receiveWrite (s : State) (f : Frame) : State :=
  if peerAdmitted s .write f.daddr f.bytes.length then
    answer (commitBytes s f [(f.daddr, f.bytes.length)]) f .commit
  else answer s f (.refuse 2)

/-- A collective stops for a page: SUB 5 at its next `coll.wait` (R425). -/
def stopColl (s : State) (c : Nat) (x : Coll) (page : Nat) : State :=
  match x.st with
  | .outstanding => failColl s c x 5 (wordOf page)
  | _ => s

/-- KIND 1: the pages of the chunk are checked in the context of this package's participant; the chunk commits whole or is
refused with code 1 and held (R424, R425). It waits for a collective that is not issued here, for a migration that holds its page
(R313), and for cells that are not ready (R387); one whose bytes this package's completion has already written only commits. -/
def receiveColl (s : State) (f : Frame) : State :=
  match (collsOf s f.comm).find? (fun x => decide (x.seq.toNat = f.seq)) with
  | none => oweFrame s f
  | some x =>
    if x.takes then
      match collPas s x .write (pagesOf f.daddr f.bytes.length) with
      | (s, .ok pas) => if piecesReady s pas then answer (commitBytes s f pas) f .commit else oweFrame s f
      | (s, .error none) => oweFrame s f
      | (s, .error (some page)) =>
        let s := { s with pkg := { s.pkg with refusedIn := s.pkg.refusedIn ++ [f] } }
        answer (stopColl s f.comm x page) f (.refuse 1)
    else if x.st = .sending ∨ x.st = .done then answer s f .commit
    else oweFrame s f

/-- KIND 2: a read inside the windows is answered with a KIND 3 frame (R421, R422). -/
def receiveRead (s : State) (f : Frame) : State :=
  let n := f.bytes.length
  if peerAdmitted s .read f.daddr n then
    let b := (List.range n).map (fun k => peekByte s (f.daddr + k))
    let r : Frame := ⟨ownPkg s, f.spkg, 3, false, f.daddr, 0, 0, b, chunkMarks s f.daddr n, none⟩
    answer (sendFrame s r) f .commit
  else answer s f (.refuse 2)

/-- KIND 4: FetchAdd, Swap or CAS of 4 or 8 bytes on HBM (R426), answered with the old value in a KIND 3 frame; outside the
windows code 2, any other atomic code 3. -/
def receiveAtomic (s : State) (f : Frame) (x : PeerAtomic) : State :=
  let pa := f.daddr
  if !peerAdmitted s .atom pa x.width then answer s f (.refuse 2)
  else if inHbm pa x.width && (decide (x.width = 4) || decide (x.width = 8)) && decide (pa % x.width = 0) then
    let old := peek s pa x.width
    let s := poke s pa x.width (atomicResult x.op x.width x.a.toNat x.b.toNat old)
    let r : Frame := ⟨ownPkg s, f.spkg, 3, false, pa, 0, 0, bytesOfNat x.width old, [], none⟩
    answer (sendFrame s r) f .commit
  else answer s f (.refuse 3)

/-- KIND 3: the data of a read request, which only a checkpoint restore sends: its part of the chunk under way is delivered
(R414). -/
def receiveData (s : State) (f : Frame) : State :=
  let s := answer s f .commit
  if ckStatus s = 1 ∧ s.pkg.ckDir = true ∧ s.pkg.ckParts.contains f.daddr = true ∧ f.spkg = bits (ckdst s) 63 52 then
    let at' := ckPa s.pkg.ckChunk + (f.daddr - ckTierPa s s.pkg.ckChunk)
    ckPartOver (ckDeliver s at' f.bytes f.marks) f.daddr
  else s

/-- The answer that a reply frame stands for (R432): the home's phase counter against the phase joined. -/
def replyOf (r : PodRecord) (phase : Word) : PodReply :=
  match r with
  | .withdrawSent (some p) => if p = phase then .withdrawn else .tooLate
  | _ => .joined phase

/-- KIND 6: a barrier frame by its operation (R432). It reaches no memory. -/
def receiveBarrier (s : State) (f : Frame) : State :=
  let b := f.comm % 16
  let h := seqHart f.seq
  let s := answer s f .commit
  match f.comm / 16 % 4 with
  | 0 => if isHome s then homeArrival s f.spkg h b (wordOf f.daddr) else s
  | 1 => if isHome s then homeWithdraw s f.spkg h b else s
  | 2 =>
    match podRecord s h b with
    | some r => podReply s h b (replyOf r (wordOf f.daddr))
    | none => s
  | _ => { s with pkg := { s.pkg with podCopies := sset 0 s.pkg.podCopies b (wordOf f.daddr) } }

/-- A chunk of the same peer that came before this one has yet to be performed: it was refused, or it waits (R383). -/
def owedBy (s : State) (f : Frame) : Bool :=
  (s.pkg.owedIn.takeWhile (fun x => !decide (x = f))).any (fun x => decide (x.spkg = f.spkg))

/-- A frame arrives (R424). One for another package is not for this receiver, and one that is no chunk of R422 is never sent. A
release waits for the earlier chunks of its peer (R383). -/
def receiveFrame (s : State) (f : Frame) : State :=
  if !(decide (f.dpkg = ownPkg s) || decide (f.dpkg = 4096)) || !frameOk f then s
  else if f.rel && owedBy s f then oweFrame s f
  else
    match f.kind with
    | 0 => receiveWrite s f
    | 1 => receiveColl s f
    | 2 => receiveRead s f
    | 4 => (match f.atom with
      | some x => receiveAtomic s f x
      | none => answer s f (.refuse 3))
    | 3 => receiveData s f
    | 6 => receiveBarrier s f
    | _ => answer s f .commit

def execFrameReceive (f : Frame) (s : State) : Outcome State Fault Refusal := .next (receiveFrame s f)

/-! Answers to frames that this package sent -/

/-- The held frame at an index is taken off. -/
def dropHeld (s : State) (i : Nat) : State := { s with pkg := { s.pkg with held := s.pkg.held.eraseIdx i } }

def setRefused (s : State) (i : Nat) (r : Bool) : State :=
  { s with pkg := { s.pkg with held := s.pkg.held.modify i (fun x => { x with refused := r }) } }

/-- A refused frame fails its transfer (R424, R425): a collective with SUB 4 naming the refusing rank, a checkpoint copy with
STATUS 4. The frame stays held: COMMIT alone discards it. -/
def failTransfer (s : State) (f : Frame) (code : Nat) : State :=
  if f.kind = 1 then
    match commOf s f.comm, (collsOf s f.comm).find? (fun x =>
        (decide (x.st = .outstanding) || decide (x.st = .sending)) && decide (x.seq.toNat = f.seq)) with
    | some m, some x =>
      let rank := ((List.range m.nrank).find? (fun q => rankPkg s m.rlist q == some f.dpkg)).getD 0
      failColl s f.comm x 4 (wordOf (rank + code % 256 * 65536))
    | _, _ => s
  else if (f.kind = 0 ∨ f.kind = 2) ∧ ckStatus s = 1 then setCkStatus s 4
  else s

/-- What a commit ends: a part of a checkpoint save, or the last frame of a collective's share. -/
def afterCommit (s : State) (f : Frame) : State :=
  if f.kind = 0 ∧ s.pkg.ckDir = false then ckPartOver s f.daddr
  else if f.kind = 1 then settleSent s f.comm (BitVec.ofNat 32 f.seq)
  else s

/-- The answer to held frame `i` (R424, R425): discarded on COMMIT only; held on a refusal, on code 1 until RETRY. Codes 2 to 4 fail
the transfer, and so does code 1 for a checkpoint chunk. A pod-barrier frame only waits for its retry (R432). -/
def answerFrame (s : State) (i : Nat) (a : FrameAnswer) : State :=
  match s.pkg.held[i]? with
  | none => s
  | some x =>
    match a with
    | .commit => afterCommit (dropHeld s i) x.frame
    | .retry => resend s i
    | .refuse code =>
      let s := setRefused s i true
      if code = 1 ∧ x.frame.kind = 1 then s else failTransfer s x.frame code

def execFrameAnswer (index : Nat) (a : FrameAnswer) (s : State) : Outcome State Fault Refusal :=
  .next (answerFrame s index a)

/-- Collectives of communicator `c` that need package `pkg` fail with code 4 (R424, R431). -/
def unreachColls (s : State) (pkg c : Nat) : State :=
  match commOf s c with
  | none => s
  | some m =>
    match (List.range m.nrank).find? (fun q => rankPkg s m.rlist q == some pkg) with
    | none => s
    | some q =>
      setColls s c ((collsOf s c).map (fun x =>
        if x.st = .outstanding ∨ x.st = .sending then { x with st := .failed 4 (wordOf (q + 4 * 65536)) } else x))

/-- A receiver is unreachable (R424): code 4 for every frame held for it. -/
def unreachable (s : State) (pkg : Nat) : State :=
  let idx := (enumList s.pkg.held).filter (fun p => p.2.frame.dpkg == pkg)
  let s := idx.foldl (fun s p => failTransfer (setRefused s p.1 true) p.2.frame 4) s
  (skeys s.pkg.colls).foldl (fun s c => unreachColls s pkg c) s

def execFabricUnreachable (pkg : Nat) (s : State) : Outcome State Fault Refusal := .next (unreachable s pkg)

end Sys2Proof.Machine
end

