-- ==== Sys2Proof/Machine/LoadStore.lean ====
section
/-! DEFINITION. Scalar loads, stores and atomics (spec/04_scalar.md R122 to R127). -/

namespace Sys2Proof.Machine

open Host (Outcome)

/-- The effective address of format M. -/
def effAddr (s : State) (ra : SReg) (off : BitVec 13) : Word := s.rS ra + off.signExtend 64

/-- A load of `n` bytes whose value `put` writes. -/
def loadWith (n : Nat) (put : State → Nat → State) (va : Word) (s : State) : Outcome State Fault Refusal :=
  finish (do
    aligned s va n
    let r ← hartRead s va n
    done (put r.1 r.2) 4)

/-- A store of the low `n` bytes of `v`. -/
def storeWith (n : Nat) (v va : Word) (s : State) : Outcome State Fault Refusal :=
  finish (do
    aligned s va n
    let s ← hartWrite s va n (v.toNat % pow2 (8 * n))
    done s 4)

/-- Write a sign-extended `n`-byte value to `s[rd]`. -/
def putSx (n : Nat) (rd : SReg) (s : State) (v : Nat) : State := s.wS rd (sxWord v (8 * n))

/-- Write a zero-extended value to `s[rd]`. -/
def putZx (rd : SReg) (s : State) (v : Nat) : State := s.wS rd (wordOf v)

def execLb (rd ra : SReg) (off : BitVec 13) (s : State) := loadWith 1 (putSx 1 rd) (effAddr s ra off) s
def execLbu (rd ra : SReg) (off : BitVec 13) (s : State) := loadWith 1 (putZx rd) (effAddr s ra off) s
def execLh (rd ra : SReg) (off : BitVec 13) (s : State) := loadWith 2 (putSx 2 rd) (effAddr s ra off) s
def execLhu (rd ra : SReg) (off : BitVec 13) (s : State) := loadWith 2 (putZx rd) (effAddr s ra off) s
def execLw (rd ra : SReg) (off : BitVec 13) (s : State) := loadWith 4 (putSx 4 rd) (effAddr s ra off) s
def execLwu (rd ra : SReg) (off : BitVec 13) (s : State) := loadWith 4 (putZx rd) (effAddr s ra off) s
def execLd (rd ra : SReg) (off : BitVec 13) (s : State) := loadWith 8 (putZx rd) (effAddr s ra off) s
def execFld (rd ra : SReg) (off : BitVec 13) (s : State) :=
  loadWith 8 (fun s v => s.wF rd (wordOf v)) (effAddr s ra off) s

def execSb (rd ra : SReg) (off : BitVec 13) (s : State) := storeWith 1 (s.rS rd) (effAddr s ra off) s
def execSh (rd ra : SReg) (off : BitVec 13) (s : State) := storeWith 2 (s.rS rd) (effAddr s ra off) s
def execSw (rd ra : SReg) (off : BitVec 13) (s : State) := storeWith 4 (s.rS rd) (effAddr s ra off) s
def execSd (rd ra : SReg) (off : BitVec 13) (s : State) := storeWith 8 (s.rS rd) (effAddr s ra off) s
def execFsd (rd ra : SReg) (off : BitVec 13) (s : State) := storeWith 8 (s.rF rd) (effAddr s ra off) s

/-- Bytes of an atomic: `.w` 4, `.d` 8 (R125). -/
def atomBytes (wide : Bool) : Nat := if wide then 8 else 4

/-- The new value of `amo` on w-bit values (R125). -/
def amoValue (op : AmoOp) (w old b : Nat) : Nat :=
  match op with
  | .add => (old + b) % pow2 w
  | .swap => b
  | .and => old &&& b
  | .or => old ||| b
  | .xor => old ^^^ b
  | .min => if sxNat b w < sxNat old w then b else old
  | .max => if sxNat old w < sxNat b w then b else old
  | .minu => if b < old then b else old
  | .maxu => if old < b then b else old

/-- The operations that a PCIe AtomicOp carries (R426). -/
def amoSimple : AmoOp → Bool
  | .add | .swap => true
  | _ => false

/-- The ordering field adds no step: each access performs as it is made (log 3). -/
def execAmo (op : AmoOp) (wide : Bool) (_ord : AccOrd) (sc : Scope) (rd ra rb : SReg) (s : State) :
    Outcome State Fault Refusal :=
  let n := atomBytes wide
  let b := (s.rS rb).toNat % pow2 (8 * n)
  finish (do
    let r ← atomicAt s (s.rS ra) n (amoSimple op) sc (fun old => some (amoValue op (8 * n) old b))
    done (r.1.wS rd (sxWord r.2 (8 * n))) 4)

def execCas (wide : Bool) (_ord : AccOrd) (sc : Scope) (rd ra rb : SReg) (s : State) : Outcome State Fault Refusal :=
  let n := atomBytes wide
  let b := (s.rS rb).toNat % pow2 (8 * n)
  let want := (s.rS rd).toNat % pow2 (8 * n)
  finish (do
    let r ← atomicAt s (s.rS ra) n true sc (fun old => if old = want then some b else none)
    done (r.1.wS rd (sxWord r.2 (8 * n))) 4)

def execLdAcq (wide : Bool) (_sc : Scope) (rd ra : SReg) (s : State) : Outcome State Fault Refusal :=
  loadWith (atomBytes wide) (putSx (atomBytes wide) rd) (s.rS ra) s

def execStRel (wide : Bool) (_sc : Scope) (ra rb : SReg) (s : State) : Outcome State Fault Refusal :=
  storeWith (atomBytes wide) (s.rS rb) (s.rS ra) s

end Sys2Proof.Machine
end

