-- ==== Sys2Proof/Machine/Scalar.lean ====
section
/-! DEFINITION. Scalar integer instructions, branches and jumps (spec/04_scalar.md R101 to R111). -/

namespace Sys2Proof.Machine

open Host (Outcome)

/-- A register-register instruction: `s[RD] := f(s[RA], s[RB])`. -/
def alu2 (f : Word → Word → Word) (rd ra rb : SReg) (s : State) : Outcome State Fault Refusal :=
  putS s rd (f (s.rS ra) (s.rS rb))

/-- A unary instruction: `s[RD] := f(s[RA])`. -/
def alu1 (f : Word → Word) (rd ra : SReg) (s : State) : Outcome State Fault Refusal := putS s rd (f (s.rS ra))

/-- The shift amount `b[5:0]`. -/
def shamt (b : Word) : Nat := b.toNat % 64

def boolWord (b : Bool) : Word := if b then 1 else 0

/-- Bits [127:64] of an exact product. -/
def highHalf (p : Int) : Word := wordOfInt (p / (pow2 64 : Int))

/-- R102, signed quotient with its two special cases. -/
def divS (a b : Word) : Word := if b = 0 then allOnes64 else a.sdiv b

def divU (a b : Word) : Word := if b = 0 then allOnes64 else a.udiv b

def remS (a b : Word) : Word := if b = 0 then a else a.srem b

def remU (a b : Word) : Word := if b = 0 then a else a.umod b

def smin (a b : Word) : Word := if b.slt a then b else a
def smax (a b : Word) : Word := if a.slt b then b else a
def umin (a b : Word) : Word := if b.ult a then b else a
def umax (a b : Word) : Word := if a.ult b then b else a

def execAdd (rd ra rb : SReg) (s : State) := alu2 (fun a b => a + b) rd ra rb s
def execSub (rd ra rb : SReg) (s : State) := alu2 (fun a b => a - b) rd ra rb s
def execAnd (rd ra rb : SReg) (s : State) := alu2 (fun a b => a &&& b) rd ra rb s
def execOr (rd ra rb : SReg) (s : State) := alu2 (fun a b => a ||| b) rd ra rb s
def execXor (rd ra rb : SReg) (s : State) := alu2 (fun a b => a ^^^ b) rd ra rb s
def execSll (rd ra rb : SReg) (s : State) := alu2 (fun a b => a <<< shamt b) rd ra rb s
def execSrl (rd ra rb : SReg) (s : State) := alu2 (fun a b => a >>> shamt b) rd ra rb s
def execSra (rd ra rb : SReg) (s : State) := alu2 (fun a b => a.sshiftRight (shamt b)) rd ra rb s
def execSlt (rd ra rb : SReg) (s : State) := alu2 (fun a b => boolWord (a.slt b)) rd ra rb s
def execSltu (rd ra rb : SReg) (s : State) := alu2 (fun a b => boolWord (a.ult b)) rd ra rb s
def execMin (rd ra rb : SReg) (s : State) := alu2 smin rd ra rb s
def execMax (rd ra rb : SReg) (s : State) := alu2 smax rd ra rb s
def execMinu (rd ra rb : SReg) (s : State) := alu2 umin rd ra rb s
def execMaxu (rd ra rb : SReg) (s : State) := alu2 umax rd ra rb s
def execMul (rd ra rb : SReg) (s : State) := alu2 (fun a b => a * b) rd ra rb s
def execMulh (rd ra rb : SReg) (s : State) := alu2 (fun a b => highHalf (a.toInt * b.toInt)) rd ra rb s
def execMulhu (rd ra rb : SReg) (s : State) :=
  alu2 (fun a b => highHalf ((a.toNat : Int) * (b.toNat : Int))) rd ra rb s
def execMulhsu (rd ra rb : SReg) (s : State) := alu2 (fun a b => highHalf (a.toInt * (b.toNat : Int))) rd ra rb s
def execDiv (rd ra rb : SReg) (s : State) := alu2 divS rd ra rb s
def execDivu (rd ra rb : SReg) (s : State) := alu2 divU rd ra rb s
def execRem (rd ra rb : SReg) (s : State) := alu2 remS rd ra rb s
def execRemu (rd ra rb : SReg) (s : State) := alu2 remU rd ra rb s
def execClz (rd ra : SReg) (s : State) := alu1 (fun a => wordOf (clzNat 64 a.toNat)) rd ra s
def execCtz (rd ra : SReg) (s : State) := alu1 (fun a => wordOf (ctzNat 64 a.toNat)) rd ra s
def execPopc (rd ra : SReg) (s : State) := alu1 (fun a => wordOf (popNat 64 a.toNat)) rd ra s
def execBrev (rd ra : SReg) (s : State) := alu1 bitReverse rd ra s
def execBswap (rd ra : SReg) (s : State) := alu1 byteReverse rd ra s
def execRotl (rd ra rb : SReg) (s : State) := alu2 (fun a b => a.rotateLeft (shamt b)) rd ra rb s
def execRotr (rd ra rb : SReg) (s : State) := alu2 (fun a b => a.rotateRight (shamt b)) rd ra rb s

/-- R104. -/
def execAddx (rd ra rb : SReg) (k : BitVec 3) (s : State) := alu2 (fun a b => a + (b <<< k.toNat)) rd ra rb s
def execSubx (rd ra rb : SReg) (k : BitVec 3) (s : State) := alu2 (fun a b => a - (b <<< k.toNat)) rd ra rb s

/-- R105. -/
def execAddi (rd ra : SReg) (imm : BitVec 16) (s : State) := alu1 (fun a => a + imm.signExtend 64) rd ra s
def execAndi (rd ra : SReg) (imm : BitVec 16) (s : State) := alu1 (fun a => a &&& imm.signExtend 64) rd ra s
def execOri (rd ra : SReg) (imm : BitVec 16) (s : State) := alu1 (fun a => a ||| imm.zeroExtend 64) rd ra s
def execXori (rd ra : SReg) (imm : BitVec 16) (s : State) := alu1 (fun a => a ^^^ imm.zeroExtend 64) rd ra s
def execSlti (rd ra : SReg) (imm : BitVec 16) (s : State) := alu1 (fun a => boolWord (a.slt (imm.signExtend 64))) rd ra s
def execSltiu (rd ra : SReg) (imm : BitVec 16) (s : State) := alu1 (fun a => boolWord (a.ult (imm.signExtend 64))) rd ra s

/-- R106. -/
def execSlli (rd ra : SReg) (sh : BitVec 6) (s : State) := alu1 (fun a => a <<< sh.toNat) rd ra s
def execSrli (rd ra : SReg) (sh : BitVec 6) (s : State) := alu1 (fun a => a >>> sh.toNat) rd ra s
def execSrai (rd ra : SReg) (sh : BitVec 6) (s : State) := alu1 (fun a => a.sshiftRight sh.toNat) rd ra s

/-- R107. -/
def execLui (rd : SReg) (imm : BitVec 16) (s : State) := putS s rd (imm.signExtend 64 <<< 16)
def execAuipc (rd : SReg) (imm : BitVec 16) (s : State) := putS s rd (s.hart.pc + (imm.signExtend 64 <<< 16))

/-- R108: a conditional branch. -/
def branch (taken : Word → Word → Bool) (ra rb : SReg) (off : BitVec 16) (s : State) : Outcome State Fault Refusal :=
  .next (if taken (s.rS ra) (s.rS rb) then s.setPc (s.hart.pc + branchOff off) else s.adv 4)

def execBeq (ra rb : SReg) (off : BitVec 16) (s : State) := branch (fun a b => decide (a = b)) ra rb off s
def execBne (ra rb : SReg) (off : BitVec 16) (s : State) := branch (fun a b => !decide (a = b)) ra rb off s
def execBlt (ra rb : SReg) (off : BitVec 16) (s : State) := branch (fun a b => a.slt b) ra rb off s
def execBge (ra rb : SReg) (off : BitVec 16) (s : State) := branch (fun a b => !a.slt b) ra rb off s
def execBltu (ra rb : SReg) (off : BitVec 16) (s : State) := branch (fun a b => a.ult b) ra rb off s
def execBgeu (ra rb : SReg) (off : BitVec 16) (s : State) := branch (fun a b => !a.ult b) ra rb off s

/-- R109. -/
def execJ (off : BitVec 26) (s : State) : Outcome State Fault Refusal := .next (s.setPc (s.hart.pc + jumpOff off))

def execJal (off : BitVec 26) (s : State) : Outcome State Fault Refusal :=
  .next ((s.wS 31 (s.hart.pc + 4)).setPc (s.hart.pc + jumpOff off))

/-- R110. -/
def execJalr (rd ra : SReg) (imm : BitVec 16) (s : State) : Outcome State Fault Refusal :=
  let target := s.rS ra + imm.signExtend 64
  finish (do
    need (decide (target.toNat % 4 = 0)) s (tMisalign target)
    .ok ((s.wS rd (s.hart.pc + 4)).setPc target))

end Sys2Proof.Machine
end

