-- ==== Sys2Proof/Machine/System.lean ====
section
/-! DEFINITION. System instructions (spec/04_scalar.md R140 to R148). -/

namespace Sys2Proof.Machine

open Host (Outcome)

/-- R140: TRAP with the pc after the instruction. -/
def execTrap (imm : BitVec 16) (s : State) : Outcome State Fault Refusal :=
  finish (raise (s.adv 4) (tTrap (levelCode s.hart.level) imm.toNat))

/-- R142, R43; the translation pair is sampled (R301). A partition that is idle again lets device pre-emption end (R413). -/
def execEret (s : State) : Outcome State Fault Refusal :=
  finish (do
    needS s .eret
    let t := samplePair (s.putHart s.hart.return) s.cur
    .ok (if t.hart.run = s.hart.run then t else devSettle t))

/-- R143. -/
def execWfi (s : State) : Outcome State Fault Refusal :=
  finish (do
    needS s .wfi
    if hipWord s s.cur = 0 then waitFor s .wfi else done s 4)

/-! Context save and restore -/

/-- nc (R144): clusters saved per row, from `hwm` and a count of clusters. -/
def saveClusters (any : Bool) (hvb c : Nat) : Nat := if any then Nat.min ((hvb + 127) / 128) c else 0

/-- Bytes 0x000 to 0x67F of the save area (R144). -/
def saveHeader (x : Hart) : List Byte :=
  bytesOfNat 8 (hwmWord x.hwm).toNat ++ bytesOfNat 8 x.grant.toNat ++ bytesOfNat 8 x.conf.vl.toNat
    ++ bytesOfNat 8 x.conf.vew.toNat ++ bytesOfNat 8 (vspaceWord x.conf).toNat ++ bytesOfNat 8 x.conf.fmode.toNat
    ++ bytesOfNat 8 x.conf.srseed.toNat ++ bytesOfNat 8 x.conf.avh.toNat ++ bytesOfNat 8 x.strap.pc.toNat
    ++ bytesOfNat 8 x.strap.vsi.toNat ++ bytesOfNat 48 0
    ++ ((List.range 12).map (fun k => bytesOfNat 128 (x.rM k).toNat)).flatten

/-- The physical addresses of consecutive 128-byte lines of the save area at `a`. A fault names the area's address (R147,
log 78). -/
def linePas (a : Word) (s : State) (acc : Acc) : Nat → Word → Eff (State × List Nat)
  | 0, _ => .ok (s, [])
  | n + 1, va => do
    let p ← areaPa a s va acc 128
    let r ← linePas a p.1 acc n (va + 128)
    .ok (r.1, p.2 :: r.2)

/-- Write whole lines, unmarked or marked (R145, R316). -/
def writeLines (s : State) (mark : Bool) : List Nat → List Byte → State
  | [], _ => s
  | pa :: ps, bs => writeLines (markLine (pokeBytes s pa (bs.take 128)) pa mark) mark ps (bs.drop 128)

/-- A row and cluster that may be read or written: no update or drain holds the row and the group is landed (R156,
R200). -/
def groupReady (s : State) (row p : Nat) : Eff Unit :=
  if s.hart.busyRow row then waitFor s (.rows (BitVec.ofNat 48 (pow2 row)))
  else if unlanded s (coreOf s.cur) row p then stallGroup s row p
  else .ok ()

/-- A cell that `ctxsave` reads. DESIGN CHOICE (log 95): rows 48 to 63, which a restored HREG may name, have no cells; what
is saved for them is a free value. -/
def savedCell (s : State) (row col : Nat) : Word :=
  if row < 48 then cell s (coreOf s.cur) row col else Config.absentCell row col

/-- The 128 bytes of logical cluster `j` of a row. -/
def clusterBytes (s : State) (row j : Nat) : List Byte :=
  ((List.range 16).map (fun i => bytesOfNat 8 (savedCell s row (laneCol s.hart.grant j i)).toNat)).flatten

def clusterMarked (s : State) (row j : Nat) : Bool :=
  decide (row < 48) && (List.range 16).any (fun i => cellMark s (coreOf s.cur) row (laneCol s.hart.grant j i))

/-- One step of `ctxsave` (R145). -/
def saveStep (a : Word) (nc k : Nat) (s : State) : Eff State :=
  if k = 0 then do
    let r ← linePas a s .write 13 a
    .ok (writeLines r.1 false r.2 (saveHeader s.hart))
  else do
    let row := (k - 1) / nc
    let j := (k - 1) % nc
    if row < 48 then groupReady s row ((clustersOf s.hart.grant).getD j 0) else .ok ()
    let r ← linePas a s .write 1 (a + wordOf (0x680 + 128 * (k - 1)))
    .ok (writeLines r.1 (clusterMarked s row j) r.2 (clusterBytes s row j))

/-- `ctxsave` (R144, R145). -/
def execCtxsave (ra : SReg) (s : State) : Outcome State Fault Refusal :=
  let x := s.hart
  let nc := saveClusters x.hwm.any x.hwm.hvb.toNat (grantCount x.grant)
  finish (do
    computeOnly s (.ctxsave ra)
    needS s (.ctxsave ra)
    aligned s (s.rS ra) 128
    runLoop s ⟨1 + (if nc = 0 then 0 else (x.hwm.hreg.toNat + 1) * nc), 1, id, fun k s => saveStep (s.rS ra) nc k s, noLast⟩ 0 4)

/-- Read whole lines without a POISON check. -/
def readLines (s : State) (pas : List Nat) : Nat := gather (fun k => peekByte s (pas.getD (k / 128) 0 + k % 128)) 0 (128 * pas.length)

/-- Every line is readable. -/
def linesReady (s : State) : List Nat → Eff Unit
  | [] => .ok ()
  | pa :: ps => do
    readReady s pa
    linesReady s ps

/-- The first marked line. -/
def markedLine (s : State) (pas : List Nat) : Option Nat := pas.find? (fun pa => markAny s pa 128)

/-- What the header of a save area says: ANY, HREG, and nc of the saved grant (R146). -/
structure SavedShape where
  any : Bool
  hreg : Nat
  ns : Nat
  deriving DecidableEq, Repr

def savedShape (hdr : Nat) : SavedShape :=
  let w := wordOf (fieldAt hdr 0 8)
  let any := w.getLsbD 20
  ⟨any, bits w 19 14, saveClusters any (bits w 13 0) (grantCount (BitVec.ofNat 8 (fieldAt hdr 8 1)))⟩

/-- Write one cell of the current hart's core whole. -/
def fillCell (s : State) (row col : Nat) (v : Word) (m : Bool) : State :=
  setCellMark (setCell s (coreOf s.cur) row col v) (coreOf s.cur) row col m

/-- Fill logical cluster `j` of a row with 128 bytes. DEDUCED: a filled cluster is a write of the hart, which updates `hwm` to its end
at once; the completion replaces that (R34, R146, log 24). -/
def fillCluster (s : State) (row j v : Nat) (m : Bool) : State :=
  let t := (List.range 16).foldl (fun s i => fillCell s row (laneCol s.hart.grant j i) (wordOf (fieldAt v (8 * i) 8)) m) s
  t.putHart (t.hart.noteWrite row (128 * (j + 1)))

/-- One step of `ctxrest` (R146). DEDUCED (log 96): VALUE of a POISON is the line that the area's address names, also where an
aperture's view shows the mark of a buffer line. -/
def restoreStep (a : Word) (sh : SavedShape) (k : Nat) (s : State) : Eff State :=
  if k = 0 then do
    let r ← linePas a s .read 13 a
    linesReady r.1 r.2
    match markedLine r.1 r.2 with
    | some pa => raise r.1 (tPoisonMem pa)
    | none =>
      let v := readLines r.1 r.2
      .ok ((List.range 12).foldl (fun s m =>
        s.putHart (s.hart.wM m (BitVec.ofNat 1024 (fieldAt v (0x80 + 128 * m) 128)))) r.1)
  else do
    let c := grantCount s.hart.grant
    let row := (k - 1) / c
    let j := (k - 1) % c
    groupReady s row ((clustersOf s.hart.grant).getD j 0)
    if sh.any && decide (row ≤ sh.hreg) && decide (j < sh.ns) then
      let r ← linePas a s .read 1 (a + wordOf (0x680 + 128 * (sh.ns * row + j)))
      linesReady r.1 r.2
      let v := readLines r.1 r.2
      let m := (markedLine r.1 r.2).isSome
      .ok (fillCluster r.1 row j v m)
    else .ok (fillCluster s row j 0 false)

/-- The completion of `ctxrest` (R146): each register under its own field map. -/
def restoreLast (hdr : Nat) (s : State) : Eff State :=
  let w := fun (o : Nat) => wordOf (fieldAt hdr o 8)
  let s := csrWrite s 0x001 (w 0x18)
  let s := csrWrite s 0x000 (w 0x10)
  let s := csrWrite s 0x003 (w 0x20)
  let s := csrWrite s 0x004 (w 0x28)
  let s := csrWrite s 0x005 (w 0x30)
  let s := csrWrite s 0x006 (w 0x38)
  let s := csrWrite s 0x106 (w 0x40)
  let s := csrWrite s 0x107 (w 0x48)
  let h := w 0
  .ok (s.putHart { s.hart with hwm :=
    ⟨h.getLsbD 20, BitVec.ofNat 6 (bits h 19 14), BitVec.ofNat 14 (Nat.min (bits h 13 0) (128 * grantCount s.hart.grant))⟩ })

/-- `ctxrest` (R146). The first line of the area gives its shape and the values that completion writes. -/
def execCtxrest (ra : SReg) (s : State) : Outcome State Fault Refusal :=
  finish (do
    computeOnly s (.ctxrest ra)
    needS s (.ctxrest ra)
    aligned s (s.rS ra) 128
    let limit := 1 + 48 * grantCount s.hart.grant
    if limit ≤ s.vsi then done (s.setVsi 0) 4
    else
      let r ← linePas (s.rS ra) s .read 1 (s.rS ra)
      linesReady r.1 r.2
      let hdr := readLines r.1 r.2
      runLoop r.1 ⟨limit, 1, id, restoreStep (s.rS ra) (savedShape hdr), restoreLast hdr⟩ 0 4)

/-! Translation maintenance -/

/-- Queue a request for the executing core alone and wait until it is applied (R312); a command hart removes from its own
cache at once (R393). -/
def xlinv (i : Instr) (q : ShootReq) (s : State) : Outcome State Fault Refusal :=
  finish (do
    needS s i
    if isCommand s.cur then done (shootTlb s (tlbOf s.cur) q) 4
    else
      let c := coreOf s.cur
      if 16 ≤ (shootQueue s c).length then waitFor s .xlinv
      else
        let s := queueShoot s c q
        waitFor (s.putHart { s.hart with xlinvWait := true }) .xlinv)

def execXlinvVa (ra rb : SReg) (s : State) : Outcome State Fault Refusal :=
  xlinv (.xlinvVa ra rb) ⟨0, BitVec.ofNat 16 (s.rS rb).toNat, (s.rS ra).toNat, none, none, 0⟩ s

def execXlinvAs (rb : SReg) (s : State) : Outcome State Fault Refusal :=
  xlinv (.xlinvAs rb) ⟨1, BitVec.ofNat 16 (s.rS rb).toNat, 0, none, none, 0⟩ s

def execXlinvAll (s : State) : Outcome State Fault Refusal := xlinv .xlinvAll ⟨2, 0, 0, none, none, 0⟩ s

/-- The die whose migration engine serves a hart; a command hart's requests go to die 0 (log 12). -/
def migDie (h : Nat) : Nat := if isCommand h then 0 else dieOf h

/-- Queue a migration (R313). -/
def postMigration (s : State) (d : Nat) (r : ShootRec) : State :=
  let m : Migration := ⟨r.size, r.asid, r.va, r.done, r.ptea, r.dst, r.cores, 0, 0, 0, []⟩
  { s with dies := { s.dies with migs := sset [] s.dies.migs d (sget [] s.dies.migs d ++ [m]) } }

/-- The 128 bytes of a request record, whose two halves may lie on two pages: both are translated before either is read
(R148). -/
def readRecord (s : State) (va : Word) : Eff (State × Nat) := do
  let lo ← hartPa s va .read 64
  let hi ← hartPa lo.1 (va + 64) .read 64
  readReady hi.1 lo.2
  readReady hi.1 hi.2
  let a ← readAt hi.1 lo.2 64
  let b ← readAt hi.1 hi.2 64
  .ok (hi.1, a + b * pow2 512)

/-- `shoot` (R148, R307, R308). A completion word that it writes at once waits as R202 has every write of a cell wait. -/
def execShoot (ra : SReg) (s : State) : Outcome State Fault Refusal :=
  finish (do
    needS s (.shoot ra)
    aligned s (s.rS ra) 64
    let r ← readRecord s (s.rS ra)
    let s := r.1
    let b := r.2
    match parseShoot s b with
    | none =>
      let a := fieldAt b 0x10 8
      if !doneOk s a then done s 4
      else if !wordReady s a then waitFor s .retry
      else done (poke s a 8 (pow2 64 - 1)) 4
    | some r =>
      if r.op = 3 then done (postMigration s (migDie s.cur) r) 4
      else if !shootRoom s r.cores || ((coresOf r.cores).any (coreDead s) && !wordReady s r.done) then waitFor s .retry
      else done (postShoot s ⟨r.op, r.asid, r.va, some r.done, none, 0⟩ r.cores) 4)

end Sys2Proof.Machine
end

