-- ==== Sys2Proof/Machine/Dispatch.lean ====
section
/-! DEFINITION. The dispatch of every instruction and event to its meaning. -/

namespace Sys2Proof.Machine

def exec (i : Instr) (s : State) : Host.Outcome State Fault Refusal :=
  match i with
  | .add rd ra rb => Sys2Proof.Machine.execAdd rd ra rb s
  | .sub rd ra rb => Sys2Proof.Machine.execSub rd ra rb s
  | .and rd ra rb => Sys2Proof.Machine.execAnd rd ra rb s
  | .or rd ra rb => Sys2Proof.Machine.execOr rd ra rb s
  | .xor rd ra rb => Sys2Proof.Machine.execXor rd ra rb s
  | .sll rd ra rb => Sys2Proof.Machine.execSll rd ra rb s
  | .srl rd ra rb => Sys2Proof.Machine.execSrl rd ra rb s
  | .sra rd ra rb => Sys2Proof.Machine.execSra rd ra rb s
  | .slt rd ra rb => Sys2Proof.Machine.execSlt rd ra rb s
  | .sltu rd ra rb => Sys2Proof.Machine.execSltu rd ra rb s
  | .min rd ra rb => Sys2Proof.Machine.execMin rd ra rb s
  | .max rd ra rb => Sys2Proof.Machine.execMax rd ra rb s
  | .minu rd ra rb => Sys2Proof.Machine.execMinu rd ra rb s
  | .maxu rd ra rb => Sys2Proof.Machine.execMaxu rd ra rb s
  | .mul rd ra rb => Sys2Proof.Machine.execMul rd ra rb s
  | .mulh rd ra rb => Sys2Proof.Machine.execMulh rd ra rb s
  | .mulhu rd ra rb => Sys2Proof.Machine.execMulhu rd ra rb s
  | .mulhsu rd ra rb => Sys2Proof.Machine.execMulhsu rd ra rb s
  | .div rd ra rb => Sys2Proof.Machine.execDiv rd ra rb s
  | .divu rd ra rb => Sys2Proof.Machine.execDivu rd ra rb s
  | .rem rd ra rb => Sys2Proof.Machine.execRem rd ra rb s
  | .remu rd ra rb => Sys2Proof.Machine.execRemu rd ra rb s
  | .clz rd ra => Sys2Proof.Machine.execClz rd ra s
  | .ctz rd ra => Sys2Proof.Machine.execCtz rd ra s
  | .popc rd ra => Sys2Proof.Machine.execPopc rd ra s
  | .brev rd ra => Sys2Proof.Machine.execBrev rd ra s
  | .bswap rd ra => Sys2Proof.Machine.execBswap rd ra s
  | .rotl rd ra rb => Sys2Proof.Machine.execRotl rd ra rb s
  | .rotr rd ra rb => Sys2Proof.Machine.execRotr rd ra rb s
  | .addx rd ra rb k => Sys2Proof.Machine.execAddx rd ra rb k s
  | .subx rd ra rb k => Sys2Proof.Machine.execSubx rd ra rb k s
  | .addi rd ra imm => Sys2Proof.Machine.execAddi rd ra imm s
  | .andi rd ra imm => Sys2Proof.Machine.execAndi rd ra imm s
  | .ori rd ra imm => Sys2Proof.Machine.execOri rd ra imm s
  | .xori rd ra imm => Sys2Proof.Machine.execXori rd ra imm s
  | .slti rd ra imm => Sys2Proof.Machine.execSlti rd ra imm s
  | .sltiu rd ra imm => Sys2Proof.Machine.execSltiu rd ra imm s
  | .slli rd ra sh => Sys2Proof.Machine.execSlli rd ra sh s
  | .srli rd ra sh => Sys2Proof.Machine.execSrli rd ra sh s
  | .srai rd ra sh => Sys2Proof.Machine.execSrai rd ra sh s
  | .lui rd imm => Sys2Proof.Machine.execLui rd imm s
  | .auipc rd imm => Sys2Proof.Machine.execAuipc rd imm s
  | .beq ra rb off => Sys2Proof.Machine.execBeq ra rb off s
  | .bne ra rb off => Sys2Proof.Machine.execBne ra rb off s
  | .blt ra rb off => Sys2Proof.Machine.execBlt ra rb off s
  | .bge ra rb off => Sys2Proof.Machine.execBge ra rb off s
  | .bltu ra rb off => Sys2Proof.Machine.execBltu ra rb off s
  | .bgeu ra rb off => Sys2Proof.Machine.execBgeu ra rb off s
  | .j off => Sys2Proof.Machine.execJ off s
  | .jal off => Sys2Proof.Machine.execJal off s
  | .jalr rd ra imm => Sys2Proof.Machine.execJalr rd ra imm s
  | .strip ra ps off => Sys2Proof.Machine.execStrip ra ps off s
  | .fadd fmt rms rd ra rb => Sys2Proof.Machine.execFadd fmt rms rd ra rb s
  | .fsub fmt rms rd ra rb => Sys2Proof.Machine.execFsub fmt rms rd ra rb s
  | .fmul fmt rms rd ra rb => Sys2Proof.Machine.execFmul fmt rms rd ra rb s
  | .fdiv fmt rms rd ra rb => Sys2Proof.Machine.execFdiv fmt rms rd ra rb s
  | .fsqrt fmt rms rd ra => Sys2Proof.Machine.execFsqrt fmt rms rd ra s
  | .fmin fmt rd ra rb => Sys2Proof.Machine.execFmin fmt rd ra rb s
  | .fmax fmt rd ra rb => Sys2Proof.Machine.execFmax fmt rd ra rb s
  | .fmadd fmt rms rd ra rb => Sys2Proof.Machine.execFmadd fmt rms rd ra rb s
  | .fnmsub fmt rms rd ra rb => Sys2Proof.Machine.execFnmsub fmt rms rd ra rb s
  | .fcvt dst src sat rms rd ra => Sys2Proof.Machine.execFcvt dst src sat rms rd ra s
  | .fmvFs rd ra => Sys2Proof.Machine.execFmvFs rd ra s
  | .fmvSf rd ra => Sys2Proof.Machine.execFmvSf rd ra s
  | .fmvFf rd ra => Sys2Proof.Machine.execFmvFf rd ra s
  | .fsgn fmt rd ra rb => Sys2Proof.Machine.execFsgn fmt rd ra rb s
  | .fsgnN fmt rd ra rb => Sys2Proof.Machine.execFsgnN fmt rd ra rb s
  | .fsgnX fmt rd ra rb => Sys2Proof.Machine.execFsgnX fmt rd ra rb s
  | .feq fmt rd ra rb => Sys2Proof.Machine.execFeq fmt rd ra rb s
  | .flt fmt rd ra rb => Sys2Proof.Machine.execFlt fmt rd ra rb s
  | .fle fmt rd ra rb => Sys2Proof.Machine.execFle fmt rd ra rb s
  | .fclass fmt rd ra => Sys2Proof.Machine.execFclass fmt rd ra s
  | .lb rd ra off => Sys2Proof.Machine.execLb rd ra off s
  | .lbu rd ra off => Sys2Proof.Machine.execLbu rd ra off s
  | .lh rd ra off => Sys2Proof.Machine.execLh rd ra off s
  | .lhu rd ra off => Sys2Proof.Machine.execLhu rd ra off s
  | .lw rd ra off => Sys2Proof.Machine.execLw rd ra off s
  | .lwu rd ra off => Sys2Proof.Machine.execLwu rd ra off s
  | .ld rd ra off => Sys2Proof.Machine.execLd rd ra off s
  | .fld rd ra off => Sys2Proof.Machine.execFld rd ra off s
  | .sb rd ra off => Sys2Proof.Machine.execSb rd ra off s
  | .sh rd ra off => Sys2Proof.Machine.execSh rd ra off s
  | .sw rd ra off => Sys2Proof.Machine.execSw rd ra off s
  | .sd rd ra off => Sys2Proof.Machine.execSd rd ra off s
  | .fsd rd ra off => Sys2Proof.Machine.execFsd rd ra off s
  | .amo op wide ord sc rd ra rb => Sys2Proof.Machine.execAmo op wide ord sc rd ra rb s
  | .cas wide ord sc rd ra rb => Sys2Proof.Machine.execCas wide ord sc rd ra rb s
  | .ldAcq wide sc rd ra => Sys2Proof.Machine.execLdAcq wide sc rd ra s
  | .stRel wide sc ra rb => Sys2Proof.Machine.execStRel wide sc ra rb s
  | .fence sc => Sys2Proof.Machine.execFence sc s
  | .fenceAcq sc => Sys2Proof.Machine.execFenceAcq sc s
  | .fenceRel sc => Sys2Proof.Machine.execFenceRel sc s
  | .fenceI => Sys2Proof.Machine.execFenceI s
  | .bar sc ra rb => Sys2Proof.Machine.execBar sc ra rb s
  | .barArr sc rd ra rb => Sys2Proof.Machine.execBarArr sc rd ra rb s
  | .barWt sc ra rb => Sys2Proof.Machine.execBarWt sc ra rb s
  | .vwait c sc rd ra rb => Sys2Proof.Machine.execVwait c sc rd ra rb s
  | .qpoint => Sys2Proof.Machine.execQpoint s
  | .pause => Sys2Proof.Machine.execPause s
  | .eret => Sys2Proof.Machine.execEret s
  | .wfi => Sys2Proof.Machine.execWfi s
  | .ctxsave ra => Sys2Proof.Machine.execCtxsave ra s
  | .ctxrest ra => Sys2Proof.Machine.execCtxrest ra s
  | .xlinvVa ra rb => Sys2Proof.Machine.execXlinvVa ra rb s
  | .xlinvAs rb => Sys2Proof.Machine.execXlinvAs rb s
  | .xlinvAll => Sys2Proof.Machine.execXlinvAll s
  | .shoot ra => Sys2Proof.Machine.execShoot ra s
  | .csrr rd csr => Sys2Proof.Machine.execCsrr rd csr s
  | .csrw rd ra csr => Sys2Proof.Machine.execCsrw rd ra csr s
  | .csrs rd ra csr => Sys2Proof.Machine.execCsrs rd ra csr s
  | .csrc rd ra csr => Sys2Proof.Machine.execCsrc rd ra csr s
  | .trap imm => Sys2Proof.Machine.execTrap imm s
  | .tspawnCore rd ra => Sys2Proof.Machine.execTspawnCore rd ra s
  | .tspawnDie rd ra => Sys2Proof.Machine.execTspawnDie rd ra s
  | .tspawnSwap rd ra => Sys2Proof.Machine.execTspawnSwap rd ra s
  | .texit ra => Sys2Proof.Machine.execTexit ra s
  | .lreq rd ra rb => Sys2Proof.Machine.execLreq rd ra rb s
  | .lrel rd ra => Sys2Proof.Machine.execLrel rd ra s
  | .vgrant rd ra => Sys2Proof.Machine.execVgrant rd ra s
  | .lpub ra => Sys2Proof.Machine.execLpub ra s
  | .lbind rd ra rb => Sys2Proof.Machine.execLbind rd ra rb s
  | .tyield rd => Sys2Proof.Machine.execTyield rd s
  | .semWaitGe rd ra rb => Sys2Proof.Machine.execSemWaitGe rd ra rb s
  | .semSig rd ra rb => Sys2Proof.Machine.execSemSig rd ra rb s
  | .semSigAdd rd ra rb => Sys2Proof.Machine.execSemSigAdd rd ra rb s
  | .launch rd ra => Sys2Proof.Machine.execLaunch rd ra s
  | .copy rd ra => Sys2Proof.Machine.execCopy rd ra s
  | .irq ra => Sys2Proof.Machine.execIrq ra s
  | .irqHart ra rb => Sys2Proof.Machine.execIrqHart ra rb s
  | .qsel rd ra => Sys2Proof.Machine.execQsel rd ra s
  | .convoy n units slots => Sys2Proof.Machine.execConvoy n units slots s
  | .vadd o => Sys2Proof.Machine.execVadd o s
  | .vsub o => Sys2Proof.Machine.execVsub o s
  | .vrsub o => Sys2Proof.Machine.execVrsub o s
  | .vmul o => Sys2Proof.Machine.execVmul o s
  | .vmulh o => Sys2Proof.Machine.execVmulh o s
  | .vdiv o => Sys2Proof.Machine.execVdiv o s
  | .vrem o => Sys2Proof.Machine.execVrem o s
  | .vmin o => Sys2Proof.Machine.execVmin o s
  | .vmax o => Sys2Proof.Machine.execVmax o s
  | .vand o => Sys2Proof.Machine.execVand o s
  | .vor o => Sys2Proof.Machine.execVor o s
  | .vxor o => Sys2Proof.Machine.execVxor o s
  | .vsll o => Sys2Proof.Machine.execVsll o s
  | .vsrl o => Sys2Proof.Machine.execVsrl o s
  | .vsra o => Sys2Proof.Machine.execVsra o s
  | .vmacc o => Sys2Proof.Machine.execVmacc o s
  | .vabs o => Sys2Proof.Machine.execVabs o s
  | .vclz o => Sys2Proof.Machine.execVclz o s
  | .vpopc o => Sys2Proof.Machine.execVpopc o s
  | .vmv o => Sys2Proof.Machine.execVmv o s
  | .vmerge o => Sys2Proof.Machine.execVmerge o s
  | .vid o => Sys2Proof.Machine.execVid o s
  | .vslide1Up o => Sys2Proof.Machine.execVslide1Up o s
  | .vslide1Dn o => Sys2Proof.Machine.execVslide1Dn o s
  | .vfadd o => Sys2Proof.Machine.execVfadd o s
  | .vfsub o => Sys2Proof.Machine.execVfsub o s
  | .vfmul o => Sys2Proof.Machine.execVfmul o s
  | .vfdiv o => Sys2Proof.Machine.execVfdiv o s
  | .vfsqrt o => Sys2Proof.Machine.execVfsqrt o s
  | .vfmin o => Sys2Proof.Machine.execVfmin o s
  | .vfmax o => Sys2Proof.Machine.execVfmax o s
  | .vfmadd o => Sys2Proof.Machine.execVfmadd o s
  | .vfnmsub o => Sys2Proof.Machine.execVfnmsub o s
  | .vfsgn o => Sys2Proof.Machine.execVfsgn o s
  | .vfsgnN o => Sys2Proof.Machine.execVfsgnN o s
  | .vfsgnX o => Sys2Proof.Machine.execVfsgnX o s
  | .vfclass o => Sys2Proof.Machine.execVfclass o s
  | .vcvt o => Sys2Proof.Machine.execVcvt o s
  | .vcmp c o => Sys2Proof.Machine.execVcmp c o s
  | .vfcmp c o => Sys2Proof.Machine.execVfcmp c o s
  | .mand o => Sys2Proof.Machine.execMand o s
  | .mor o => Sys2Proof.Machine.execMor o s
  | .mxor o => Sys2Proof.Machine.execMxor o s
  | .mandn o => Sys2Proof.Machine.execMandn o s
  | .mpopc o => Sys2Proof.Machine.execMpopc o s
  | .mfirst o => Sys2Proof.Machine.execMfirst o s
  | .mfill o => Sys2Proof.Machine.execMfill o s
  | .miota o => Sys2Proof.Machine.execMiota o s
  | .vslideup o => Sys2Proof.Machine.execVslideup o s
  | .vslidedn o => Sys2Proof.Machine.execVslidedn o s
  | .vrgather o => Sys2Proof.Machine.execVrgather o s
  | .vcompress o => Sys2Proof.Machine.execVcompress o s
  | .vext o => Sys2Proof.Machine.execVext o s
  | .vins o => Sys2Proof.Machine.execVins o s
  | .vredsum o => Sys2Proof.Machine.execVredsum o s
  | .vredmax o => Sys2Proof.Machine.execVredmax o s
  | .vredmin o => Sys2Proof.Machine.execVredmin o s
  | .vredand o => Sys2Proof.Machine.execVredand o s
  | .vredor o => Sys2Proof.Machine.execVredor o s
  | .vredbs o => Sys2Proof.Machine.execVredbs o s
  | .vexp2 o => Sys2Proof.Machine.execVexp2 o s
  | .vlog2 o => Sys2Proof.Machine.execVlog2 o s
  | .vpenny o => Sys2Proof.Machine.execVpenny o s
  | .vrsqrt o => Sys2Proof.Machine.execVrsqrt o s
  | .vrecip o => Sys2Proof.Machine.execVrecip o s
  | .vtanh o => Sys2Proof.Machine.execVtanh o s
  | .vld o => Sys2Proof.Machine.execVld o s
  | .vst o => Sys2Proof.Machine.execVst o s
  | .vlds o => Sys2Proof.Machine.execVlds o s
  | .vsts o => Sys2Proof.Machine.execVsts o s
  | .vldx o => Sys2Proof.Machine.execVldx o s
  | .vstx o => Sys2Proof.Machine.execVstx o s
  | .vldseg o => Sys2Proof.Machine.execVldseg o s
  | .vstseg o => Sys2Proof.Machine.execVstseg o s
  | .mop o => Sys2Proof.Machine.execMop o s
  | .mmkO o => Sys2Proof.Machine.execMmkO o s
  | .mmkF o => Sys2Proof.Machine.execMmkF o s
  | .mmksO o => Sys2Proof.Machine.execMmksO o s
  | .mmksF o => Sys2Proof.Machine.execMmksF o s
  | .mzero o => Sys2Proof.Machine.execMzero o s
  | .mcolGet o => Sys2Proof.Machine.execMcolGet o s
  | .mcolPut o => Sys2Proof.Machine.execMcolPut o s
  | .mdiagGet o => Sys2Proof.Machine.execMdiagGet o s
  | .mdiagPut o => Sys2Proof.Machine.execMdiagPut o s
  | .mdrain o => Sys2Proof.Machine.execMdrain o s
  | .akvmask o => Sys2Proof.Machine.execAkvmask o s
  | .asmax o => Sys2Proof.Machine.execAsmax o s
  | .apexp o => Sys2Proof.Machine.execApexp o s
  | .apv o => Sys2Proof.Machine.execApv o s
  | .afin o => Sys2Proof.Machine.execAfin o s
  | .amode o => Sys2Proof.Machine.execAmode o s
  | .sld o => Sys2Proof.Machine.execSld o s
  | .sst o => Sys2Proof.Machine.execSst o s
  | .sldv o => Sys2Proof.Machine.execSldv o s
  | .sgather o => Sys2Proof.Machine.execSgather o s
  | .sscatter o => Sys2Proof.Machine.execSscatter o s
  | .spaged o => Sys2Proof.Machine.execSpaged o s
  | .sbar o => Sys2Proof.Machine.execSbar o s
  | .swp o => Sys2Proof.Machine.execSwp o s
  | .sres o => Sys2Proof.Machine.execSres o s
  | .sresLoad o => Sys2Proof.Machine.execSresLoad o s
  | .sfill o => Sys2Proof.Machine.execSfill o s
  | .sfillM o => Sys2Proof.Machine.execSfillM o s
  | .scancel o => Sys2Proof.Machine.execScancel o s
  | .sstat o => Sys2Proof.Machine.execSstat o s
  | .sstatSave o => Sys2Proof.Machine.execSstatSave o s
  | .avpush o => Sys2Proof.Machine.execAvpush o s
  | .avpop o => Sys2Proof.Machine.execAvpop o s
  | .avpushTry o => Sys2Proof.Machine.execAvpushTry o s
  | .avpopTry o => Sys2Proof.Machine.execAvpopTry o s
  | .avstat o => Sys2Proof.Machine.execAvstat o s
  | .avstamp o => Sys2Proof.Machine.execAvstamp o s
  | .asmeth o => Sys2Proof.Machine.execAsmeth o s
  | .assamp o => Sys2Proof.Machine.execAssamp o s
  | .asstart o => Sys2Proof.Machine.execAsstart o s
  | .asdrain o => Sys2Proof.Machine.execAsdrain o s
  | .asabort o => Sys2Proof.Machine.execAsabort o s
  | .asstat o => Sys2Proof.Machine.execAsstat o s
  | .collAred op o => Sys2Proof.Machine.execCollAred op o s
  | .collAgat o => Sys2Proof.Machine.execCollAgat o s
  | .collRsct op o => Sys2Proof.Machine.execCollRsct op o s
  | .collBcast o => Sys2Proof.Machine.execCollBcast o s
  | .collWait o => Sys2Proof.Machine.execCollWait o s
  | .deviceReset => Sys2Proof.Machine.execDeviceReset s
  | .powerOnBoot signatureGood => Sys2Proof.Machine.execPowerOnBoot signatureGood s
  | .interruptTake hart stop => Sys2Proof.Machine.execInterruptTake hart stop s
  | .vaultLineWaitEnd hart => Sys2Proof.Machine.execVaultLineWaitEnd hart s
  | .landedWaitEnd hart => Sys2Proof.Machine.execLandedWaitEnd hart s
  | .rowReleaseWaitEnd hart => Sys2Proof.Machine.execRowReleaseWaitEnd hart s
  | .squareUpdateComplete hart => Sys2Proof.Machine.execSquareUpdateComplete hart s
  | .drainRowShift hart => Sys2Proof.Machine.execDrainRowShift hart s
  | .streamWindowStart hart slot => Sys2Proof.Machine.execStreamWindowStart hart slot s
  | .streamElementPerform hart slot => Sys2Proof.Machine.execStreamElementPerform hart slot s
  | .streamFaultStop hart slot => Sys2Proof.Machine.execStreamFaultStop hart slot s
  | .boundaryCommit hart => Sys2Proof.Machine.execBoundaryCommit hart s
  | .clusterZeroDone core cluster => Sys2Proof.Machine.execClusterZeroDone core cluster s
  | .dispatchPlace die => Sys2Proof.Machine.execDispatchPlace die s
  | .dispatchOffer die => Sys2Proof.Machine.execDispatchOffer die s
  | .barWaitEnd hart => Sys2Proof.Machine.execBarWaitEnd hart s
  | .vwaitReread hart => Sys2Proof.Machine.execVwaitReread hart s
  | .pauseExpire hart => Sys2Proof.Machine.execPauseExpire hart s
  | .wfiWake hart => Sys2Proof.Machine.execWfiWake hart s
  | .quadPacketServe p => Sys2Proof.Machine.execQuadPacketServe p s
  | .quadResponseArrive r => Sys2Proof.Machine.execQuadResponseArrive r s
  | .qbctlAbort quad bits => Sys2Proof.Machine.execQbctlAbort quad bits s
  | .qbctlAbortedClear quad bits => Sys2Proof.Machine.execQbctlAbortedClear quad bits s
  | .shootdownApply core => Sys2Proof.Machine.execShootdownApply core s
  | .watchdogForce core part => Sys2Proof.Machine.execWatchdogForce core part s
  | .migrationStart die => Sys2Proof.Machine.execMigrationStart die s
  | .migrationLineCopy die err => Sys2Proof.Machine.execMigrationLineCopy die err s
  | .errorDetect e => Sys2Proof.Machine.execErrorDetect e s
  | .scrubRead line found => Sys2Proof.Machine.execScrubRead line found s
  | .spareApply u => Sys2Proof.Machine.execSpareApply u s
  | .coreFailure core => Sys2Proof.Machine.execCoreFailure core s
  | .plctlStart die slot => Sys2Proof.Machine.execPlctlStart die slot s
  | .plctlStop die slot => Sys2Proof.Machine.execPlctlStop die slot s
  | .poolCoreJoin core => Sys2Proof.Machine.execPoolCoreJoin core s
  | .balancerInterval die slot => Sys2Proof.Machine.execBalancerInterval die slot s
  | .pipelineStopComplete die slot => Sys2Proof.Machine.execPipelineStopComplete die slot s
  | .avenueWaitEnd hart => Sys2Proof.Machine.execAvenueWaitEnd hart s
  | .pldlAck die slot bits => Sys2Proof.Machine.execPldlAck die slot bits s
  | .assayerDerivPop die => Sys2Proof.Machine.execAssayerDerivPop die s
  | .assayerRequestPush die => Sys2Proof.Machine.execAssayerRequestPush die s
  | .assayerCombination die => Sys2Proof.Machine.execAssayerCombination die s
  | .assayerCompletionPush die => Sys2Proof.Machine.execAssayerCompletionPush die s
  | .chctlRunStart id => Sys2Proof.Machine.execChctlRunStart id s
  | .chctlRunStop id => Sys2Proof.Machine.execChctlRunStop id s
  | .cmdhartStopped id => Sys2Proof.Machine.execCmdhartStopped id s
  | .queueEntryStart io q => Sys2Proof.Machine.execQueueEntryStart io q s
  | .copyChunk io q chunk => Sys2Proof.Machine.execCopyChunk io q chunk s
  | .queueEntryComplete io q => Sys2Proof.Machine.execQueueEntryComplete io q s
  | .qctlSkip io q => Sys2Proof.Machine.execQctlSkip io q s
  | .qctlFlush io q => Sys2Proof.Machine.execQctlFlush io q s
  | .extsrcAck core part => Sys2Proof.Machine.execExtsrcAck core part s
  | .semaphoreWrite n v => Sys2Proof.Machine.execSemaphoreWrite n v s
  | .hostWrite bar addr bytes => Sys2Proof.Machine.execHostWrite bar addr bytes s
  | .hostRead bar addr len => Sys2Proof.Machine.execHostRead bar addr len s
  | .hostAtomicop bar addr op width a b => Sys2Proof.Machine.execHostAtomicop bar addr op width a b s
  | .hostConfigWrite aopr cxlc => Sys2Proof.Machine.execHostConfigWrite aopr cxlc s
  | .hostLinkDown => Sys2Proof.Machine.execHostLinkDown s
  | .ownctlClaim master => Sys2Proof.Machine.execOwnctlClaim master s
  | .ownctlRelease master => Sys2Proof.Machine.execOwnctlRelease master s
  | .ownctlHand master target => Sys2Proof.Machine.execOwnctlHand master target s
  | .bmcMessage => Sys2Proof.Machine.execBmcMessage s
  | .bmcOwnerTimeout => Sys2Proof.Machine.execBmcOwnerTimeout s
  | .devpreRequest => Sys2Proof.Machine.execDevpreRequest s
  | .devpreResume => Sys2Proof.Machine.execDevpreResume s
  | .ckctlGo restore => Sys2Proof.Machine.execCkctlGo restore s
  | .checkpointChunk r => Sys2Proof.Machine.execCheckpointChunk r s
  | .powerWindow watts => Sys2Proof.Machine.execPowerWindow watts s
  | .junctionThrottle die => Sys2Proof.Machine.execJunctionThrottle die s
  | .junctionShutdown die => Sys2Proof.Machine.execJunctionShutdown die s
  | .flitResend lane => Sys2Proof.Machine.execFlitResend lane s
  | .laneRetrain port => Sys2Proof.Machine.execLaneRetrain port s
  | .fabricIdAssign a => Sys2Proof.Machine.execFabricIdAssign a s
  | .frameReceive f => Sys2Proof.Machine.execFrameReceive f s
  | .frameAnswer index a => Sys2Proof.Machine.execFrameAnswer index a s
  | .fabricUnreachable pkg => Sys2Proof.Machine.execFabricUnreachable pkg s
  | .collectiveComplete comm peers => Sys2Proof.Machine.execCollectiveComplete comm peers s
  | .podBarrierHomeArrival pkg hart barrier count => Sys2Proof.Machine.execPodBarrierHomeArrival pkg hart barrier count s
  | .podBarrierHomeWithdraw pkg hart barrier => Sys2Proof.Machine.execPodBarrierHomeWithdraw pkg hart barrier s
  | .podBarrierReply hart barrier r => Sys2Proof.Machine.execPodBarrierReply hart barrier r s
  | .podBarrierCompletion barrier phase => Sys2Proof.Machine.execPodBarrierCompletion barrier phase s
  | .podBarrierRetry hart barrier => Sys2Proof.Machine.execPodBarrierRetry hart barrier s
  | .registerWrite pa v => Sys2Proof.Machine.execRegisterWrite pa v s
  | .illegalEncoding why => Sys2Proof.Machine.execIllegalEncoding why s
  | .hostLinkUp cxl => Sys2Proof.Machine.execHostLinkUp cxl s
  | .portLinkTrained port width => Sys2Proof.Machine.execPortLinkTrained port width s
  | .sparingComplete u => Sys2Proof.Machine.execSparingComplete u s

end Sys2Proof.Machine
end

