-- ==== Sys2Proof/Machine/Schedule.lean ====
section
/-! DEFINITION. How the machine moves: fetching and running the current hart's instruction (spec/03_encoding.md R76 to R78,
R84, R85), a turn of a hart, the events of engines that are under way, and the schedule (log 3). `step` calls these. -/

namespace Sys2Proof.Machine

open Host (Outcome)

/-! Events -/

/-- Run an event by its meaning. -/
def runEvent (e : Event) (s : State) : Outcome State Fault Refusal :=
  match e with
  | .deviceReset => execDeviceReset s
  | .powerOnBoot signatureGood => execPowerOnBoot signatureGood s
  | .interruptTake hart stop => execInterruptTake hart stop s
  | .vaultLineWaitEnd hart => execVaultLineWaitEnd hart s
  | .landedWaitEnd hart => execLandedWaitEnd hart s
  | .rowReleaseWaitEnd hart => execRowReleaseWaitEnd hart s
  | .squareUpdateComplete hart => execSquareUpdateComplete hart s
  | .drainRowShift hart => execDrainRowShift hart s
  | .streamWindowStart hart slot => execStreamWindowStart hart slot s
  | .streamElementPerform hart slot => execStreamElementPerform hart slot s
  | .streamFaultStop hart slot => execStreamFaultStop hart slot s
  | .boundaryCommit hart => execBoundaryCommit hart s
  | .clusterZeroDone core cluster => execClusterZeroDone core cluster s
  | .dispatchPlace die => execDispatchPlace die s
  | .dispatchOffer die => execDispatchOffer die s
  | .barWaitEnd hart => execBarWaitEnd hart s
  | .vwaitReread hart => execVwaitReread hart s
  | .pauseExpire hart => execPauseExpire hart s
  | .wfiWake hart => execWfiWake hart s
  | .quadPacketServe p => execQuadPacketServe p s
  | .quadResponseArrive r => execQuadResponseArrive r s
  | .qbctlAbort quad bits => execQbctlAbort quad bits s
  | .qbctlAbortedClear quad bits => execQbctlAbortedClear quad bits s
  | .shootdownApply core => execShootdownApply core s
  | .watchdogForce core part => execWatchdogForce core part s
  | .migrationStart die => execMigrationStart die s
  | .migrationLineCopy die err => execMigrationLineCopy die err s
  | .errorDetect e => execErrorDetect e s
  | .scrubRead line found => execScrubRead line found s
  | .spareApply u => execSpareApply u s
  | .coreFailure core => execCoreFailure core s
  | .plctlStart die slot => execPlctlStart die slot s
  | .plctlStop die slot => execPlctlStop die slot s
  | .poolCoreJoin core => execPoolCoreJoin core s
  | .balancerInterval die slot => execBalancerInterval die slot s
  | .pipelineStopComplete die slot => execPipelineStopComplete die slot s
  | .avenueWaitEnd hart => execAvenueWaitEnd hart s
  | .pldlAck die slot bits => execPldlAck die slot bits s
  | .assayerDerivPop die => execAssayerDerivPop die s
  | .assayerRequestPush die => execAssayerRequestPush die s
  | .assayerCombination die => execAssayerCombination die s
  | .assayerCompletionPush die => execAssayerCompletionPush die s
  | .chctlRunStart id => execChctlRunStart id s
  | .chctlRunStop id => execChctlRunStop id s
  | .cmdhartStopped id => execCmdhartStopped id s
  | .queueEntryStart io q => execQueueEntryStart io q s
  | .copyChunk io q chunk => execCopyChunk io q chunk s
  | .queueEntryComplete io q => execQueueEntryComplete io q s
  | .qctlSkip io q => execQctlSkip io q s
  | .qctlFlush io q => execQctlFlush io q s
  | .extsrcAck core part => execExtsrcAck core part s
  | .semaphoreWrite n v => execSemaphoreWrite n v s
  | .hostWrite bar addr bytes => execHostWrite bar addr bytes s
  | .hostRead bar addr len => execHostRead bar addr len s
  | .hostAtomicop bar addr op width a b => execHostAtomicop bar addr op width a b s
  | .hostConfigWrite aopr cxlc => execHostConfigWrite aopr cxlc s
  | .hostLinkDown => execHostLinkDown s
  | .ownctlClaim master => execOwnctlClaim master s
  | .ownctlRelease master => execOwnctlRelease master s
  | .ownctlHand master target => execOwnctlHand master target s
  | .bmcMessage => execBmcMessage s
  | .bmcOwnerTimeout => execBmcOwnerTimeout s
  | .devpreRequest => execDevpreRequest s
  | .devpreResume => execDevpreResume s
  | .ckctlGo restore => execCkctlGo restore s
  | .checkpointChunk r => execCheckpointChunk r s
  | .powerWindow watts => execPowerWindow watts s
  | .junctionThrottle die => execJunctionThrottle die s
  | .junctionShutdown die => execJunctionShutdown die s
  | .flitResend lane => execFlitResend lane s
  | .laneRetrain port => execLaneRetrain port s
  | .fabricIdAssign a => execFabricIdAssign a s
  | .frameReceive f => execFrameReceive f s
  | .frameAnswer index a => execFrameAnswer index a s
  | .fabricUnreachable pkg => execFabricUnreachable pkg s
  | .collectiveComplete comm peers => execCollectiveComplete comm peers s
  | .podBarrierHomeArrival pkg hart barrier count => execPodBarrierHomeArrival pkg hart barrier count s
  | .podBarrierHomeWithdraw pkg hart barrier => execPodBarrierHomeWithdraw pkg hart barrier s
  | .podBarrierReply hart barrier r => execPodBarrierReply hart barrier r s
  | .podBarrierCompletion barrier phase => execPodBarrierCompletion barrier phase s
  | .podBarrierRetry hart barrier => execPodBarrierRetry hart barrier s
  | .registerWrite pa v => execRegisterWrite pa v s
  | .illegalEncoding why => execIllegalEncoding why s
  | .hostLinkUp cxl => execHostLinkUp cxl s
  | .portLinkTrained port width => execPortLinkTrained port width s
  | .sparingComplete u => execSparingComplete u s

/-! Fetch -/

/-- Fetch the parcel at a virtual address for the current hart (R78). -/
def fetchParcel (s : State) (va : Word) : Eff (State × Nat) := do
  let p ← hartPa s va .fetch 4
  readReady p.1 p.2
  let v ← readAt p.1 p.2 4
  .ok (p.1, v)

/-- `n` parcels from an address on. DEDUCED: the lowest parcel that cannot be fetched gives the cause, be it IFAULT or the POISON
of its line (R78, log 99). -/
def fetchParcels (s : State) : Nat → Word → Eff (State × List Nat)
  | 0, _ => .ok (s, [])
  | n + 1, va => do
    let p ← fetchParcel s va
    let r ← fetchParcels p.1 n (va + 4)
    .ok (r.1, p.2 :: r.2)

/-- The parcels of the instruction at the current hart's pc: the first fixes how many follow (R76). -/
def fetchInstr (s : State) : Eff (State × List Nat) := do
  let p ← fetchParcel s s.hart.pc
  let r ← fetchParcels p.1 (parcelCount p.2 - 1) (s.hart.pc + 4)
  .ok (r.1, p.2 :: r.2)

/-! Running an instruction -/

/-- Run what was decoded; what is no instruction raises ILLEGAL (R84). -/
def runDecoded (ps : List Nat) (r : Except Reject Instr) (s : State) : Outcome State Fault Refusal :=
  match r with
  | .ok i => exec i s
  | .error _ => execIllegalEncoding (.encoding (illegalBits ps)) s

/-- Run the instruction that parcels encode. -/
noncomputable def runParcels (ps : List Nat) (s : State) : Outcome State Fault Refusal := runDecoded ps (decodeParcels ps) s

/-- Run an engine instruction whose operands pass, else raise ILLEGAL. -/
def engineRun (ps : List Nat) (ok : Bool) (r : State → Outcome State Fault Refusal) (s : State) :
    Outcome State Fault Refusal :=
  if ok then r s else execIllegalEncoding (.encoding (illegalBits ps)) s

/-- Run a word of an engine major without building the instruction: the compiled form of `runParcels` for those majors. -/
def runEngine (ps : List Nat) (major func : Nat) (o : ExOp) (s : State) : Outcome State Fault Refusal :=
  match major, func with
  | 59, 0 => engineRun ps (avOk true o) (execAvpush o) s
  | 59, 1 => engineRun ps (avOk true o) (execAvpop o) s
  | 59, 2 => engineRun ps (avOk true o) (execAvpushTry o) s
  | 59, 3 => engineRun ps (avOk true o) (execAvpopTry o) s
  | 59, 4 => engineRun ps (avOk false o) (execAvstat o) s
  | 59, 5 => engineRun ps (avOk false o) (execAvstamp o) s
  | 60, 0 => engineRun ps (avOk true o && decide (o.sb = 0) && decide (o.imm.toNat ≤ 3)) (execAsmeth o) s
  | 60, 1 => engineRun ps (asRangeOk o) (execAssamp o) s
  | 60, 2 => engineRun ps (asRangeOk o) (execAsstart o) s
  | 60, 3 => engineRun ps (asRangeOk o) (execAsdrain o) s
  | 60, 4 => engineRun ps (avOk false o) (execAsabort o) s
  | 60, 5 => engineRun ps (avOk false o) (execAsstat o) s
  | 61, 8 => engineRun ps (collOk false o) (execCollAgat o) s
  | 61, 24 => engineRun ps (collOk false o) (execCollBcast o) s
  | 61, 32 => engineRun ps (collOk false o && decide (o.sc = 0) && decide (o.sb = 0) && decide (o.imm = 0)) (execCollWait o) s
  | 61, k =>
    match collOpOfCode (k % 8), k / 8 with
    | some op, 0 => engineRun ps (collOk true o) (execCollAred op o) s
    | some op, 2 => engineRun ps (collOk true o) (execCollRsct op o) s
    | _, _ => execIllegalEncoding (.encoding (illegalBits ps)) s
  | _, _ => execIllegalEncoding (.encoding (illegalBits ps)) s

/-- Run a two-parcel word. -/
def runWord (ps : List Nat) (w : Nat) (s : State) : Outcome State Fault Refusal :=
  if w / pow2 26 % 64 ≤ 0x3A then runDecoded ps (decodeVector w) s
  else runEngine ps (w / pow2 26 % 64) (w / 32 % 64) (exopOf w) s

/-- The compiled form of `runParcels`. -/
def runParcelsFast (ps : List Nat) (s : State) : Outcome State Fault Refusal :=
  match ps with
  | [] => runDecoded ps (.error .tooShort) s
  | p :: r =>
    if r.length + 1 < parcelCount p then runDecoded ps (.error .tooShort) s
    else if majorOf p < 0x30 then runDecoded ps (decode32 p) s
    else if majorOf p = 0x30 then runDecoded ps (decodeConvoy p (pairWords (r.take (parcelCount p - 1)))) s
    else
      match r with
      | q :: _ => runWord ps (p + q * pow2 32) s
      | [] => runDecoded ps (.error .tooShort) s

/-! The compiled form agrees -/

/-- Checking an instruction and running it. -/
theorem runDecoded_checked (ps : List Nat) (i : Instr) (s : State) :
    runDecoded ps (checked (some i)) s = engineRun ps i.wf (exec i) s := by
  unfold engineRun checked
  cases h : i.wf <;> simp [h, runDecoded]

/-- An engine word's instruction, checked and run, is what `runEngine` runs. -/
theorem runEngine_eq (ps : List Nat) (major func : Nat) (o : ExOp) (s : State) :
    runDecoded ps (checked (engOf major func o)) s = runEngine ps major func o s := by
  unfold engOf
  split <;> first | exact runDecoded_checked _ _ _ | skip
  · rename_i k h1 h2 h3
    rw [runEngine]
    · split
      · next op _ _ e1 e2 => try simp only [e1, e2]
                             exact runDecoded_checked _ _ _
      · next op _ _ e1 e2 => try simp only [e1, e2]
                             exact runDecoded_checked _ _ _
      · next h4 h5 =>
        first
          | rfl
          | (split
             · next op e1 e2 => exact absurd e2 (h4 op e1)
             · next op e1 e2 => exact absurd e2 (h5 op e1)
             · rfl)
    all_goals assumption
  · rw [runEngine]
    · rfl
    all_goals assumption

/-- A two-parcel word. -/
theorem runWord_eq (ps : List Nat) (w : Nat) (s : State) : runDecoded ps (decode64 w) s = runWord ps w s := by
  unfold runWord decode64 decodeVector fields64
  by_cases h : w / pow2 26 % 64 ≤ 0x3A
  · simp only [h, if_true]
  · have h0 : ¬ w / pow2 26 % 64 ≤ 0x30 := by omega
    simp only [h, h0, if_false]
    exact runEngine_eq ps _ _ _ s

@[csimp] theorem runParcels_eq : @runParcels = @runParcelsFast := by
  funext ps s
  unfold runParcels runParcelsFast decodeParcels
  cases ps with
  | nil => rfl
  | cons p r =>
    dsimp only
    split
    · rfl
    split
    · rfl
    split
    · rfl
    cases r with
    | nil => rfl
    | cons q r => exact runWord_eq _ _ s

/-- The current hart's instruction, from its fetch on (R78, R305); it is executed again after a wait. -/
def instrTurn (s : State) : Outcome State Fault Refusal :=
  let s := s.putHart { s.hart with hold := .none }
  match fetchInstr s with
  | .error e => finish (.error e)
  | .ok p => runParcels p.2 (noteStarted p.1 p.1.cur)

/-! A turn of a hart -/

/-- A running hart's turn: its instruction, or the end of its wait. -/
def holdTurn (s : State) : Outcome State Fault Refusal :=
  match s.hart.hold with
  | .none => instrTurn s
  | .retry => instrTurn s
  | .pause => execPauseExpire s.cur s
  | .wfi => execWfiWake s.cur s
  | .line _ _ _ => execVaultLineWaitEnd s.cur s
  | .landed _ _ _ => execLandedWaitEnd s.cur s
  | .rows _ => execRowReleaseWaitEnd s.cur s
  | .bar _ _ _ => execBarWaitEnd s.cur s
  | .vwait _ _ _ _ _ => execVwaitReread s.cur s
  | .avenue _ _ _ _ => execAvenueWaitEnd s.cur s
  | .boundary _ => execBoundaryCommit s.cur s
  | .xlinv => if s.hart.xlinvWait then .next s else instrTurn s
  | .qpoint => if shootPending s s.cur then .next s else instrTurn s
  | .enqueue _ _ _ _ => execEnqueueWait s
  | .exchange target group bytes offs =>
    .next (exchangeLost (endExchange (s.putHart { s.hart with hold := .none })) s.cur target group bytes offs)

/-- A hart has power: a compute hart has none after a junction shutdown (R417). -/
def hartPowered (s : State) (h : Nat) : Bool := isCommand h || decide (s.pkg.power = .on)

/-- What the current hart does with its turn: a command hart that is asked to stop does so between instructions (R395), a
forced partition waits for its core to apply its queue (R310), and a pending interrupt that R41 allows comes before the
next instruction. -/
def hartTurn (s : State) : Outcome State Fault Refusal :=
  let x := s.hart
  if hartPowered s s.cur = false ∨ x.run = .halted then .next s
  else if x.stopReq = true ∧ isCommand s.cur = true then execCmdhartStopped (s.cur - 4096) s
  else if x.forced = true ∧ (shootQueue s (coreOf s.cur)).isEmpty = false then .next s
  else if x.run = .running ∧ x.stopAt.isSome = true then holdTurn s
  else if (irqNext s s.cur).isSome = true then execInterruptTake s.cur none s
  else if x.run = .running then holdTurn s
  else .next s

/-! Engines under way -/

/-- Events on harts: updates, drains, and a command hart's stop. -/
def hartEvents (s : State) : List Event :=
  (s.harts.map (fun p =>
    (if p.2.updBusy = 0 then [] else [Event.squareUpdateComplete p.1])
      ++ (if p.2.drainBusy = 0 then [] else [Event.drainRowShift p.1]))).flatten

/-- Events of cores: zeroing, queued removals and their watchdog. -/
def coreEvents (s : State) : List Event :=
  (s.cores.zeroing.map (fun p => (clustersOf p.2).map (fun k => Event.clusterZeroDone p.1 k))).flatten
    ++ (s.cores.shootQ.map (fun p =>
      (if watchdogDue s p.1 then (List.range 8).map (fun k => Event.watchdogForce p.1 k) else [])
        ++ [Event.shootdownApply p.1])).flatten

/-- Events of streams: the RUNNING slots. -/
def slotEvents (s : State) : List Event :=
  (s.slots.map (fun p =>
    if p.2.state = .running then
      [Event.streamWindowStart (p.1 / 16) (p.1 % 16), Event.streamElementPerform (p.1 / 16) (p.1 % 16),
        Event.streamFaultStop (p.1 / 16) (p.1 % 16)]
    else [])).flatten

/-- Events of a pipeline: its pool cores, and its stop. -/
def pipeEvents (key : Nat) (p : Pipe) : List Event :=
  let d := key / 8
  if p.state = 1 ∨ p.state = 2 then
    p.pool.map (fun q => Event.poolCoreJoin (64 * d + q.1))
      ++ (if p.state = 2 then [Event.pipelineStopComplete d (key % 8)] else [])
  else []

/-- Events of a die: its dispatcher, migrations and Assayer. -/
def dieEvents (s : State) (d : Nat) : List Event :=
  (if (readyTasks s d).isEmpty then [] else [Event.dispatchPlace d, Event.dispatchOffer d])
    ++ (if (migsOf s d).isEmpty then [] else [Event.migrationStart d, Event.migrationLineCopy d .none])
    ++ (if assayerAt s d = Assayer.reset then []
        else [Event.assayerDerivPop d, Event.assayerRequestPush d, Event.assayerCombination d, Event.assayerCompletionPush d])

/-- The next chunk of a queue's copy. -/
def nextChunk (x : Queue) : Nat :=
  ((List.range (x.chunks.length + 1)).find? (fun n => !chunkDone x n)).getD 0

/-- Events of a command queue. -/
def queueEvents (key : Nat) (x : Queue) : List Event :=
  let io := key / 12
  let q := key % 12
  if x.entries = [] then []
  else [Event.queueEntryStart io q] ++ (if copyRuns x then [Event.copyChunk io q (nextChunk x)] else [])
    ++ [Event.queueEntryComplete io q]

/-- Pod-barrier frames that were refused (R432). -/
def retryEvents (s : State) : List Event :=
  (s.pkg.held.filter (fun x => x.refused && decide (x.frame.kind = 6))).map
    (fun x => Event.podBarrierRetry (seqHart x.frame.seq) x.frame.comm)

/-- The events that engines under way can bring about next; those of compute dies need their power (R417). An event that is
not due has no effect. -/
def enabledEvents (s : State) : List Event :=
  (if s.pkg.power = .on then
    hartEvents s ++ coreEvents s ++ slotEvents s ++ (s.dies.pipes.map (fun p => pipeEvents p.1 p.2)).flatten
      ++ ((List.range 8).map (dieEvents s)).flatten ++ s.dies.sparing.map sparingEvent
  else [])
    ++ (s.pkg.queues.map (fun p => queueEvents p.1 p.2)).flatten ++ retryEvents s

/-! The schedule -/

/-- A hart that cannot use a turn at once. -/
def hartWaits (s : State) (h : Nat) : Bool := !decide ((s.hartAt h).hold = .none) || !decide ((s.hartAt h).run = .running)

/-- A hart that a turn may go to. -/
def takesTurn (s : State) (h : Nat) : Bool :=
  hartPowered s h && (decide ((s.hartAt h).run = .running) || (irqNext s h).isSome)

/-- The first of the `n` harts from `h` on, in cyclic order, that a turn may go to; `h0` if there is none. -/
def nextHart (s : State) (h0 : Nat) : Nat → Nat → Nat
  | 0, _ => h0
  | n + 1, h => if takesTurn s (h % 4104) then h % 4104 else nextHart s h0 n (h + 1)

/-- The hart of the next turn: the schedule's, else the current one until it waits (log 3). -/
def chooseHart (s : State) : State :=
  match s.turns with
  | h :: r => { s with cur := h, turns := r }
  | [] => if hartWaits s s.cur then { s with cur := nextHart s s.cur 4104 (s.cur + 1) } else s

/-- After hart `h` has had its turn: a requested stop is given up, device pre-emption may be complete (R413), and engines
go on while the hart waits and every eighth step. -/
def afterTurn (h : Nat) (stopped : Bool) (s : State) : State :=
  let s := if stopped then s.setHart h { s.hartAt h with stopAt := none } else s
  let s := devSettle s
  let s := if hartWaits s h || decide (s.tick % 8 = 0) then { s with agenda := s.agenda ++ enabledEvents s } else s
  chooseHart s

/-- A turn of the current hart, with what follows it. -/
def turnStep (s : State) : Outcome State Fault Refusal :=
  match hartTurn s with
  | .next t => .next (afterTurn s.cur s.hart.stopAt.isSome t)
  | .fault x => .fault x
  | .refused x => .refused x

/-! Clocks -/

/-- The clocks of dies 0 to 7 and of the I/O dies advance by amounts the spec leaves open (log 4). -/
def advanceClock (s : State) : Sparse Nat :=
  (List.range 10).foldl (fun m d => sput m d (sget 0 m d + Config.stepCycles s.tick d)) s.clock

/-- For each RUNNING pipeline an interval for every multiple of 2^IVLOG that its die's clock has reached or passed (R343). -/
def dueBalancers (s : State) (clock : Sparse Nat) : List Event :=
  (s.dies.pipes.map (fun p =>
    let d := p.1 / 8
    let iv := pow2 p.2.ivlog
    if p.2.state = 1 then List.replicate (sget 0 clock d / iv - sget 0 s.clock d / iv) (Event.balancerInterval d (p.1 % 8))
    else [])).flatten

/-- The passing of a step. -/
def tickState (s : State) : State :=
  let clock := advanceClock s
  { s with tick := s.tick + 1, clock := clock, agenda := s.agenda ++ dueBalancers s clock }

/-! Placing an instruction -/

/-- The physical address that the current hart fetches from. -/
def fetchPa (s : State) : Nat :=
  match hartPa s s.hart.pc .fetch 4 with
  | .ok p => p.2
  | .error _ => s.hart.pc.toNat

/-- The state with the bytes of an opcode-table word where the current hart fetches next, the hart free to run it. -/
def placeTableWord (s : State) (nbits w : Nat) : State :=
  let s := { s with agenda := [], pkg := { s.pkg with power := .on } }
  let s := s.putHart { s.hart with
    run := .running
    hold := .none
    stopAt := none
    stopReq := false
    forced := false
    begun := none
    kept := 0 }
  let pa := fetchPa s
  setMarkAt (setMarkAt (pokeBytes s pa (tableBytes nbits w)) pa false) (pa + 59) false

end Sys2Proof.Machine
end

