-- ==== Sys2Proof/Machine/Step.lean ====
section
/-! DEFINITION. One step of the machine: the first event of the agenda, else a turn of the current hart (log 3). -/

namespace Sys2Proof.Machine

open Host (Outcome)

/-- The first event of the agenda, else a turn of the current hart. -/
def stepFrom (s : State) : Outcome State Fault Refusal :=
  match s.agenda with
  | e :: r => runEvent e { s with agenda := r }
  | [] => if s.pkg.power = .heldInReset then .fault .heldInReset else turnStep s

/-- One step of the machine. -/
def step (s : State) : Outcome State Fault Refusal := stepFrom (tickState s)

/-- The state with an instruction, given as the opcode table numbers its bits, where the next step fetches (log 2). -/
def State.withFetchWord (s : State) (nbits w : Nat) : State := placeTableWord s nbits w

end Sys2Proof.Machine
end

