-- ==== Sys2Proof/Safety.lean ====
section
/-! DEFINITION. What statements say of a step: the canonical memories, the invariant of a run, and the frames of an
instruction, that is, what it leaves alone. -/

namespace Sys2Proof.Machine

open Host (Outcome)

/-! The invariant -/

/-- Every memory is in its canonical form. -/
def State.memoriesWf (s : State) : Bool := Memory.wf s.mem && Memory.wf s.hostMem && Memory.wf s.vault

/-- A hart of the package: 4096 compute harts and 8 command harts (R1, R393). -/
def hartExists (h : Nat) : Bool := decide (h < 4104)

/-- Turns go to harts of the package. -/
def State.scheduleWf (s : State) : Bool := hartExists s.cur && s.turns.all hartExists

/-- What every step keeps. -/
def State.Inv (s : State) : Prop := s.memoriesWf = true ∧ s.scheduleWf = true

/-! Frames -/

/-- Only the current hart changed. The memories, as bytes read, are part of what stays. -/
structure OnlyHart (s t : State) : Prop where
  world : { t with harts := s.harts } = s
  others : ∀ h, h ≠ s.cur → t.hartAt h = s.hartAt h
  bytes : ∀ a, peekByte t a = peekByte s a

/-- Of the current hart only the pc and scalar registers may have changed. -/
def OnlyScalars (s t : State) : Prop :=
  OnlyHart s t ∧ { t.hart with pc := s.hart.pc, sregs := s.hart.sregs } = s.hart

/-- Of the current hart only the pc, the floating-point registers and the sticky flags may have changed. -/
def OnlyFloats (s t : State) : Prop :=
  OnlyHart s t ∧ { t.hart with pc := s.hart.pc, fregs := s.hart.fregs, conf := s.hart.conf } = s.hart
    ∧ { t.hart.conf with fmode := s.hart.conf.fmode } = s.hart.conf

/-- Scalar registers read as before, but for `rd`, which reads `v`; `s0` reads zero (R18). -/
def ScalarIs (s t : State) (rd : SReg) (v : Word) : Prop := ∀ r, t.rS r = if r = rd ∧ ¬ r = 0 then v else s.rS r

/-- One parcel that the decoder reads as an instruction. -/
def Reads (w : Nat) (i : Instr) : Prop := decodeParcels [w] = .ok i

/-- One parcel that is no instruction. -/
def NoInstr (w : Nat) : Prop := ∃ r, decodeParcels [w] = .error r

/-- The parcel of format A with its fields (R79). -/
def wordA (major : Nat) (rd ra rb : SReg) (func : Nat) : Nat :=
  major * 2 ^ 26 + rd.toNat * 2 ^ 21 + ra.toNat * 2 ^ 16 + rb.toNat * 2 ^ 11 + func

/-- The parcel of format I, and of format B with its two registers, with its fields (R79). -/
def wordI (major : Nat) (ra rb : SReg) (imm : Nat) : Nat := major * 2 ^ 26 + ra.toNat * 2 ^ 21 + rb.toNat * 2 ^ 16 + imm

/-- The instruction completes: `rd` takes `v`, the pc advances by 4, and nothing else changes. -/
def Puts (i : Instr) (s : State) (rd : SReg) (v : Word) : Prop :=
  ∃ t, exec i s = .next t ∧ t.hart.pc = s.hart.pc + 4 ∧ ScalarIs s t rd v ∧ OnlyScalars s t

/-- The pc advances by 4 and floating-point register `rd` takes the low bits `b` with zeros above (R19); flags `f` become
sticky (R36). -/
def FloatIs (s t : State) (rd : SReg) (b : Nat) (f : Flags) : Prop :=
  t.hart.pc = s.hart.pc + 4 ∧ (∀ r, t.rF r = if r = rd then wordOf b else s.rF r)
    ∧ t.hart.conf.fmode = s.hart.conf.fmode ||| (f.zeroExtend 16 <<< 4) ∧ OnlyFloats s t

/-- A scalar floating-point instruction that raises flags `f`: it completes when none of them is enabled to trap, and else
takes FPX with the highest-numbered enabled flag, its flags set and no register written (R36). -/
def FloatPuts (i : Instr) (s : State) (rd : SReg) (b : Nat) (f : Flags) : Prop :=
  (s.hart.trapping f = 0 → ∃ t, exec i s = .next t ∧ FloatIs s t rd b f)
  ∧ (¬ s.hart.trapping f = 0 →
      exec i s = .next (takeTrap (s.putHart (s.hart.setFlags f)) ⟨0x08, topFlag (s.hart.trapping f), 0⟩))

/-- The same for a floating-point instruction whose result is a scalar register. -/
def FlagPuts (i : Instr) (s : State) (rd : SReg) (v : Word) (f : Flags) : Prop :=
  (s.hart.trapping f = 0 → ∃ t, exec i s = .next t ∧ t.hart.pc = s.hart.pc + 4 ∧ ScalarIs s t rd v
      ∧ OnlyScalars (s.putHart (s.hart.setFlags f)) t)
  ∧ (¬ s.hart.trapping f = 0 →
      exec i s = .next (takeTrap (s.putHart (s.hart.setFlags f)) ⟨0x08, topFlag (s.hart.trapping f), 0⟩))

/-- The instruction completes with effect `u`: the pc advances by 4, `rd` takes `v`, and nothing else changes beside
`u`. -/
def Completes (i : Instr) (s u : State) (rd : SReg) (v : Word) : Prop :=
  ∃ t, exec i s = .next t ∧ t.hart.pc = s.hart.pc + 4 ∧ ScalarIs u t rd v ∧ OnlyScalars u t

/-- The instruction completes with effect `u` and no destination register. -/
def Advances (i : Instr) (s u : State) : Prop :=
  ∃ t, exec i s = .next t ∧ t.hart = { u.hart with pc := s.hart.pc + 4 } ∧ OnlyHart u t

/-- The current hart waits at its pc, nothing else having changed beside `u`. -/
def WaitsAt (i : Instr) (s u : State) (w : Hold) : Prop :=
  ∃ t, exec i s = .next t ∧ t.hart = { u.hart with hold := w } ∧ OnlyHart u t

/-- The instruction completes: the pc becomes `pc`, and nothing else changes. -/
def Jumps (i : Instr) (s : State) (pc : Word) : Prop :=
  ∃ t, exec i s = .next t ∧ t.hart = { s.hart with pc := pc } ∧ OnlyHart s t

/-! Accesses to memory -/

/-- Only translation caches changed. -/
def OnlyCaches (s t : State) : Prop := { t with cores := { t.cores with tlb := s.cores.tlb } } = s

/-- After a load: the pc advances by 4, `rd` takes `v`, and beside the hart only translation caches changed. -/
def Loaded (s t : State) (rd : SReg) (v : Word) : Prop :=
  ∃ u, OnlyCaches s u ∧ t.hart.pc = s.hart.pc + 4 ∧ ScalarIs s t rd v ∧ OnlyScalars u t

/-- Where a store of `n` bytes of `v` goes: HBM, or the Vault of a core; other storage is not meant here. -/
inductive HeldPlace where
  | hbm (pa : Nat)
  | vault (core off : Nat)
  deriving DecidableEq, Repr

/-- The place that `n` bytes at a physical address lie in, if they lie in one die's HBM or one Vault line. -/
def heldPlace (pa n : Nat) : Option HeldPlace :=
  match regionOf pa with
  | .hbm _ => if inHbm pa n then some (.hbm pa) else none
  | .vault c o => if o % 128 + n ≤ 128 then some (.vault c o) else none
  | _ => none

/-- Bytes of HBM, read by `m` before, after a store of `n` bytes of `v` at a place. -/
def HeldPlace.hbmPut (p : HeldPlace) (n v : Nat) (m : Nat → Byte) (a : Nat) : Byte :=
  match p with
  | .hbm pa => if pa ≤ a ∧ a < pa + n then BitVec.ofNat 8 (v / 2 ^ (8 * (a - pa))) else m a
  | .vault _ _ => m a

/-- The place holds byte `o` of a core's Vault among its `n` bytes. -/
def HeldPlace.covers (p : HeldPlace) (n c o : Nat) : Bool :=
  match p with
  | .hbm _ => false
  | .vault d q => decide (d = c) && decide (q ≤ o) && decide (o < q + n)

/-- Bytes of the Vaults, read by `m` before, after a store of `n` bytes of `v` at a place. -/
def HeldPlace.vaultPut (p : HeldPlace) (n v : Nat) (m : Nat → Nat → Byte) (c o : Nat) : Byte :=
  match p with
  | .hbm _ => m c o
  | .vault _ q => if p.covers n c o then BitVec.ofNat 8 (v / 2 ^ (8 * (o - q))) else m c o

/-- Byte of HBM after a store at a place. -/
def HeldPlace.hbmByte (p : HeldPlace) (n v : Nat) (s : State) (a : Nat) : Byte := p.hbmPut n v (memByte s) a

/-- Byte of a Vault after a store at a place. -/
def HeldPlace.vaultByte (p : HeldPlace) (n v : Nat) (s : State) (c o : Nat) : Byte :=
  p.vaultPut n v (Machine.vaultByte s) c o

/-- A Vault line is empty after a store at a place: the store fills its line (R217). -/
def HeldPlace.empty (p : HeldPlace) (n : Nat) (s : State) (c o : Nat) : Bool :=
  match p with
  | .hbm _ => lineEmpty s c o
  | .vault d q => lineEmpty s c o && !(decide (0 < n) && decide (d = c) && decide (q / 128 = o / 128))

/-- What a store of `n` bytes of `v` at place `p` leaves: the bytes stored, the line full, and all else as in `s`, but for
harts and translation caches. -/
structure StoredAt (p : HeldPlace) (n v : Nat) (s t : State) : Prop where
  hbm : ∀ a, memByte t a = p.hbmByte n v s a
  vault : ∀ c o, c < 512 → o < 2 ^ 24 → Machine.vaultByte t c o = p.vaultByte n v s c o
  empty : ∀ c o, c < 512 → o < 2 ^ 24 → lineEmpty t c o = p.empty n s c o
  world : { t with
    harts := s.harts
    mem := s.mem
    vault := s.vault
    marks := { t.marks with empty := s.marks.empty }
    cores := { t.cores with tlb := s.cores.tlb } } = s
  others : ∀ h, h ≠ s.cur → t.hartAt h = s.hartAt h

/-- After a scalar store: the pc advances by 4 and the bytes stand at the place. -/
def Stored (p : HeldPlace) (n v : Nat) (s t : State) : Prop := t.hart = { s.hart with pc := s.hart.pc + 4 } ∧ StoredAt p n v s t

/-- The value that `amo` stores, on w-bit values (R125). -/
def amoSpec (op : AmoOp) (w old b : Nat) : Nat :=
  let si := fun x => (BitVec.ofNat w x).toInt
  match op with
  | .add => (old + b) % 2 ^ w
  | .swap => b
  | .and => old &&& b
  | .or => old ||| b
  | .xor => old ^^^ b
  | .min => if si b < si old then b else old
  | .max => if si old < si b then b else old
  | .minu => if b < old then b else old
  | .maxu => if old < b then b else old

/-- After an atomic: `rd` takes `old`, CEFF is set, the pc advances by 4, and `v` stands at the place. -/
def Atomic (p : HeldPlace) (n v : Nat) (rd : SReg) (old : Word) (s t : State) : Prop :=
  t.hart.pc = s.hart.pc + 4 ∧ ScalarIs s t rd old ∧ t.hart.stat.ceff = true
    ∧ { t.hart with pc := s.hart.pc, sregs := s.hart.sregs, stat := { t.hart.stat with ceff := s.hart.stat.ceff } } = s.hart
    ∧ StoredAt p n v s t

/-! Traps -/

/-- The hart after trap entry to S (R42): what is saved, the new status, the handler's address; the M set stays. -/
def EnteredS (x y : Hart) (int : Bool) (code sub : Nat) (val : Word) : Prop :=
  y = { x with
    pc := x.strap.vec
    level := .s
    conf := { x.conf with vsi := 0 }
    stat := { x.stat with spie := x.stat.sie, sie := false, spp := decide (x.level = .s), snest := true }
    strap := { x.strap with
      cause := BitVec.ofNat 64 ((if int then 2 ^ 63 else 0) + sub * 256 + code)
      val := val
      pc := x.pc
      vsi := x.conf.vsi }
    hold := .none
    begun := none
    kept := 0
    stopAt := none }

/-- The hart after trap entry to M (R42). -/
def EnteredM (x y : Hart) (int : Bool) (code sub : Nat) (val : Word) : Prop :=
  y = { x with
    pc := x.mtrap.vec
    level := .m
    conf := { x.conf with vsi := 0 }
    stat := { x.stat with mpie := x.stat.mie, mie := false, mpp := x.level, mnest := true }
    mtrap := { x.mtrap with
      cause := BitVec.ofNat 64 ((if int then 2 ^ 63 else 0) + sub * 256 + code)
      val := val
      pc := x.pc
      vsi := x.conf.vsi }
    hold := .none
    parked := x.parked.map (fun n => n + 1)
    begun := none
    kept := 0
    stopAt := none }

/-- The level of a synchronous trap (R41). -/
def syncLevel (x : Hart) (code : Nat) : Level :=
  match x.level with
  | .u => .s
  | .s => if code = 0x09 ∨ x.stat.snest = true then .m else .s
  | .m => .m

/-- A synchronous trap at `s` leaves `t`: entry at the level of R41, and nothing but the current hart changes. -/
def TrapTaken (s t : State) (code sub : Nat) (val : Word) : Prop :=
  OnlyHart s t ∧ (if syncLevel s.hart code = .m then EnteredM s.hart t.hart false code sub val
    else EnteredS s.hart t.hart false code sub val)

/-! Leases -/

/-- MIN and PREF of the task that the current hart runs; without one it keeps its count (log 13). -/
def leaseWants (s : State) : Nat × Nat :=
  match s.hart.task with
  | some k => ((taskAt s (dieOf s.cur) k).min, (taskAt s (dieOf s.cur) k).pref)
  | none => (0, grantCount s.hart.grant)

/-- Cluster `p` of a core is free (R270, R273, R321): no hart's, not being zeroed, and in use. -/
def clusterFree (s : State) (core p : Nat) : Bool :=
  (List.range 8).all (fun q => !(s.hartAt (8 * core + q)).grant.getLsbD p)
    && !(zeroing s core).getLsbD p && !(badClusters s core).getLsbD p && !sparingPending s (.cluster core p)

/-- `plan` of R271: of the current hart's clusters the leading ones that PART allows, up to `pref`, and above them the lowest free
ones that it allows. -/
def planned (s : State) (pref : Nat) : List Nat :=
  let core := coreOf s.cur
  let part := fun (p : Nat) => (lpartOf s core).getLsbD (8 * (s.cur % 8) + p)
  let head := ((clustersOf s.hart.grant).takeWhile part).take pref
  head ++ ((List.range 8).filter fun p => clusterFree s core p && part p && head.all fun q => decide (q < p)).take (pref - head.length)

/-- BCUR of the running task and PHW of its producer, when it is bound (R275, R281). -/
def boundCounts (s : State) : Option (Nat × Nat) :=
  let t := fun (k : Nat) => taskAt s (dieOf s.cur) k
  s.hart.task.bind fun k => (t k).producer.map fun p => ((t k).bcur.toNat, (t p).phw.toNat)

/-- The length that a boundary with `n` elements left grants (R271, R275), or none while it waits. -/
def lengthGranted (s : State) (n : Nat) : Option Nat :=
  let keep := planned s (leaseWants s).2
  let l := min n (1024 * keep.length / s.ew)
  if keep = [] ∧ 1 ≤ (leaseWants s).1 then none
  else if n = 0 ∨ l = 0 then some 0
  else match boundCounts s with
    | none => some l
    | some (bcur, phw) => if phw ≤ bcur then none else some (min l (phw - bcur))

/-! Vector instructions -/

/-- A hart begins an execution: it goes on with none that a wait has interrupted, and its next packet meets no error. -/
structure Fresh (x : Hart) : Prop where
  begun : x.begun = none
  kept : x.kept = 0
  exch : x.exch = none

/-- Nothing turns a vector instruction away or makes it wait: a compute hart with clusters that begins an execution, every group
of its core landed and no cell marked, no row busy, no stop asked for, no flag enabled to trap, and `vl` within VLMAX. -/
structure VReady (s : State) : Prop where
  compute : isCommand s.cur = false
  leased : ¬ s.hart.grant = 0
  idle : s.hart.updBusy = 0 ∧ s.hart.drainBusy = 0
  unasked : s.hart.stopAt = none
  fresh : Fresh s.hart
  landed : ∀ row p, row < 48 → p < 8 → unlanded s (coreOf s.cur) row p = false
  clean : ∀ row col, row < 48 → col < 128 → cellMark s (coreOf s.cur) row col = false
  masked : s.hart.conf.fmode.toNat / 2 ^ 10 = 0
  short : s.vl ≤ 1024 * grantCount s.hart.grant / s.ew

/-- The elements that an execution performs (R26, R153). -/
def bodyActive (s : State) (mask : BitVec 4) (e : Nat) : Bool :=
  decide (s.vsi ≤ e) && decide (e < s.vl) && s.hart.active mask e

/-- The flags that the listed indices raise together. -/
def raisedBy (l : List Nat) (f : Nat → Flags) : Flags := l.foldl (fun acc e => acc ||| f e) 0

/-- After a vector instruction: the pc past its 8 bytes, `vsi` 0, flags `f` sticky; but for registers, `hwm` and cells
nothing else changed. -/
structure VDone (s t : State) (f : Flags) : Prop where
  hart : { t.hart with
      sregs := s.hart.sregs
      fregs := s.hart.fregs
      mregs := s.hart.mregs
      hwm := s.hart.hwm } =
    { s.hart with
      pc := s.hart.pc + 8
      conf := { s.hart.conf with vsi := 0, fmode := s.hart.conf.fmode ||| (f.zeroExtend 16 <<< 4) } }
  others : ∀ h, h ≠ s.cur → t.hartAt h = s.hartAt h
  marks : ∀ c r k, c < 512 → r < 48 → k < 128 → cellMark t c r k = cellMark s c r k
  world : { t with
    harts := s.harts
    cores := { t.cores with cells := s.cores.cells }
    marks := { t.marks with cell := s.marks.cell } } = s

/-- Scalar, floating-point and mask registers read as before. -/
def SameRegs (s t : State) : Prop :=
  (∀ r, t.rS r = s.rS r) ∧ (∀ r, t.rF r = s.rF r) ∧ ∀ k, t.hart.rM k = s.hart.rM k

/-- The elements of the listed rows, each row with its element width, read as `v` gives; every other cell is as before. -/
def RowsAre (s t : State) (rows : List (Nat × Nat)) (v : Nat → Nat → Nat) : Prop :=
  (∀ p ∈ rows, ∀ e, e < 1024 * grantCount s.hart.grant / p.2 → elemAt t p.1 p.2 e = v p.1 e)
  ∧ ∀ c r k, c < 512 → r < 48 → k < 128 →
      ¬ (c = coreOf s.cur ∧ (∃ p ∈ rows, p.1 = r) ∧ s.hart.grant.getLsbD (k / 16) = true) → cell t c r k = cell s c r k

/-- `hwm` after writes of the listed rows under extent `ext` (R34). -/
def hwmAfter (x : Hwm) (rows : List Nat) (ext : Nat) : Hwm :=
  match rows with
  | [] => x
  | _ => ⟨true, BitVec.ofNat 6 (rows.foldl max x.hreg.toNat), BitVec.ofNat 14 (max x.hvb.toNat ext)⟩

/-- The body elements performed, in order. -/
def performed (s : State) (mask : BitVec 4) : List Nat := (List.range s.vl).filter (bodyActive s mask)

/-- A vector instruction with one destination row of elements of width `ew`: each active body element `e` takes `v e`, with
the flags `f e`; the other elements, and everything else, stay. -/
def VectorPuts (i : Instr) (s : State) (vd : VReg) (ew : Nat) (mask : BitVec 4) (v : Nat → Nat × Flags) : Prop :=
  ∃ t, exec i s = .next t ∧ VDone s t (raisedBy (performed s mask) fun e => (v e).2) ∧ SameRegs s t
    ∧ RowsAre s t [(vd.toNat, ew)] (fun _ e => if bodyActive s mask e then (v e).1 % 2 ^ ew else elemAt s vd.toNat ew e)
    ∧ t.hart.hwm = hwmAfter s.hart.hwm ((performed s mask).map fun _ => vd.toNat) (s.vl * s.ew / 8)

/-- A mask instruction: bit `e` of mask register `md` takes `b e` for each active body element. -/
def MaskPuts (i : Instr) (s : State) (md : Nat) (mask : BitVec 4) (b : Nat → Bool × Flags) : Prop :=
  ∃ t, exec i s = .next t ∧ VDone s t (raisedBy (performed s mask) fun e => (b e).2) ∧ RowsAre s t [] (fun _ _ => 0)
    ∧ (∀ r, t.rS r = s.rS r) ∧ (∀ r, t.rF r = s.rF r) ∧ t.hart.hwm = s.hart.hwm
    ∧ ∀ k e, e < 1024 →
        (t.hart.rM k).getLsbD e = if k = md ∧ bodyActive s mask e = true then (b e).1 else (s.hart.rM k).getLsbD e

/-- A vector instruction with a scalar result, a single step: it writes when `vsi` is below `vl` (R26, R154). -/
def ScalarTakes (i : Instr) (s : State) (toF : Bool) (r : SReg) (v : Word) (f : Flags) : Prop :=
  ∃ t, exec i s = .next t ∧ VDone s t (if s.vsi < s.vl then f else 0) ∧ RowsAre s t [] (fun _ _ => 0)
    ∧ (∀ q, t.rS q = if toF = false ∧ q = r ∧ ¬ q = 0 ∧ s.vsi < s.vl then v else s.rS q)
    ∧ (∀ q, t.rF q = if toF = true ∧ q = r ∧ s.vsi < s.vl then v else s.rF q)
    ∧ (∀ k, t.hart.rM k = s.hart.rM k) ∧ t.hart.hwm = s.hart.hwm

/-- Bits of `opnd(e)` under TA (R152): an element of VB, a scalar register, or the immediate. -/
def opndOf (s : State) (o : VOp) (e : Nat) : Nat :=
  match o.src with
  | .vr vb _ _ =>
    if o.mod0 then (if isFloat o.ta then s.rF o.ss else s.rS o.ss).toNat % 2 ^ tyWidth o.ta
    else elemAt s vb.toNat (tyWidth o.ta) e
  | .vi imm => if isFloat o.ta then (round o.ta (immVal imm) ⟨.rne, false, 0, 0, 0⟩).1 else (imm.toInt % 2 ^ tyWidth o.ta).toNat

/-- The exact value of `opnd(e)`; a floating-point immediate is taken exactly. -/
def opndValueOf (s : State) (o : VOp) (e : Nat) : Val :=
  match o.src with
  | .vi imm => if isFloat o.ta then immVal imm else decode o.ta (opndOf s o e)
  | .vr _ _ _ => decode o.ta (opndOf s o e)

/-- An integer result of type `t`: modulo 2^w, or clamped to the range of `t` with SATF (R70). -/
def fitInt (t : Ty) (sat : Bool) (x : Int) : Nat × Flags :=
  let y := if sat then max (intMin t) (min (intMax t) x) else x
  ((y % 2 ^ tyWidth t).toNat, if y = x then 0 else fSATF)

/-- One rounding to TA of a vector element with its flags (R153, R163). -/
def roundedAt (s : State) (o : VOp) (e : Nat) (v : Val × Flags) : Nat × Flags :=
  let r := round o.ta v.1 ⟨o.rms.getD s.hart.rmode, o.mod1, s.hart.conf.srseed.toNat, e, o.vd.toNat⟩
  (r.1, v.2 ||| r.2)

/-! Reductions -/

/-- Node `j` at height `h` of the tree of R73, over leaves of which none is ABSENT: an ABSENT child passes the other one on,
and level k, position j combines with index 1024·k + j. -/
def treeNode (f : Combine) (leaf : Nat → Option Nat) : Nat → Nat → Option Nat × Flags
  | 0, j => (leaf j, 0)
  | k + 1, j =>
    let l := treeNode f leaf k (2 * j)
    let r := treeNode f leaf k (2 * j + 1)
    match l.1, r.1 with
    | none, x => (x, l.2 ||| r.2)
    | x, none => (x, l.2 ||| r.2)
    | some a, some b =>
      let c := f (k * 1024 + j) a b
      (some c.1, l.2 ||| r.2 ||| c.2)

/-- `tree_reduce` of R73 over leaves 0 to n − 1: the root of the least tree that holds them, combined with the seed at index
2^20; none when every leaf is ABSENT. -/
def treeSum (f : Combine) (seed : Nat) (leaf : Nat → Option Nat) (n : Nat) : Option Nat × Flags :=
  let r := treeNode f leaf (Nat.log2 (2 * n - 1)) 0
  match r.1 with
  | none => (none, r.2)
  | some x =>
    let c := f (2 ^ 20) seed x
    (some c.1, r.2 ||| c.2)

/-- A combining step that rounds an exact result to type `t` with tag 0x200 + SS (R169). -/
def roundStep (s : State) (t : Ty) (o : VOp) (op : Val → Val → Val × Flags) : Combine := fun idx a b =>
  let v := op (decode t a) (decode t b)
  let r := round t v.1 ⟨o.rms.getD s.hart.rmode, false, s.hart.conf.srseed.toNat, idx, 0x200 + o.ss.toNat⟩
  (r.1, v.2 ||| r.2)

/-- A combining step of an integer type. -/
def intStep (t : Ty) (sat : Bool) (op : Int → Int → Int) : Combine := fun _ a b => fitInt t sat (op (intOf t a) (intOf t b))

/-! Vault memory instructions -/

/-- After an instruction that reaches the Vault: as `VDone`, with the hart as `y` but for its registers; memories, line bits
and line marks are said apart, and the core's access counters may have advanced. -/
structure MDone (s t : State) (f : Flags) (y : Hart) : Prop where
  hart : { t.hart with
      sregs := y.sregs
      fregs := y.fregs
      mregs := y.mregs
      hwm := y.hwm } =
    { y with
      pc := s.hart.pc + 8
      conf := { s.hart.conf with vsi := 0, fmode := s.hart.conf.fmode ||| (f.zeroExtend 16 <<< 4) } }
  others : ∀ h, h ≠ s.cur → t.hartAt h = s.hartAt h
  marks : ∀ c r k, c < 512 → r < 48 → k < 128 → cellMark t c r k = cellMark s c r k
  counters : ∀ a, (∀ c, ¬ a = ctlPa c 0x100 ∧ ¬ a = ctlPa c 0x108 ∧ ¬ a = ctlPa c 0x110) → rawReg t a = rawReg s a
  world : { t with
    harts := s.harts
    regs := s.regs
    mem := s.mem
    vault := s.vault
    cores := { t.cores with cells := s.cores.cells }
    marks := { t.marks with
      cell := s.marks.cell
      empty := s.marks.empty
      vault := s.marks.vault } } = s

/-- The bytes, line bits and line marks of the Vaults, and the bytes of HBM, read alike. -/
structure SameStores (s t : State) : Prop where
  mem : t.mem = s.mem
  vault : ∀ c q, c < 512 → q < 2 ^ 24 → vaultByte t c q = vaultByte s c q
  empty : ∀ c q, c < 512 → q < 2 ^ 24 → lineEmpty t c q = lineEmpty s c q
  marks : ∀ c q, c < 512 → q < 2 ^ 24 → vaultMark t c q = vaultMark s c q

/-- What a list of stores leaves, made in order: store `k` puts `n` bytes of `v k` at place `p k`. The lines they touch are
full; a mark goes where `clears` says so. -/
structure StoresMade {κ : Type} (s t : State) (l : List κ) (n : Nat) (p : κ → HeldPlace) (v : κ → Nat)
    (clears : Nat → Nat → Bool) : Prop where
  hbm : ∀ a, memByte t a = l.foldl (fun m k => (p k).hbmPut n (v k) m) (memByte s) a
  vault : ∀ c q, c < 512 → q < 2 ^ 24 → vaultByte t c q = l.foldl (fun m k => (p k).vaultPut n (v k) m) (vaultByte s) c q
  empty : ∀ c q, c < 512 → q < 2 ^ 24 → lineEmpty t c q =
    (lineEmpty s c q && !l.any fun k => (List.range 128).any fun b => (p k).covers n c (q / 128 * 128 + b))
  marks : ∀ c q, c < 512 → q < 2 ^ 24 → vaultMark t c q = (vaultMark s c q && !clears c q)

/-! The Square -/

/-- `n` bits from bit `b` of the little-endian bytes that begin at offset `a` of a core's Vault (R54, R188, R189). -/
def vaultBits (s : State) (c a b n : Nat) : Nat :=
  gather (fun k => vaultByte s c (a + b / 8 + k)) 0 ((b % 8 + n + 7) / 8) / 2 ^ (b % 8) % 2 ^ n

/-- An update as its rules name it: its operation, its order and form, K, and the operands' offsets (R192, R195). -/
structure Update where
  op : SqOp
  ordered : Bool
  sparse : Bool
  k : Nat
  sa : Nat
  sb : Nat

/-- G, N, G_t and w of an update (R185, R191). -/
def Update.g (d : Update) : Nat := d.op.gm1.toNat + 1
def Update.n (d : Update) : Nat := if d.op.spn then 8 else 16
def Update.gt (d : Update) : Nat :=
  if d.op.ta = .fp64 ∨ d.op.ta = .fp32 then 1 else if d.op.ta = .fp16 ∨ d.op.ta = .bf16 then 2
  else if packBits d.op.ta < 8 then 8 else 4
def Update.w (d : Update) : Nat := packBits d.op.ta

/-- The number of units (R195). -/
def Update.units (d : Update) : Nat := if d.sparse then d.k / 32 * (d.n / d.gt) else (d.k + d.gt - 1) / d.gt

/-- The conditions on the depth (R195). -/
def Update.depthFits (d : Update) : Bool :=
  decide (1 ≤ d.k) && decide (d.units ≤ 1024) && (!isBlock d.op.ta || decide (d.k % blockLen d.op.ta = 0))
    && (!d.sparse || decide (d.k % 32 = 0))

/-- EB of R188, and where the record of block `j` of A begins. -/
def Update.eb (d : Update) : Nat := 8 * ((blockLen d.op.ta * d.g * d.w + 63) / 64)
def Update.record (d : Update) (j : Nat) : Nat := d.sa + j * (d.eb + 8 * ((d.g + 7) / 8))

/-- The code of element (i, k) of A and its scale byte (R188). -/
def Update.a (d : Update) (s : State) (i k : Nat) : Nat × Nat :=
  let c := coreOf s.cur
  let n := blockLen d.op.ta
  if isBlock d.op.ta then
    (vaultBits s c (d.record (k / n)) (d.w * (k % n * d.g + i)) d.w, (vaultByte s c (d.record (k / n) + d.eb + i)).toNat)
  else if d.op.maj then (vaultBits s c (d.sa + i * (8 * ((d.k * d.w + 63) / 64))) (d.w * k) d.w, 0)
  else (vaultBits s c d.sa (d.w * (k * d.g + i)) d.w, 0)

/-- Units per block, and the line of each cluster at which the block of unit `u` begins (R189). -/
def Update.perBlock (d : Update) : Nat := if d.sparse then d.n / d.gt else if isBlock d.op.ta then blockLen d.op.ta / d.gt else 1
def Update.blockLine (d : Update) (u : Nat) : Nat :=
  u / d.perBlock * if d.sparse = true ∨ isBlock d.op.ta = true then d.perBlock + 1 else if d.op.ta = .lg6 then 2 else 1

/-- The offset of line `l` of logical cluster `j` of B (R189). -/
def Update.lineAt (d : Update) (s : State) (j l : Nat) : Nat :=
  (2 ^ 21 * (clustersOf s.hart.grant).getD j 0 + d.sb + 128 * l) % 2 ^ 24

/-- The lines of each cluster that unit `u` reads (R189). -/
def Update.linesOf (d : Update) (u : Nat) : List Nat :=
  let b := d.blockLine u
  let q := u % d.perBlock
  if d.sparse then [b, b + 1 + q] else if isBlock d.op.ta then [b + q, b + d.perBlock]
  else if d.op.ta = .lg6 then [b, b + 1] else [b]

/-- The terms of unit `u` in column `e`: m, the k of A, the code of B and its scale byte (R189 to R191, R196). -/
def Update.terms (d : Update) (s : State) (u e : Nat) : List (Nat × Nat × Nat × Nat) :=
  let c := coreOf s.cur
  let per := 1024 / s.ew
  let bitsAt := fun (l b n : Nat) => vaultBits s c (d.lineAt s (e / per) l) b n
  let o := e % per * s.ew
  let l := d.blockLine u
  let q := u % d.perBlock
  let inK := (List.range d.gt).filter fun i => decide (u * d.gt + i < d.k)
  if d.sparse then
    let sel := bitsAt l o 32
    (List.range d.gt).filterMap fun i => ((List.range 32).filter fun p => sel.testBit p)[q * d.gt + i]?.map fun p =>
      (u * d.gt + i, 32 * (u / d.perBlock) + p, bitsAt (l + 1 + q) (o + d.w * i) d.w, 0)
  else if isBlock d.op.ta then
    inK.map fun i => (u * d.gt + i, u * d.gt + i, bitsAt (l + q) (o + d.w * i) d.w, bitsAt (l + d.perBlock) o 8)
  else if d.op.ta = .lg6 then
    let lane := 64 * (e % 32 / 2)
    let word := bitsAt l lane 64 + 2 ^ 64 * bitsAt (l + 1) lane 32
    inK.map fun i => (u * d.gt + i, u * d.gt + i, word / 2 ^ (6 * (8 * (e % 2) + i)) % 64, 0)
  else inK.map fun i => (u * d.gt + i, u * d.gt + i, bitsAt l (o + d.w * i) d.w, 0)

/-- The value of an operand code with its scale; an unsigned one is read so (R62, R192). -/
def operandVal (t : Ty) (uns : Bool) (code sc : Nat) : Val :=
  if isBlock t then scaleBy (blockElem t code) (blockScale t sc)
  else if uns then .fin false (code % 2 ^ packBits t) 1 else decode t code

/-- The exact term of two operands, negated by `.neg` (R71, R196). -/
def Update.term (d : Update) (a b : Nat × Nat) : Val × Flags :=
  let p := if d.op.ta = .lg6 then (lg6Mul a.1 b.1, 0) else vmul (operandVal d.op.ta d.op.ua a.1 a.2) (operandVal d.op.tb d.op.ub b.1 b.2)
  if d.op.acc = 1 then (vneg p.1, p.2) else p

/-- x plus terms, rounded once, or for integers wrapped or clamped (R70, R72, R196). -/
def Update.add (d : Update) (s : State) (e tag x : Nat) (ts : List (Val × Flags)) : Nat × Flags :=
  let t := accTy d.op.ta
  if t = .si32 then
    fitInt t d.op.sat (ts.foldl (fun acc p => acc + match p.1 with | .fin n a b => (if n then -1 else 1) * ((a / b : Nat) : Int) | _ => 0)
      (intOf t x))
  else
    let rm := d.op.rms.getD s.hart.rmode
    let v := vsum rm (decode t x :: ts.map fun p => p.1)
    let r := round t v.1 ⟨rm, d.op.sat, s.hart.conf.srseed.toNat, e, tag⟩
    (r.1, ts.foldl (fun f p => f ||| p.2) (v.2 ||| r.2))

/-- Column `e` of row i after unit `u`, from `x` before it: term by term, or all terms at once (R196). -/
def Update.step (d : Update) (s : State) (u i e x : Nat) : Nat × Flags :=
  let ts := (d.terms s u e).map fun t => (t.1, d.term (d.a s i t.2.1) t.2.2)
  if d.ordered then ts.foldl (fun acc t =>
    let r := d.add s e (d.op.vd.toNat + i + t.1 * 2 ^ 40) acc.1 [t.2]
    (r.1, acc.2 ||| r.2)) (x, 0)
  else if ts = [] then (x, 0) else d.add s e (d.op.vd.toNat + i + u * 2 ^ 40) x (ts.map fun t => t.2)

/-- The bytes that unit `u` reads, as offsets and counts: A over its k, and B's lines in the clusters that hold a column (R187 to
R189). -/
def Update.reads (d : Update) (s : State) (u : Nat) : List (Nat × Nat) :=
  let n := blockLen d.op.ta
  let lo := if d.sparse then 32 * (u / d.perBlock) else u * d.gt
  let hi := if d.sparse then lo + 32 else min d.k (lo + d.gt)
  let span := fun (a x y : Nat) => (a + d.w * x / 8, (d.w * y + 7) / 8 - d.w * x / 8)
  (if isBlock d.op.ta then
      [span (d.record (lo / n)) (lo % n * d.g) ((lo % n + (hi - lo)) * d.g), (d.record (lo / n) + d.eb, d.g)]
    else if d.op.maj then (List.range d.g).map fun i => span (d.sa + i * (8 * ((d.k * d.w + 63) / 64))) lo hi
    else [span d.sa (lo * d.g) (hi * d.g)])
  ++ ((List.range ((s.vl * s.ew + 1023) / 1024)).map fun j => (d.linesOf u).map fun l => (d.lineAt s j l, 128)).flatten

/-- The listed bytes of the own Vault can be read: they exist, and their lines are full and carry no mark (R187). -/
def VaultReadable (s : State) (l : List (Nat × Nat)) : Prop :=
  ∀ p ∈ l, p.1 + p.2 ≤ 2 ^ 24 ∧ ∀ q, p.1 ≤ q → q < p.1 + p.2 →
    lineReadsEmpty s (coreOf s.cur) q = false ∧ vaultMark s (coreOf s.cur) q = false

/-- Where a drain writes element (i, e) (R210). -/
def drainPlace (s : State) (o : SqOp) (i e : Nat) : Nat :=
  let wb := tyWidth o.tb / 8
  let nc := 64 / tyWidth o.ta
  let sa := (s.rS o.sa).toNat
  let stride := (s.rS o.sc).toNat / 2 ^ 16 % 2 ^ 24
  let p := 8 / (nc * wb)
  if o.sqmod.getLsbD 5 then
    (2 ^ 21 * (clustersOf s.hart.grant).getD (e / (16 * nc)) 0 + sa + i / p * stride + 8 * (e / nc % 16)
      + (i % p * nc + e % nc) * wb) % 2 ^ 24
  else sa + i * stride + e * wb

/-- Where the multiplier of column `e` lies (R210). -/
def multPlace (s : State) (o : SqOp) (e : Nat) : Nat :=
  let nc := 64 / tyWidth o.ta
  2 ^ 21 * (clustersOf s.hart.grant).getD (e / (16 * nc)) 0 + (s.rS o.sb).toNat
    + if tyWidth o.ta = 64 then 8 * (e % 16) else 4 * (e % 32)

/-- `conv` of R209, with its flags. -/
def drainResult (s : State) (o : SqOp) (e row : Nat) (v : Val) : Nat × Flags :=
  let sat := o.sqmod.getLsbD 4
  let zp := (BitVec.ofNat 16 (s.rS o.sc).toNat).toInt
  let r : Rnd := ⟨o.rms.getD s.hart.rmode, sat, s.hart.conf.srseed.toNat, e, row + 2 ^ 48⟩
  if isFloat o.tb then round o.tb v r
  else match v with
    | .nan _ => (0, fNV)
    | .inf neg => (((if neg then intMin o.tb else intMax o.tb) % 2 ^ tyWidth o.tb).toNat, if sat then fSATF else fNV)
    | .fin neg n d =>
      let q := nearestInt neg n d r
      let y := fitInt o.tb sat (q.1 + zp)
      (y.1, y.2 ||| if q.2 then fNX else 0)

/-! Convoys -/

/-- Slots that complete one after the other: each is checked and runs as it would alone, from the same pc, and the rows it
leaves busy become so together at the end. -/
def SlotsRun : List VProg → State → State → Prop
  | [], s, t => t = s
  | p :: ps, s, t => ∃ u v, p.issue s = .ok () ∧ runBody p.body p.kept s 8 = .ok u
      ∧ SlotsRun ps (u.putHart { u.hart with
          pc := s.hart.pc
          updBusy := s.hart.updBusy
          drainBusy := s.hart.drainBusy }) v
      ∧ t = v.putHart { v.hart with
          updBusy := v.hart.updBusy ||| u.hart.updBusy
          drainBusy := v.hart.drainBusy ||| u.hart.drainBusy }

/-! Attention -/

/-- What `amode` does to the hart (R257): the old `fmode` to s[SS], PMODE from MOD[0], `vsi` 0, the pc past its 8 bytes. -/
def ModeSet (s t : State) (o : VOp) : Prop :=
  ScalarIs s t o.ss (BitVec.ofNat 64 s.hart.conf.fmode.toNat)
  ∧ { t.hart with sregs := s.hart.sregs, hwm := s.hart.hwm } = { s.hart with
      pc := s.hart.pc + 8
      conf := { s.hart.conf with
        vsi := 0
        fmode := if o.mod0 then s.hart.conf.fmode ||| 8 else s.hart.conf.fmode &&& 0xFFF7#16 } }
  ∧ ∀ h, h ≠ s.cur → t.hartAt h = s.hartAt h

/-! Streams and engines -/

/-- The instruction of 8 bytes completes with effect `u`: `rd` takes `v`, and nothing else changes beside `u`. -/
def Completes8 (i : Instr) (s u : State) (rd : SReg) (v : Word) : Prop :=
  ∃ t, exec i s = .next t ∧ t.hart.pc = s.hart.pc + 8 ∧ ScalarIs u t rd v ∧ OnlyScalars u t

/-- The instruction of 8 bytes completes with effect `u` and no destination register. -/
def Advances8 (i : Instr) (s u : State) : Prop :=
  ∃ t, exec i s = .next t ∧ t.hart = { u.hart with pc := s.hart.pc + 8 } ∧ OnlyHart u t

/-- A synchronous trap and nothing else. -/
def Raises (i : Instr) (s : State) (code sub : Nat) (v : Word) : Prop := exec i s = .next (takeTrap s ⟨code, sub, v⟩)

/-- The elements that a stream just put into a slot has to perform (R220). -/
def freshElems (x : Slot) : List Nat := (List.range x.n).filter fun e => decide (x.s0 ≤ e)

/-- A stream issued from `s`, whose block read left `u`: slot `k` holds `x`, RUNNING or, with nothing to perform, DONE; the
lines a `.clr` stream will write are empty (R217), the groups an `sldv` owes not landed (R218); `vsi` is 0. -/
def Started (s u t : State) (k : Nat) (x : Slot) : Prop :=
  OnlyCaches s u
  ∧ t.hart = { s.hart with pc := s.hart.pc + 8, conf := { s.hart.conf with vsi := 0 } }
  ∧ (∀ h, h ≠ s.cur → t.hartAt h = s.hartAt h)
  ∧ slotAt t s.cur k = { x with
      state := if x.n ≤ x.s0 then .done else .running
      start := if x.n ≤ x.s0 then x.n else x.s0 }
  ∧ (∀ h j, j < 16 → ¬ (h = s.cur ∧ j = k) → slotAt t h j = slotAt s h j)
  ∧ (∀ c q, c < 512 → q < 2 ^ 24 → lineEmpty t c q = (lineEmpty s c q || (x.clr && decide (c = coreOf s.cur)
      && (freshElems x).any fun e => placeInVault (vaultPlace x e) && placeHits (vaultPlace x e) (q / 128))))
  ∧ (∀ c r p, c < 512 → r < 48 → p < 8 → unlanded t c r p = (unlanded s c r p || (decide (x.func = 2)
      && decide (c = coreOf s.cur) && decide (r = x.vd)
      && (freshElems x).any fun e => (clustersOf x.grant)[groupOf (ewOf x.vew) e]? == some p)))
  ∧ { t with
      harts := s.harts
      slots := s.slots
      marks := { t.marks with empty := s.marks.empty, unlanded := s.marks.unlanded } } = u

/-- Where bit `i` of element `x` of an array of `w`-bit elements at `a` lies: its byte and its place in the byte (R54, R223). -/
def arrayBit (a w : Nat) (x : Int) (i : Nat) : Int × Nat :=
  let p := x * (w : Int) + (i : Int)
  ((a : Int) + p / 8, (p % 8).toNat)

/-- Where bit `i` of the code of Vault index `x` lies under REPACK with base `a` (R226). -/
def laneWordBit (a : Nat) (x : Int) (i : Nat) : Int × Nat :=
  let p := 6 * (x % 16).toNat + i
  ((a : Int) + 256 * (x / 256) + 8 * (x / 16 % 16) + ((if p < 64 then p / 8 else 120 + p / 8 : Nat) : Int), p % 8)

/-- An element of a stream (R223 to R229): its bits and those of each access to memory, whether it is clipped, where its bits lie
on the memory side, at virtual addresses, and on the Vault side, and whether its packed index there is negative. -/
structure StreamWork where
  width : Nat
  unit : Nat
  clip : Bool
  mem : Nat → Nat × Nat
  memLow : Bool
  vault : Nat → Int × Nat
  vaultLow : Bool

/-- Element `e` of a stream; `ix` is the index it has read, or for a paged stream the number of its pool block. -/
def Slot.work (x : Slot) (ix e : Nat) : StreamWork :=
  let w := x.wbits
  let f := fun (o n : Nat) => x.block / 2 ^ (8 * o) % 2 ^ (8 * n)
  let m := x.mbase.toNat
  let v := x.vbase.toNat
  let virtual := fun (q : Int × Nat) => ((q.1 % 2 ^ 64).toNat, q.2)
  if x.func = 3 ∨ x.func = 4 then
    { width := w
      unit := w
      clip := !decide (f 0x20 8 = 0) && decide (f 0x20 8 ≤ ix)
      mem := fun i => virtual (arrayBit (m + ix * f 0x1C 4) w 0 i)
      memLow := false
      vault := arrayBit v w ((e : Int) * sfieldAt x.block 0x28 8)
      vaultLow := false }
  else if x.func = 5 then
    let bs := f 0x32 2
    let t0 := f 0x38 4 / bs * bs
    let total := (f 0x3C 4 + bs - 1) / bs * bs - t0
    let head := e / total
    let t := t0 + e % total
    let row := 8 * f 0x30 2
    { width := row
      unit := w
      clip := decide (f 0x3C 4 ≤ t) || decide (ix = 0xFFFFFFFF)
      mem := fun i => virtual (arrayBit (f 0x10 8 + ix * f 0x18 8 + head * f 0x20 8 + t % bs * f 0x30 2) row 0 i)
      memLow := false
      vault := arrayBit (v + head * f 0x28 8 + e % total * f 0x30 2) row 0
      vaultLow := false }
  else
    let a := affineElem x.block x.ndim e
    let packed := decide (w < 8)
    { width := w
      unit := if w < 8 then 8 else w
      clip := a.2.2
      mem := fun i => virtual (arrayBit m w a.1 i)
      memLow := packed && decide (a.1 < 0)
      vault := if x.flags / 2 % 2 = 1 then laneWordBit v a.2.1 else arrayBit v w a.2.1
      vaultLow := (packed || decide (x.flags / 2 % 2 = 1)) && decide (a.2.1 < 0) }

/-- The accesses to memory of an element: the bytes that hold a packed one, else each element of the row. -/
def StreamWork.parts (k : StreamWork) : List (Nat × Nat) :=
  if k.width < 8 then ((List.range k.width).map fun i => (k.mem i).1).eraseDups.map fun a => (a, 1)
  else (List.range (k.width / k.unit)).map fun i => ((k.mem (k.unit * i)).1, k.unit / 8)

/-- The physical byte that a virtual one becomes, for accesses at `parts` and their places `pas`. -/
def physByte (parts pas : List (Nat × Nat)) (a : Nat) : Nat :=
  (((parts.zip pas).find? fun q => decide (q.1.1 ≤ a) && decide (a < q.1.1 + q.1.2)).map fun q => q.2.1 + (a - q.1.1)).getD 0

/-- What element `e` of a slot needs before its own accesses (R227, R229): the index that it finds in the Vault, or the entry of
its pool block, with the state after it is read. -/
def StreamIndex (s : State) (h k e : Nat) (u : State) (ix : Nat) : Prop :=
  let x := slotAt s h k
  let f := fun (o n : Nat) => x.block / 2 ^ (8 * o) % 2 ^ (8 * n)
  let n := 2 ^ f 0x18 1
  let a := f 0x10 8 + e * n
  let bs := f 0x32 2
  let t0 := f 0x38 4 / bs * bs
  if x.func = 3 ∨ x.func = 4 then
    u = s ∧ a + n ≤ 2 ^ 24 ∧ lineReadsEmpty s (coreOf h) a = false ∧ vaultMark s (coreOf h) a = false
      ∧ ix = gather (fun j => vaultByte s (coreOf h) (a + j)) 0 n
  else if x.func = 5 then
    tableEntry s h k ((t0 + e % ((f 0x3C 4 + bs - 1) / bs * bs - t0)) / bs) = .ok (u, ix)
  else u = s

/-- The memory side of an element, aligned and translated: the places `pas` of its accesses; a clipped or filling one makes none
(R231, R238, R239). -/
def StreamPlaces (s : State) (h k : Nat) (acc : Acc) (w : StreamWork) (dry : Bool) (u : State) (pas : List (Nat × Nat)) : Prop :=
  if dry then u = s ∧ pas = []
  else w.memLow = false ∧ (w.mem 0).1 % (w.unit / 8) = 0
    ∧ memPieces s h k acc (if acc = .write then 1 else 0) w.parts = .ok (u, pas)

/-- A slot past element `e`: its window is over when `e` was the last and no element has faulted (R238). -/
def Slot.past (x : Slot) (e : Nat) : Slot :=
  if x.winEnd ≤ e + 1 ∧ x.faults = [] then { x.closed with
    next := e + 1
    start := x.winEnd
    rvalid := false
    residue := 0
    wrote := some []
    state := if x.n ≤ x.winEnd then .done else .running }
  else { x with next := e + 1 }

/-- Element `e` faulted with these entries after `u`, and nothing else happened: an ordered stream examines no element above it, an
unordered one goes on (R240, R241). -/
def ElemFaults (u t : State) (h k e : Nat) (l : List FaultEntry) : Prop :=
  let y := slotAt u h k
  { t with slots := u.slots } = u ∧ (∀ g j, j < 16 → ¬ (g = h ∧ j = k) → slotAt t g j = slotAt u g j)
    ∧ slotAt t h k = { y with
        faults := l.foldl addFault y.faults
        fmask := y.fmask ||| 2 ^ (e % 1024)
        next := if y.ordered then e else e + 1 }

/-! The Assayer -/

/-- The 64 bytes at `a` are the descriptor of a sample entry, with STATE `state` (R356). -/
def DescribedAt (m : Nat → Byte) (a : Nat) (x : Sample) (state : Nat) : Prop :=
  gather m a 4 = x.t.toNat ∧ gather m (a + 0x04) 4 = x.h.toNat ∧ gather m (a + 0x08) 4 = x.tend.toNat
  ∧ gather m (a + 0x0C) 4 = x.eprev.toNat ∧ gather m (a + 0x10) 4 = x.nacc.toNat ∧ gather m (a + 0x14) 4 = x.nrej.toNat
  ∧ gather m (a + 0x18) 4 = x.n % 2 ^ 32 ∧ gather m (a + 0x1C) 1 = x.method.toNat
  ∧ gather m (a + 0x1D) 1 = (if x.kv then 1 else 0) ∧ gather m (a + 0x1E) 1 = state ∧ gather m (a + 0x1F) 1 = 0
  ∧ gather m (a + 0x20) 8 = x.y.toNat ∧ gather m (a + 0x28) 8 = x.hist.toNat ∧ gather m (a + 0x30) 8 = x.user.toNat
  ∧ gather m (a + 0x38) 4 = x.cstat.toNat ∧ gather m (a + 0x3C) 4 = 0

/-- Entries of the sample tables but one, and the Assayers of the other dies, are as before. -/
def OtherSamples (s t : State) (d i : Nat) : Prop :=
  (∀ g j, j < 4096 → ¬ (g = d ∧ j = i) → sampleAt t g j = sampleAt s g j) ∧ ∀ g, g ≠ d → assayerAt t g = assayerAt s g

/-- Sample `i` of die `d` ends with STATUS (R359): its descriptor is written back, and its completion record waits. -/
structure SampleEnded (s t : State) (d i status : Nat) : Prop where
  entry : sampleAt t d i = { sampleAt s d i with
    state := .finishing
    attempt := .none
    tag := none
    cstat := BitVec.ofNat 32 status
    faddr := 0 }
  apart : OtherSamples s t d i
  engine : assayerAt t d = { assayerAt s d with
    work := (assayerAt s d).work.filter fun k => !(k == i)
    requests := (assayerAt s d).requests.filter fun k => !(k == i)
    completions := (assayerAt s d).completions ++ [i] }
  back : DescribedAt (memByte t) (sampleAt s d i).desc.toNat (sampleAt t d i) 0
  rest : ∀ a, ¬ ((sampleAt s d i).desc.toNat ≤ a ∧ a < (sampleAt s d i).desc.toNat + 64) → memByte t a = memByte s a
  world : { t with
    harts := s.harts
    mem := s.mem
    dies := { t.dies with samples := s.dies.samples, assayer := s.dies.assayer } } = s

/-- Element `k` of the `fp32` vector at `a` of a memory. -/
def vecAt (m : Nat → Byte) (a k : Nat) : Val := decode .fp32 (gather m (a + 4 * k) 4)

/-- The memory after each of the `n` elements at `dst` took `f k`, rounded to `fp32`. -/
def vecPut (m : Nat → Byte) (n dst : Nat) (f : Nat → Val) : Nat → Byte := fun a =>
  if dst ≤ a ∧ a < dst + 4 * n then BitVec.ofNat 8 ((code32 (f ((a - dst) / 4))).toNat / 2 ^ (8 * ((a - dst) % 4))) else m a

/-- The state vector and the `S` + 2 vectors of the history buffer of a sample (R356) lie in HBM, unmarked and apart. -/
def VectorsApart (s : State) (x : Sample) (b : Nat) : Prop :=
  let l := x.y.toNat :: (List.range (mStages b + 2)).map x.kAddr
  (∀ w ∈ l, inHbm w (4 * x.n) = true ∧ markAny s w (4 * x.n) = false)
    ∧ l.Pairwise fun v w => v + 4 * x.n ≤ w ∨ w + 4 * x.n ≤ v

/-- y[k] plus the sum of h·c_p, rounded, times k_p[k], over stages p below `j` (R357). -/
def Sample.combined (x : Sample) (m : Nat → Byte) (c : Nat → Val) (j k : Nat) : Val :=
  sumV (vecAt m x.y.toNat k :: (List.range j).map fun p => mulV (to32 (mulV (val32 x.hcur) (c p))) (vecAt m (x.kAddr p) k))

/-- An attempt begins (R357): its step and whether it is the last, the input of stage 1 in memory when KV = 1, and the request that
waits, with its tag. -/
def Sample.begun (x : Sample) (b : Nat) (m : Nat → Byte) : (Nat → Byte) × Sample :=
  let rem := code32 (sumV [val32 x.tend, vneg (val32 x.t)])
  let whole := !vless (vabs (val32 x.h)) (vabs (val32 rem))
  let y := { x with hcur := if whole then rem else x.h, last := whole }
  let early := mFsal b = true ∧ mStages b = 2
  (if x.kv then vecPut m x.n (if early then x.newAddr b else x.inputAddr b)
      (y.combined m (if early then mB b else mA b 1) 1) else m,
    { y with attempt := .await (if x.kv then 1 else 0), tag := some x.counter, counter := x.counter + 1 })

/-- What the end of an attempt finds: that a value is not finite, that the step is accepted, nn and hn (R357). -/
structure StepResult where
  bad : Bool
  ok : Bool
  nn : Val
  hn : Val

/-- The error norm and the decision of R357, with the new state in memory. -/
def Sample.result (x : Sample) (b : Nat) (m : Nat → Byte) : StepResult :=
  let y := vecAt m x.y.toNat
  let yn := vecAt m (x.newAddr b)
  let err := fun (k : Nat) => to32 (sumV ((List.range (mStages b)).map fun p =>
    mulV (to32 (mulV (val32 x.hcur) (sumV [mB b p, vneg (mBhat b p)]))) (vecAt m (x.kAddr p) k)))
  let sc := fun (k : Nat) => to64 (sumV [mCtl b 5, mulV (mCtl b 6) (maxV (vabs (y k)) (vabs (yn k)))])
  let qv := fun (k : Nat) => to64 (vdiv (err k) (sc k)).1
  let acc := (List.range x.n).foldl (fun a k => to64 (sumV [a, mulV (qv k) (qv k)])) (.fin false 0 1)
  let norm := to64 (vsqrt (vdiv acc (valOfInt (x.n : Int))).1).1
  let least : Val := .fin false 1 (2 ^ 16)
  let one : Val := .fin false 1 1
  let ok := !vless one norm
  let nn := maxV (to32 norm) least
  let lg := fun (v : Val) => to32 (vlog2 v).1
  let e := to32 (sumV [vneg (mulV (mCtl b 3) (lg nn)), mulV (mCtl b 4) (lg (maxV (val32 x.eprev) least))])
  let f := minV (maxV (to32 (mulV (mCtl b 0) (to32 (vexp2 e).1))) (mCtl b 1)) (mCtl b 2)
  { bad := ((List.range x.n).any fun k => !finiteV (yn k) || !finiteV (err k)) || !finiteV norm
    ok := ok
    nn := nn
    hn := minV (to32 (mulV (vabs (val32 x.hcur)) (if ok then f else minV f one))) (mCtl b 8) }

/-- An instruction of 8 bytes that counts in `vsi` completes: `rd` takes `v`, `vsi` is 0, and no other part of a hart
changed. -/
def Counted (s t : State) (rd : SReg) (v : Word) : Prop :=
  t.hart.pc = s.hart.pc + 8 ∧ ScalarIs s t rd v
  ∧ { t.hart with pc := s.hart.pc, sregs := s.hart.sregs } =
      { s.hart with conf := { s.hart.conf with vsi := 0 }, begun := none, kept := 0 }
  ∧ ∀ h, h ≠ s.cur → t.hartAt h = s.hartAt h

/-! Registers reached through Plaza -/

/-- Register `pa` holds `v`, every other register and all else being as before. -/
def RegIs (s t : State) (pa : Nat) (v : Word) : Prop :=
  { t with regs := s.regs } = s ∧ ∀ a, rawReg t a = if a = pa then v else rawReg s a

/-- A record of an error in die `d`'s log (R319): it stands in the slot HEAD named, and HEAD advances. OVER, the notified
hart's sources, the tracked units and what else `u` changed are not meant here. -/
def Logged (s t : State) (d cls base limit place : Nat) : Prop :=
  let r := rawReg s (diePa d 0x310)
  let a := diePa d (0x20000 + 64 * (r.toNat % 256))
  (rawReg t (diePa d 0x310)).toNat % 256 = (r.toNat + 1) % 256
  ∧ (rawReg t a).toNat / 256 % 4 = cls
  ∧ rawReg t (a + 8) = BitVec.ofNat 64 base ∧ rawReg t (a + 16) = BitVec.ofNat 64 limit
  ∧ rawReg t (a + 24) = BitVec.ofNat 64 (sget 0 s.clock d) ∧ rawReg t (a + 40) = BitVec.ofNat 64 place

/-- A record of a unit retired for want of a spare (R319, R321): CLASS 1 with RETIRED, and MARKED when its lines are. -/
def RetiredAs (s t : State) (d unit : Nat) (marked : Bool) (base limit place : Nat) : Prop :=
  Logged s t d 1 base limit place
    ∧ rawReg t (diePa d (0x20000 + 64 * ((rawReg s (diePa d 0x310)).toNat % 256))) =
      BitVec.ofNat 64 (unit + 2 ^ 8 + (if marked then 2 ^ 10 else 0) + 2 ^ 12)

/-- The sparing of a unit is over, with effect `u` and nothing else (R321). -/
def SparedIn (u t : State) (v : SparableUnit) : Prop :=
  t = { u with dies := { u.dies with sparing := u.dies.sparing.filter (fun w => !decide (w = v)) } }

/-! The checkpoint -/

/-- The frames of chunk `n` (R414, R422): one, or two where the tier's 4 KiB blocks cut it; writes of its bytes and marks, or read
requests for them. -/
def chunkFrames (s : State) (restore : Bool) (n : Nat) : List Frame :=
  let dst := (rawReg s (ioPa 0 0x200008)).toNat
  let a := dst % 2 ^ 52 + 4096 * n
  let pa := 2 ^ 37 * (n / (hbmBytes / 4096)) + 4096 * (n % (hbmBytes / 4096))
  let cut := 4096 - a % 4096
  let frame := fun (o len : Nat) => (⟨ownPkg s, dst / 2 ^ 52, if restore then 2 else 0, false, a + o, 0, 0,
    (List.range len).map (fun k => if restore then 0 else memByte s (pa + o + k)),
    if restore then [] else
      (List.range ((len + 127) / 128)).map (fun i => markAny s (pa + o + 128 * i) (min 128 (len - 128 * i))), none⟩ : Frame)
  if a % 4096 = 0 then [frame 0 4096] else [frame 0 cut, frame cut (a % 4096)]

/-! The balancer -/

/-- `k` steps of a relation lead from one point to another. -/
def Iterated {α : Type} (step : α → α → Prop) : Nat → α → α → Prop
  | 0, x, y => x = y
  | k + 1, x, y => ∃ z, step x z ∧ Iterated step k z y

/-- Steps of a relation lead from one point to another, where none is left. -/
def Exhausted {α : Type} (step : α → α → Prop) (x y : α) : Prop := (∃ k, Iterated step k x y) ∧ ∀ z, ¬ step y z

/-- One core handed out (R344): to the stage below its MAX of greatest remainder, then greatest demand, then lowest index. -/
def GrowStep (stages : List StageDesc) (dem : Nat → Nat) (total c : Nat) (x y : (Nat → Nat) × (Nat → Int)) : Prop :=
  let n := stages.length
  let may := fun (i : Nat) => ∃ g, stages[i]? = some g ∧ x.1 i < g.max
  ((List.range n).map x.1).sum < c ∧ ∃ i, may i
    ∧ (∀ j, may j → x.2 j < x.2 i ∨ (x.2 j = x.2 i ∧ (dem j < dem i ∨ (dem j = dem i ∧ i ≤ j))))
    ∧ y = (fun j => if j = i then x.1 i + 1 else x.1 j, fun j => if j = i then x.2 i - (total : Int) else x.2 j)

/-- One core taken back (R344): from the stage above its MIN of least demand, then lowest index. -/
def ShrinkStep (stages : List StageDesc) (dem : Nat → Nat) (c : Nat) (x y : Nat → Nat) : Prop :=
  let n := stages.length
  let may := fun (i : Nat) => ∃ g, stages[i]? = some g ∧ g.min < x i
  c < ((List.range n).map x).sum ∧ ∃ i, may i ∧ (∀ j, may j → dem i < dem j ∨ (dem i = dem j ∧ i ≤ j))
    ∧ y = fun j => if j = i then x i - 1 else x j

/-- The targets of R344 for `c` cores and the demands `dem` of the stages. -/
def TargetsAre (stages : List StageDesc) (dem : Nat → Nat) (c : Nat) (f : Nat → Nat) : Prop :=
  let total := ((List.range stages.length).map dem).sum
  let share := fun (i : Nat) => match stages[i]? with
    | some g => max g.min (min g.max (c * dem i / total))
    | none => 0
  ∃ mid, Exhausted (GrowStep stages dem total c) (share, fun i => ((c * dem i % total : Nat) : Int)) mid
    ∧ Exhausted (ShrinkStep stages dem c) mid.1 f

/-- What a descriptor lets a stage ask for (R324, R325). -/
def StagesFit (stages : List StageDesc) (c : Nat) : Prop :=
  stages.length ≤ 16 ∧ c ≤ 64 ∧ ∀ g ∈ stages, g.min ≤ g.max ∧ g.max ≤ 64

/-- One move of R345 from the allotment `a` of the interval's start and the targets `t`: the highest core that serves the losing
stage farthest above its target leaves towards the gaining stage farthest below its own, ties to the lowest stage. -/
def MoveStep (a t : Nat → Nat) (x y : Pipe) : Prop :=
  let n := x.stages.length
  let at' := fun (i : Nat) => x.allot.getD i 0
  let gain := fun (i : Nat) => i < n ∧ a i + 2 ≤ t i ∧ at' i < t i
  let lose := fun (i : Nat) => i < n ∧ t i + 2 ≤ a i ∧ t i < at' i ∧ ∃ c b, (c, PoolPlace.serves i b) ∈ x.pool
  ∃ g l c b, gain g ∧ (∀ j, gain j → t j - at' j ≤ t g - at' g ∧ (t j - at' j = t g - at' g → g ≤ j))
    ∧ lose l ∧ (∀ j, lose j → at' j - t j ≤ at' l - t l ∧ (at' j - t j = at' l - t l → l ≤ j))
    ∧ (c, PoolPlace.serves l b) ∈ x.pool ∧ (∀ c' b', (c', PoolPlace.serves l b') ∈ x.pool → c' ≤ c)
    ∧ y = { x with
        pool := x.pool.map (fun e => if e.1 = c then (c, .leaving l (some g)) else e)
        allot := (x.allot.modify l (fun q => q - 1)).modify g (fun q => q + 1) }

end Sys2Proof.Machine
end

