-- ==== Sys2Proof/Certificates/Slice0/Obligations.lean ====
section
/-! DEFINITION. The statements for the provers, from the numbered rules of spec/. -/

open Sys2Proof Sys2Proof.Machine

/-! Scalar integer instructions -/

/-- R101, R102: majors 0x01 and 0x02 with each FUNC: addition to the maxima, products and quotients, on `a = s[RA]` and
`b = s[RB]`; a zero divisor and −2^63 / −1 have the results of the table. Nothing but RD and the pc changes. -/
def Obligations.IntegerOps : Prop :=
  ∀ (s : State) (rd ra rb : SReg), let a := s.rS ra; let b := s.rS rb
    let row := fun (major f : Nat) (i : Instr) (v : Word) => Reads (wordA major rd ra rb f) i ∧ Puts i s rd v
    row 0x01 0 (.add rd ra rb) (BitVec.ofNat 64 (a.toNat + b.toNat))
    ∧ row 0x01 1 (.sub rd ra rb) (BitVec.ofInt 64 ((a.toNat : Int) - b.toNat))
    ∧ row 0x01 2 (.and rd ra rb) (a &&& b)
    ∧ row 0x01 3 (.or rd ra rb) (a ||| b)
    ∧ row 0x01 4 (.xor rd ra rb) (a ^^^ b)
    ∧ row 0x01 5 (.sll rd ra rb) (BitVec.ofNat 64 (a.toNat * 2 ^ (b.toNat % 64)))
    ∧ row 0x01 6 (.srl rd ra rb) (BitVec.ofNat 64 (a.toNat / 2 ^ (b.toNat % 64)))
    ∧ row 0x01 7 (.sra rd ra rb) (BitVec.ofInt 64 (a.toInt / 2 ^ (b.toNat % 64)))
    ∧ row 0x01 8 (.slt rd ra rb) (if a.toInt < b.toInt then 1 else 0)
    ∧ row 0x01 9 (.sltu rd ra rb) (if a.toNat < b.toNat then 1 else 0)
    ∧ row 0x01 10 (.min rd ra rb) (BitVec.ofInt 64 (min a.toInt b.toInt))
    ∧ row 0x01 11 (.max rd ra rb) (BitVec.ofInt 64 (max a.toInt b.toInt))
    ∧ row 0x01 12 (.minu rd ra rb) (BitVec.ofNat 64 (min a.toNat b.toNat))
    ∧ row 0x01 13 (.maxu rd ra rb) (BitVec.ofNat 64 (max a.toNat b.toNat))
    ∧ row 0x02 0 (.mul rd ra rb) (BitVec.ofNat 64 (a.toNat * b.toNat))
    ∧ row 0x02 1 (.mulh rd ra rb) (BitVec.ofInt 64 (a.toInt * b.toInt / 2 ^ 64))
    ∧ row 0x02 2 (.mulhu rd ra rb) (BitVec.ofNat 64 (a.toNat * b.toNat / 2 ^ 64))
    ∧ row 0x02 3 (.mulhsu rd ra rb) (BitVec.ofInt 64 (a.toInt * b.toNat / 2 ^ 64))
    ∧ row 0x02 4 (.div rd ra rb) (if b.toNat = 0 then BitVec.allOnes 64 else BitVec.ofInt 64 (a.toInt.tdiv b.toInt))
    ∧ row 0x02 5 (.divu rd ra rb) (if b.toNat = 0 then BitVec.allOnes 64 else BitVec.ofNat 64 (a.toNat / b.toNat))
    ∧ row 0x02 6 (.rem rd ra rb) (if b.toNat = 0 then a else BitVec.ofInt 64 (a.toInt.tmod b.toInt))
    ∧ row 0x02 7 (.remu rd ra rb) (if b.toNat = 0 then a else BitVec.ofNat 64 (a.toNat % b.toNat))

/-- R103 and R104: majors 0x03 and 0x04: bit counts and moves, bit by bit, rotations, and address generation; a nonzero
RB of the one-operand forms and a nonzero bit of FUNC[10:4] are no instruction. -/
def Obligations.BitsAndAddresses : Prop :=
  ∀ (s : State) (rd ra rb : SReg) (k : BitVec 3), let a := s.rS ra; let b := s.rS rb
    let one := fun (f : Nat) (i : Instr) => Reads (wordA 0x03 rd ra 0 f) i ∧ (¬ rb = 0 → NoInstr (wordA 0x03 rd ra rb f))
    one 0 (.clz rd ra) ∧ (∃ n : Nat, Puts (.clz rd ra) s rd (BitVec.ofNat 64 n) ∧ n ≤ 64 ∧ a.toNat < 2 ^ (64 - n)
      ∧ (n < 64 → 2 ^ (63 - n) ≤ a.toNat))
    ∧ one 1 (.ctz rd ra) ∧ (∃ n : Nat, Puts (.ctz rd ra) s rd (BitVec.ofNat 64 n) ∧ n ≤ 64 ∧ a.toNat % 2 ^ n = 0
      ∧ (n < 64 → a.getLsbD n = true))
    ∧ one 2 (.popc rd ra) ∧ Puts (.popc rd ra) s rd (BitVec.ofNat 64 ((List.range 64).filter (fun i => a.getLsbD i)).length)
    ∧ one 3 (.brev rd ra) ∧ (∃ v : Word, Puts (.brev rd ra) s rd v ∧ ∀ i, i < 64 → v.getLsbD (63 - i) = a.getLsbD i)
    ∧ one 4 (.bswap rd ra) ∧ (∃ v : Word, Puts (.bswap rd ra) s rd v ∧ ∀ i, i < 64 → v.getLsbD (8 * (7 - i / 8) + i % 8) = a.getLsbD i)
    ∧ Reads (wordA 0x03 rd ra rb 5) (.rotl rd ra rb)
    ∧ (∃ v : Word, Puts (.rotl rd ra rb) s rd v ∧ ∀ i, i < 64 → v.getLsbD ((i + b.toNat) % 64) = a.getLsbD i)
    ∧ Reads (wordA 0x03 rd ra rb 6) (.rotr rd ra rb)
    ∧ (∃ v : Word, Puts (.rotr rd ra rb) s rd v ∧ ∀ i, i < 64 → v.getLsbD i = a.getLsbD ((i + b.toNat) % 64))
    ∧ Reads (wordA 0x04 rd ra rb k.toNat) (.addx rd ra rb k) ∧ Reads (wordA 0x04 rd ra rb (8 + k.toNat)) (.subx rd ra rb k)
    ∧ (∀ f, 16 ≤ f → f < 2 ^ 11 → NoInstr (wordA 0x04 rd ra rb f))
    ∧ Puts (.addx rd ra rb k) s rd (BitVec.ofNat 64 (a.toNat + b.toNat * 2 ^ k.toNat))
    ∧ Puts (.subx rd ra rb k) s rd (BitVec.ofInt 64 ((a.toNat : Int) - b.toNat * 2 ^ k.toNat))

/-- R105, R106 and R107: majors 0x05 to 0x0D, the immediate forms; a shift with OP 3 or a bit of IMM16[13:6] set, and a
`lui` or `auipc` with RA not 0, are no instructions. -/
def Obligations.ImmediateOps : Prop :=
  ∀ (s : State) (rd ra : SReg) (imm : BitVec 16) (sh : BitVec 6), let a := s.rS ra
    Reads (wordI 0x05 rd ra imm.toNat) (.addi rd ra imm) ∧ Puts (.addi rd ra imm) s rd (BitVec.ofInt 64 (a.toInt + imm.toInt))
    ∧ Reads (wordI 0x06 rd ra imm.toNat) (.andi rd ra imm) ∧ Puts (.andi rd ra imm) s rd (a &&& BitVec.ofInt 64 imm.toInt)
    ∧ Reads (wordI 0x07 rd ra imm.toNat) (.ori rd ra imm) ∧ Puts (.ori rd ra imm) s rd (a ||| BitVec.ofNat 64 imm.toNat)
    ∧ Reads (wordI 0x08 rd ra imm.toNat) (.xori rd ra imm) ∧ Puts (.xori rd ra imm) s rd (a ^^^ BitVec.ofNat 64 imm.toNat)
    ∧ Reads (wordI 0x09 rd ra imm.toNat) (.slti rd ra imm) ∧ Puts (.slti rd ra imm) s rd (if a.toInt < imm.toInt then 1 else 0)
    ∧ Reads (wordI 0x0A rd ra imm.toNat) (.sltiu rd ra imm) ∧ Puts (.sltiu rd ra imm) s rd (if a.toNat < (BitVec.ofInt 64 imm.toInt).toNat then 1 else 0)
    ∧ Reads (wordI 0x0B rd ra (sh.toNat)) (.slli rd ra sh) ∧ Puts (.slli rd ra sh) s rd (BitVec.ofNat 64 (a.toNat * 2 ^ sh.toNat))
    ∧ Reads (wordI 0x0B rd ra (1 * 2 ^ 14 + sh.toNat)) (.srli rd ra sh) ∧ Puts (.srli rd ra sh) s rd (BitVec.ofNat 64 (a.toNat / 2 ^ sh.toNat))
    ∧ Reads (wordI 0x0B rd ra (2 * 2 ^ 14 + sh.toNat)) (.srai rd ra sh) ∧ Puts (.srai rd ra sh) s rd (BitVec.ofInt 64 (a.toInt / 2 ^ sh.toNat))
    ∧ (3 * 2 ^ 14 ≤ imm.toNat ∨ ¬ imm.toNat / 2 ^ 6 % 2 ^ 8 = 0 → NoInstr (wordI 0x0B rd ra imm.toNat))
    ∧ (¬ ra = 0 → NoInstr (wordI 0x0C rd ra imm.toNat) ∧ NoInstr (wordI 0x0D rd ra imm.toNat))
    ∧ Reads (wordI 0x0C rd 0 imm.toNat) (.lui rd imm) ∧ Puts (.lui rd imm) s rd (BitVec.ofInt 64 (imm.toInt * 2 ^ 16))
    ∧ Reads (wordI 0x0D rd 0 imm.toNat) (.auipc rd imm) ∧ Puts (.auipc rd imm) s rd (BitVec.ofInt 64 (s.hart.pc.toInt + imm.toInt * 2 ^ 16))

/-- R108, R109, R110: majors 0x0E to 0x16: branches, jumps and links. A `jalr` whose target is no multiple of 4 takes
MISALIGN with nothing written. -/
def Obligations.ControlTransfers : Prop :=
  (∀ (s : State) (ra rb : SReg) (off : BitVec 16), let a := s.rS ra; let b := s.rS rb
    let target := BitVec.ofInt 64 (s.hart.pc.toInt + 4 * off.toInt)
    let go := fun (c : Prop) (_ : Decidable c) => if c then target else s.hart.pc + 4
    Reads (wordI 0x0E ra rb off.toNat) (.beq ra rb off) ∧ Jumps (.beq ra rb off) s (go (a = b) inferInstance)
    ∧ Reads (wordI 0x0F ra rb off.toNat) (.bne ra rb off) ∧ Jumps (.bne ra rb off) s (go (¬ a = b) inferInstance)
    ∧ Reads (wordI 0x10 ra rb off.toNat) (.blt ra rb off) ∧ Jumps (.blt ra rb off) s (go (a.toInt < b.toInt) inferInstance)
    ∧ Reads (wordI 0x11 ra rb off.toNat) (.bge ra rb off) ∧ Jumps (.bge ra rb off) s (go (b.toInt ≤ a.toInt) inferInstance)
    ∧ Reads (wordI 0x12 ra rb off.toNat) (.bltu ra rb off) ∧ Jumps (.bltu ra rb off) s (go (a.toNat < b.toNat) inferInstance)
    ∧ Reads (wordI 0x13 ra rb off.toNat) (.bgeu ra rb off) ∧ Jumps (.bgeu ra rb off) s (go (b.toNat ≤ a.toNat) inferInstance))
  ∧ (∀ (s : State) (rd ra : SReg) (imm : BitVec 16) (off : BitVec 26),
    let dest := BitVec.ofInt 64 (s.hart.pc.toInt + 4 * off.toInt)
    let target := BitVec.ofInt 64 ((s.rS ra).toInt + imm.toInt)
    Reads (0x14 * 2 ^ 26 + off.toNat) (.j off) ∧ Jumps (.j off) s dest
    ∧ Reads (0x15 * 2 ^ 26 + off.toNat) (.jal off) ∧ Reads (wordI 0x16 rd ra imm.toNat) (.jalr rd ra imm)
    ∧ (∃ t, exec (.jal off) s = .next t ∧ t.hart.pc = dest ∧ ScalarIs s t 31 (s.hart.pc + 4) ∧ OnlyScalars s t)
    ∧ (target.toNat % 4 = 0 → ∃ t, exec (.jalr rd ra imm) s = .next t ∧ t.hart.pc = target
        ∧ ScalarIs s t rd (s.hart.pc + 4) ∧ OnlyScalars s t)
    ∧ (¬ target.toNat % 4 = 0 → exec (.jalr rd ra imm) s = .next (takeTrap s ⟨0x06, 0, target⟩)))

/-! Scalar floating point -/

/-- R115 to R118: each result is one rounding of the exact value, in the format and mode of the instruction. -/
def Obligations.FloatArithmetic : Prop :=
  ∀ (s : State) (fmt : FFmt) (rms : Option RMode) (rd ra rb : SReg),
    let ty := ffmtTy fmt; let a := s.valF ty ra; let b := s.valF ty rb; let d := s.valF ty rd
    let once := fun (i : Instr) (rm : Option RMode) (v : Val × Flags) =>
      let r := round ty v.1 ⟨rm.getD s.hart.rmode, false, s.hart.conf.srseed.toNat, 0, 0x100 + rd.toNat⟩
      FloatPuts i s rd r.1 (v.2 ||| r.2)
    once (.fadd fmt rms rd ra rb) rms (vadd2 (rms.getD s.hart.rmode) a b)
    ∧ once (.fsub fmt rms rd ra rb) rms (vadd2 (rms.getD s.hart.rmode) a (vneg b))
    ∧ once (.fmul fmt rms rd ra rb) rms (vmul a b)
    ∧ once (.fdiv fmt rms rd ra rb) rms (vdiv a b)
    ∧ once (.fsqrt fmt rms rd ra) rms (vsqrt a)
    ∧ once (.fmin fmt rd ra rb) none (vminmax false a b)
    ∧ once (.fmax fmt rd ra rb) none (vminmax true a b)
    ∧ once (.fmadd fmt rms rd ra rb) rms
        (let p := vmul a b; let q := vadd2 (rms.getD s.hart.rmode) p.1 d; (q.1, p.2 ||| q.2))
    ∧ once (.fnmsub fmt rms rd ra rb) rms
        (let p := vmul a b; let q := vadd2 (rms.getD s.hart.rmode) (vneg p.1) d; (q.1, p.2 ||| q.2))

/-- R119: `fcvt` to a floating-point type writes `f[RD]`, to an integer type `s[RD]`, sign- or zero-extended. NX follows
the rounding also outside the range (log 17). -/
def Obligations.FloatConversions : Prop :=
  ∀ (s : State) (dst src : CvtTy) (sat : Bool) (rms : Option RMode) (rd ra : SReg),
    let v := if cvtIsInt src then decode (cvtTy src) (s.rS ra).toNat else s.valF (cvtTy src) ra
    let r : Rnd := ⟨rms.getD s.hart.rmode, sat, s.hart.conf.srseed.toNat, 0, 0x100 + rd.toNat⟩
    (Instr.fcvt dst src sat rms rd ra).wf = true →
    (cvtIsInt dst = false →
      FloatPuts (.fcvt dst src sat rms rd ra) s rd (round (cvtTy dst) v r).1 (round (cvtTy dst) v r).2)
    ∧ (cvtIsInt dst = true →
      FlagPuts (.fcvt dst src sat rms rd ra) s rd
        (if isSigned (cvtTy dst) then sxWord (toInt (cvtTy dst) v r).1 (tyWidth (cvtTy dst))
          else wordOf ((toInt (cvtTy dst) v r).1 % 2 ^ tyWidth (cvtTy dst)))
        (toInt (cvtTy dst) v r).2)

/-- R120, R121: moves and sign injection raise no flag, and a narrow result has zeros above (R19). `feq` raises NV for a
signalling NaN only, `flt` and `fle` for every NaN; a comparison with a NaN gives 0; `fclass` gives the class. -/
def Obligations.FloatMovesAndComparisons : Prop :=
  (∀ (s : State) (fmt : FFmt) (rd ra rb : SReg),
    let w := tyWidth (ffmtTy fmt); let a := s.rF ra; let b := s.rF rb
    let signed := fun (i : Instr) (sg : Bool) =>
      FloatPuts i s rd (a.toNat % 2 ^ (w - 1) + (if sg then 2 ^ (w - 1) else 0)) 0
    FloatPuts (.fmvFs rd ra) s rd (s.rS ra).toNat 0
    ∧ Puts (.fmvSf rd ra) s rd a
    ∧ FloatPuts (.fmvFf rd ra) s rd a.toNat 0
    ∧ signed (.fsgn fmt rd ra rb) (b.getLsbD (w - 1))
    ∧ signed (.fsgnN fmt rd ra rb) (!b.getLsbD (w - 1))
    ∧ signed (.fsgnX fmt rd ra rb) (a.getLsbD (w - 1) != b.getLsbD (w - 1)))
  ∧ (∀ (s : State) (fmt : FFmt) (rd ra rb : SReg),
    let a := s.valF (ffmtTy fmt) ra; let b := s.valF (ffmtTy fmt) rb
    let nan := isNaN a || isNaN b
    FlagPuts (.feq fmt rd ra rb) s rd (if nan = false ∧ vcmp a b = .eq then 1 else 0)
        (if nan then sigFlag a ||| sigFlag b else 0)
    ∧ FlagPuts (.flt fmt rd ra rb) s rd (if nan = false ∧ vcmp a b = .lt then 1 else 0) (if nan then fNV else 0)
    ∧ FlagPuts (.fle fmt rd ra rb) s rd (if nan = false ∧ ¬ vcmp a b = .gt then 1 else 0) (if nan then fNV else 0)
    ∧ Puts (.fclass fmt rd ra) s rd (wordOf (classOf (ffmtTy fmt) (s.rF ra).toNat)))

/-! Scalar loads, stores and atomics -/

/-- R122, R123, R29: every load completes when its address is aligned and readable, and RD takes the bytes extended;
beside the hart only translation caches change. At M an address is physical: bytes of HBM without a mark read
little-endian. An address that is no multiple of the width raises MISALIGN, with VALUE the address, before translation.
-/
def Obligations.Loads : Prop :=
  (∀ (s : State) (rd ra : SReg) (off : BitVec 13),
      let a := BitVec.ofInt 64 ((s.rS ra).toInt + off.toInt)
      let reads := fun (n : Nat) (v : Nat) => a.toNat % n = 0 ∧ ∃ u, hartRead s a n = .ok (u, v)
      let done := fun (i : Instr) (w : Word) => ∃ t, exec i s = .next t ∧ Loaded s t rd w
      (∀ v, reads 1 v → done (.lb rd ra off) (BitVec.ofInt 64 (BitVec.ofNat 8 v).toInt))
      ∧ (∀ v, reads 1 v → done (.lbu rd ra off) (BitVec.ofNat 64 v))
      ∧ (∀ v, reads 2 v → done (.lh rd ra off) (BitVec.ofInt 64 (BitVec.ofNat 16 v).toInt))
      ∧ (∀ v, reads 2 v → done (.lhu rd ra off) (BitVec.ofNat 64 v))
      ∧ (∀ v, reads 4 v → done (.lw rd ra off) (BitVec.ofInt 64 (BitVec.ofNat 32 v).toInt))
      ∧ (∀ v, reads 4 v → done (.lwu rd ra off) (BitVec.ofNat 64 v))
      ∧ (∀ v, reads 8 v → done (.ld rd ra off) (BitVec.ofNat 64 v))
      ∧ (∀ v, reads 8 v → ∃ t u, exec (.fld rd ra off) s = .next t ∧ OnlyCaches s u ∧ FloatIs u t rd v 0))
  ∧ (∀ (s : State) (va : Word) (n : Nat), s.hart.level = .m → 0 < n → inHbm va.toNat n = true → va.toNat < 2 ^ 40 →
      (∀ k, k < n → memMark s (va.toNat + k) = false) →
      ∃ v, hartRead s va n = .ok (s, v) ∧ v < 2 ^ (8 * n)
        ∧ ∀ k, k < n → BitVec.ofNat 8 (v / 2 ^ (8 * k)) = memByte s (va.toNat + k))
  ∧ (∀ (s : State) (rd ra : SReg) (off : BitVec 13),
      let a := BitVec.ofInt 64 ((s.rS ra).toInt + off.toInt)
      let traps := fun (i : Instr) => exec i s = .next (takeTrap s ⟨0x06, 0, a⟩)
      (¬ a.toNat % 2 = 0 → traps (.lh rd ra off) ∧ traps (.lhu rd ra off) ∧ traps (.sh rd ra off))
      ∧ (¬ a.toNat % 4 = 0 → traps (.lw rd ra off) ∧ traps (.lwu rd ra off) ∧ traps (.sw rd ra off))
      ∧ (¬ a.toNat % 8 = 0 → traps (.ld rd ra off) ∧ traps (.fld rd ra off) ∧ traps (.sd rd ra off) ∧ traps (.fsd rd ra off)))

/-- R122: every store completes when its address is aligned and translates into HBM or a Vault, and changes exactly the
bytes it stores. The place is computed from the address that the hart's translation gives. -/
def Obligations.Stores : Prop :=
  ∀ (s : State) (rd ra : SReg) (off : BitVec 13) (u : State) (pa n : Nat) (p : HeldPlace),
    let a := BitVec.ofInt 64 ((s.rS ra).toInt + off.toInt)
    a.toNat % n = 0 → hartPa s a .write n = .ok (u, pa) → heldPlace pa n = some p →
    (n = 1 → ∃ t, exec (.sb rd ra off) s = .next t ∧ Stored p 1 (s.rS rd).toNat s t)
    ∧ (n = 2 → ∃ t, exec (.sh rd ra off) s = .next t ∧ Stored p 2 (s.rS rd).toNat s t)
    ∧ (n = 4 → ∃ t, exec (.sw rd ra off) s = .next t ∧ Stored p 4 (s.rS rd).toNat s t)
    ∧ (n = 8 → ∃ t, exec (.sd rd ra off) s = .next t ∧ Stored p 8 (s.rS rd).toNat s t)
    ∧ (n = 8 → ∃ t, exec (.fsd rd ra off) s = .next t ∧ Stored p 8 (s.rF rd).toNat s t)

/-- R125 to R127: `amo` and `cas` read and write once, give the old value sign-extended, and set CEFF; `ld.acq` and
`st.rel` do not. -/
def Obligations.Atomics : Prop :=
  ∀ (s : State) (rd ra rb : SReg) (op : AmoOp) (wide : Bool) (ord : AccOrd) (sc : Scope) (u : State) (pa old : Nat) (p : HeldPlace),
    let n := if wide then 8 else 4
    let a := s.rS ra
    let b := (s.rS rb).toNat % 2 ^ (8 * n)
    let sx := BitVec.ofInt 64 (BitVec.ofNat (8 * n) old).toInt
    a.toNat % n = 0 → heldPlace pa n = some p →
    (hartPa s a .rmw n = .ok (u, pa) → readReady u pa = .ok () → readAt u pa n = .ok old →
      (atomCarried u (op = .add || op = .swap) sc pa = true →
        ∃ t, exec (.amo op wide ord sc rd ra rb) s = .next t ∧ Atomic p n (amoSpec op (8 * n) old b) rd sx s t)
      ∧ (atomCarried u true sc pa = true → old = (s.rS rd).toNat % 2 ^ (8 * n) →
        ∃ t, exec (.cas wide ord sc rd ra rb) s = .next t ∧ Atomic p n b rd sx s t)
      ∧ (atomCarried u true sc pa = true → ¬ old = (s.rS rd).toNat % 2 ^ (8 * n) →
        ∃ t, exec (.cas wide ord sc rd ra rb) s = .next t ∧ Atomic p 0 0 rd sx s t))
    ∧ (hartRead s a n = .ok (u, old) → ∃ t, exec (.ldAcq wide sc rd ra) s = .next t ∧ Loaded s t rd sx)
    ∧ (hartPa s a .write n = .ok (u, pa) →
        ∃ t, exec (.stRel wide sc ra rb) s = .next t ∧ Stored p n b s t)

/-! Traps and interrupts -/

/-- R41, R42: a synchronous trap saves cause, value, pc and `vsi` in the set of its level, changes the status and goes to
the handler; raised at M with MNEST = 1 it halts the hart instead and tells Nargen. No other hart changes. -/
def Obligations.TrapEntry : Prop :=
  (∀ (s : State) (t : TrapInfo), ¬ (s.hart.level = .m ∧ s.hart.stat.mnest = true) →
    TrapTaken s (takeTrap s t) t.code t.sub t.val)
  ∧ (∀ (s : State) (t : TrapInfo), s.hart.level = .m → s.hart.stat.mnest = true →
    (takeTrap s t).hart =
      { s.hart with run := .halted, hold := .none, begun := none, kept := 0, stopAt := none, stopReq := false }
    ∧ (takeTrap s t).pkg.nargen = s.pkg.nargen ++ [s.cur]
    ∧ ∀ h, h ≠ s.cur → (takeTrap s t).hartAt h = s.hartAt h)

/-- R40, R84, R140, R305: `trap imm` raises TRAP with SUB the level, VALUE the immediate, and the pc after it saved; bits
that are no instruction raise ILLEGAL, a fetch that faults IFAULT, one that meets a mark POISON. -/
def Obligations.TrapsRaised : Prop :=
  (∀ (s : State) (imm : BitVec 16) (rd ra : SReg),
    Reads (wordI 0x21 0 0 imm.toNat) (.trap imm) ∧ (¬ rd = 0 ∨ ¬ ra = 0 → NoInstr (wordI 0x21 rd ra imm.toNat))
    ∧ ∃ t, exec (.trap imm) s = .next t
      ∧ (s.hart.level = .m → s.hart.stat.mnest = true → t.hart.run = .halted ∧ t.pkg.nargen = s.pkg.nargen ++ [s.cur])
      ∧ (¬ (s.hart.level = .m ∧ s.hart.stat.mnest = true) → TrapTaken (s.setPc (s.hart.pc + 4)) t 0x09 (levelCode s.hart.level) (BitVec.ofNat 64 imm.toNat)))
  ∧ (∀ (s : State) (w : Word) (sub line : Nat),
    exec (.illegalEncoding (.encoding w)) s = .next (takeTrap s ⟨0x01, 0, w⟩)
    ∧ exec (.illegalEncoding (.fault sub w)) s = .next (takeTrap s ⟨0x03, sub, w⟩)
    ∧ exec (.illegalEncoding (.poison line)) s = .next (takeTrap s ⟨0x0A, 0, BitVec.ofNat 64 line⟩))

/-- R43, R142: at S or M `eret` restores the pc, `vsi`, the level and the interrupt enable from its level's set, clears
that level's nesting bit, and samples the translation pair (R301); at U it raises PRIV. A partition without a task that took
MCHECK is idle again after the return from its handler (R269, log 58). -/
def Obligations.TrapReturn : Prop :=
  ∀ s : State, let x := s.hart
    let back := fun (y : Hart) => ∃ t, exec .eret s = .next t ∧ (∀ h, h ≠ s.cur → t.hartAt h = s.hartAt h)
      ∧ { t with harts := s.harts, regs := s.regs } = s ∧ (devReq s = false ∨ ¬ x.parked = some 0 → t.regs = s.regs)
      ∧ t.hart = { y with
          root := BitVec.ofNat 40 (bits (rawReg s (rootPa s.cur)) 51 12)
          asid := BitVec.ofNat 16 (bits (rawReg s (asidPa s.cur)) 15 0) }
    (x.level = .s → back { x with
      pc := x.strap.pc
      conf := { x.conf with vsi := x.strap.vsi }
      level := if x.stat.spp then .s else .u
      stat := { x.stat with sie := x.stat.spie, spie := true, snest := false } })
    ∧ (x.level = .m → x.parked = some 0 → back { x with
      run := .idle
      parked := none
      pc := x.mtrap.pc
      conf := { x.conf with vsi := x.mtrap.vsi }
      level := x.stat.mpp
      stat := { x.stat with mie := x.stat.mpie, mpie := true, mnest := false } })
    ∧ (x.level = .m → ¬ x.parked = some 0 → back { x with
      parked := x.parked.map (fun n => n - 1)
      pc := x.mtrap.pc
      conf := { x.conf with vsi := x.mtrap.vsi }
      level := x.stat.mpp
      stat := { x.stat with mie := x.stat.mpie, mpie := true, mnest := false } })
    ∧ (x.level = .u → exec .eret s = .next (takeTrap s ⟨0x02, 0, 0x7C000000⟩))

/-- R29, R84, R141, R393: system instructions raise PRIV at U; command-hart instructions on a compute hart, and task,
lease and context instructions on a command hart, raise ILLEGAL; VALUE is the instruction's bits and there is no other
effect. -/
def Obligations.WrongLevelOrHart : Prop :=
  (∀ (s : State) (ra rb : SReg), s.hart.level = .u → isCommand s.cur = false →
    ∀ i ∈ [Instr.eret, .wfi, .ctxsave ra, .ctxrest ra, .xlinvVa ra rb, .xlinvAs rb, .xlinvAll, .shoot ra],
      exec i s = .next (takeTrap s ⟨0x02, 0, instrBits i⟩))
  ∧ (∀ (s : State) (rd ra rb : SReg) (ps : BitVec 5) (off : BitVec 16) (i : Instr),
    (isCommand s.cur = false → i ∈ [Instr.semWaitGe rd ra rb, .semSig rd ra rb, .semSigAdd rd ra rb, .launch rd ra,
      .copy rd ra, .irq ra, .irqHart ra rb, .qsel rd ra] → exec i s = .next (takeTrap s ⟨0x01, 0, instrBits i⟩))
    ∧ (isCommand s.cur = true → i ∈ [Instr.tspawnCore rd ra, .tspawnDie rd ra, .tspawnSwap rd ra, .texit ra,
      .lreq rd ra rb, .lrel rd ra, .vgrant rd ra, .lpub ra, .lbind rd ra rb, .tyield rd, .strip ra ps off, .ctxsave ra,
      .ctxrest ra] → exec i s = .next (takeTrap s ⟨0x01, 0, instrBits i⟩)))

/-- R38, R41, R42, R44, R133, R134, R143: an interrupt at a boundary is the lowest pending one that is allowed; MCHECK goes
to M and clears, the others go to S. A wait ends with it: the pc saved is the waiting instruction's, or, where a `wfi` or the
phase of a `bar` is complete, the next; else a `bar` withdraws its arrival. A stop inside an instruction is asked for first,
at an index of the model's (log 48); that an idle hart takes MCHECK and runs is log 58. -/
def Obligations.InterruptEntry : Prop :=
  ∀ (s : State) (h b : Nat), irqNext s h = some b →
    (∀ k, exec (.interruptTake h (some k)) s = .next (s.setHart h { s.hartAt h with stopAt := some k }))
    ∧ (let enters := fun (u : State) (pc : Word) => ∃ t, exec (.interruptTake h none) s = .next t
          ∧ (∀ k, k ≠ h → t.hartAt k = s.hartAt k) ∧ { t with harts := s.harts } = u
          ∧ (let x := { s.hartAt h with
                pc := pc
                run := .running
                xlinvWait := false
                mcheck := if b = 0 then none else (s.hartAt h).mcheck }
             if b = 0 then ∃ y, EnteredM x y true 0 0 (irqValue s h 0)
               ∧ t.hartAt h = if (s.hartAt h).run = .idle then { y with parked := some 0 } else y
             else EnteredS x (t.hartAt h) true b 0 (irqValue s h b))
       let pc := (s.hartAt h).pc
       ((∀ sc n p, ¬ (s.hartAt h).hold = .bar sc n p) → enters s (if (s.hartAt h).hold = .wfi then pc + 4 else pc))
       ∧ ∀ sc n p, (s.hartAt h).hold = .bar sc n p → ¬ (sc = .pod ∧ podRemote s = true) →
          let k := barrierKey sc (scopeInst sc h) n
          let y := barrierAt s k
          let past := 1 ≤ (y.phase - p).toNat ∧ (y.phase - p).toNat < 2 ^ 63
          (past → enters s (pc + 4))
          ∧ (¬ past → enters (setBarrier s k ⟨y.phase, y.arrived - 1, y.expected⟩) pc))
    ∧ irqAllowed (s.hartAt h) b = true ∧ (hipBits s h).getD b false = true
    ∧ ∀ c, c < b → (irqAllowed (s.hartAt h) c && (hipBits s h).getD c false) = false

/-! Control and status registers -/

/-- R29, R30, R32, R33, R35, R37 to R39, R139: a register access to a number the hart has, at its level and with no wait,
completes with the old value; each register reads as its map gives; a number that is not listed raises ILLEGAL, a register
above the current level PRIV, for each access form. -/
def Obligations.CsrAccess : Prop :=
  (∀ (s : State) (rd ra : SReg) (n : BitVec 12) (old : Word),
    csrValue s n.toNat = some old → ¬ (isCommand s.cur = true ∧ csrComputeOnly n.toNat = true) →
    n.toNat / 256 ≤ levelCode s.hart.level →
    (csrWaits n.toNat = true → s.hart.updBusy = 0 ∧ s.hart.drainBusy = 0) →
    let a := s.rS ra
    Completes (.csrr rd n) s s rd old
    ∧ Completes (.csrw rd ra n) s (csrWrite s n.toNat a) rd old
    ∧ Completes (.csrs rd ra n) s (if ra = 0 then s else csrWrite s n.toNat (old ||| a)) rd old
    ∧ Completes (.csrc rd ra n) s (if ra = 0 then s else csrWrite s n.toNat (old &&& ~~~ a)) rd old)
  ∧ (∀ (s : State) (rd ra : SReg) (n : BitVec 12) (i : Instr),
    i ∈ [Instr.csrr rd n, .csrw rd ra n, .csrs rd ra n, .csrc rd ra n] →
    (csrValue s n.toNat = none → exec i s = .next (takeTrap s ⟨0x01, 0, instrBits i⟩))
    ∧ (∀ old, csrValue s n.toNat = some old → isCommand s.cur = false → levelCode s.hart.level < n.toNat / 256 →
        exec i s = .next (takeTrap s ⟨0x02, 0, instrBits i⟩)))
  ∧ (∀ s : State, let x := s.hart; let c := x.conf; let cmd := isCommand s.cur
    let reads := fun (n : Nat) (v : Nat) => csrValue s n = some (BitVec.ofNat 64 v)
    let traps := fun (n : Nat) (t : TrapRegs) => csrValue s n = some t.vec ∧ csrValue s (n + 1) = some t.cause
      ∧ csrValue s (n + 2) = some t.val ∧ csrValue s (n + 3) = some t.pc ∧ reads (n + 4) t.vsi.toNat
      ∧ csrValue s (n + 5) = some t.scratch
    reads 0x000 c.vl.toNat ∧ reads 0x001 c.vew.toNat ∧ reads 0x002 c.vsi.toNat
    ∧ reads 0x003 (c.wbase.toNat * 2 ^ 16 + c.space.toNat) ∧ reads 0x004 c.fmode.toNat ∧ csrValue s 0x005 = some c.srseed
    ∧ reads 0x006 c.avh.toNat ∧ reads 0x010 x.grant.toNat
    ∧ reads 0x011 ((if x.hwm.any then 2 ^ 20 else 0) + x.hwm.hreg.toNat * 2 ^ 14 + x.hwm.hvb.toNat)
    ∧ reads 0x012 (s.cyc s.cur) ∧ reads 0x013 (if cmd then 0 else s.cur) ∧ reads 0x014 (if cmd then 0 else s.cur / 8)
    ∧ reads 0x015 x.prio.toNat ∧ csrValue s 0x102 = some (lpartOf s (coreOf s.cur)) ∧ traps 0x103 x.strap ∧ traps 0x300 x.mtrap
    ∧ (∃ w : Word, csrValue s 0x100 = some w ∧ w.toNat % 4 = levelCode x.level ∧ w.toNat < 2 ^ 12
      ∧ w.getLsbD 2 = x.stat.sie ∧ w.getLsbD 3 = x.stat.spie ∧ w.getLsbD 4 = x.stat.spp ∧ w.getLsbD 9 = x.stat.ceff
      ∧ w.getLsbD 10 = x.stat.snest
      ∧ (x.level = .m → w.getLsbD 5 = x.stat.mie ∧ w.getLsbD 6 = x.stat.mpie ∧ w.toNat / 2 ^ 7 % 4 = levelCode x.stat.mpp
          ∧ w.getLsbD 11 = x.stat.mnest)
      ∧ (¬ x.level = .m → w.toNat / 2 ^ 5 % 2 ^ 4 = 0 ∧ w.getLsbD 11 = false))
    ∧ (∃ w : Word, csrValue s 0x101 = some w ∧ w.toNat < 2 ^ 5 ∧ w.getLsbD 0 = x.mcheck.isSome ∧ w.getLsbD 1 = x.preempt
      ∧ w.getLsbD 2 = (!cmd && !(shootQueue s (coreOf s.cur)).isEmpty) ∧ w.getLsbD 3 = (deadlineOf s s.cur).isSome
      ∧ w.getLsbD 4 = !(extQueue s s.cur).isEmpty)
    ∧ ∀ n, 6 < n → n < 0x10 ∨ 0x15 < n → n < 0x100 ∨ 0x108 < n → n < 0x300 ∨ 0x305 < n → csrValue s n = none)

/-- R10, R32, R35, R38, R39: writes of the vector configuration, arithmetic mode, status (of which S reaches only its own
bits) and trap sets under their field rules. -/
def Obligations.CsrWrites : Prop :=
  (∀ (s : State) (v : Word), let c := s.hart.conf; let m := vlmax (grantCount s.hart.grant)
    (csrWrite s 0x000 v).hart.conf = { c with vl := BitVec.ofNat 11 (Nat.min v.toNat (m (ewOf c.vew))) }
    ∧ ((csrWrite s 0x001 v).hart.conf.vew = BitVec.ofNat 2 v.toNat
      ∧ (csrWrite s 0x001 v).hart.conf.vl.toNat = Nat.min c.vl.toNat (m (ewOf (BitVec.ofNat 2 v.toNat))))
    ∧ (csrWrite s 0x002 v).hart.conf = { c with vsi := BitVec.ofNat 13 v.toNat }
    ∧ ((csrWrite s 0x003 v).hart.conf.wbase = BitVec.ofNat 36 (v.toNat / 2 ^ 16)
      ∧ (csrWrite s 0x003 v).hart.conf.space = if v.toNat % 4 = 3 then c.space else BitVec.ofNat 2 v.toNat)
    ∧ ((csrWrite s 0x004 v).hart.conf.fmode.toNat / 8 = v.toNat % 2 ^ 16 / 8
      ∧ (csrWrite s 0x004 v).hart.conf.fmode.toNat % 8 = if v.toNat % 8 < 6 then v.toNat % 8 else c.fmode.toNat % 8)
    ∧ (csrWrite s 0x005 v).hart.conf = { c with srseed := v }
    ∧ (csrWrite s 0x006 v).hart.conf = { c with avh := BitVec.ofNat 16 v.toNat }
    ∧ (∀ n ∈ [0x010, 0x011, 0x012, 0x013, 0x014, 0x015, 0x101], csrWrite s n v = s))
  ∧ (∀ (s : State) (v : Word), let x := s.hart; let y := (csrWrite s 0x100 v).hart
    (x.level = .s → y = { x with stat := { x.stat with
        sie := v.getLsbD 2, spie := v.getLsbD 3, spp := v.getLsbD 4, ceff := v.getLsbD 9, snest := v.getLsbD 10 } })
    ∧ (x.level = .m → y.stat.sie = v.getLsbD 2 ∧ y.stat.spie = v.getLsbD 3 ∧ y.stat.spp = v.getLsbD 4
        ∧ y.stat.mie = v.getLsbD 5 ∧ y.stat.mpie = v.getLsbD 6
        ∧ y.stat.mpp = (match v.toNat / 2 ^ 7 % 4 with | 0 => .u | 1 => .s | 3 => .m | _ => x.stat.mpp)
        ∧ y.stat.ceff = v.getLsbD 9 ∧ y.stat.snest = v.getLsbD 10 ∧ y.stat.mnest = v.getLsbD 11)
    ∧ y.level = x.level
    ∧ (csrWrite s 0x103 v).hart = { x with strap := { x.strap with vec := BitVec.ofNat 64 (v.toNat / 4 * 4) } }
    ∧ (csrWrite s 0x106 v).hart = { x with strap := { x.strap with pc := BitVec.ofNat 64 (v.toNat / 4 * 4) } }
    ∧ (csrWrite s 0x107 v).hart = { x with strap := { x.strap with vsi := BitVec.ofNat 13 v.toNat } }
    ∧ (csrWrite s 0x108 v).hart = { x with strap := { x.strap with scratch := v } }
    ∧ (csrWrite s 0x104 v).hart = { x with strap := { x.strap with cause := v &&& 0x800000000000FFFF#64 } }
    ∧ (csrWrite s 0x105 v).hart = { x with strap := { x.strap with val := v } }
    ∧ (csrWrite s 0x300 v).hart = { x with mtrap := { x.mtrap with vec := BitVec.ofNat 64 (v.toNat / 4 * 4) } }
    ∧ (csrWrite s 0x301 v).hart = { x with mtrap := { x.mtrap with cause := v &&& 0x800000000000FFFF#64 } }
    ∧ (csrWrite s 0x302 v).hart = { x with mtrap := { x.mtrap with val := v } }
    ∧ (csrWrite s 0x303 v).hart = { x with mtrap := { x.mtrap with pc := BitVec.ofNat 64 (v.toNat / 4 * 4) } }
    ∧ (csrWrite s 0x304 v).hart = { x with mtrap := { x.mtrap with vsi := BitVec.ofNat 13 v.toNat } }
    ∧ (csrWrite s 0x305 v).hart = { x with mtrap := { x.mtrap with scratch := v } }
    ∧ (∀ c, lpartOf (csrWrite s 0x102 v) c = if c = coreOf s.cur then v else lpartOf s c)
    ∧ (∀ n, ¬ n = 0x102 → ∀ h, ¬ h = s.cur → (csrWrite s n v).hartAt h = s.hartAt h))

/-! Synchronisation -/

/-- R130, R131, R135 to R137, R143: fences complete; in a model whose accesses perform as they are made they only advance
the pc (log 3; `pause` and `wfi`: log 64). `qpoint` with a request pending records the hart quiescent and waits; `vwait`
completes with a word that satisfies the condition, and else waits; `pause` waits with the pc after it, `wfi` at its pc
until a bit of `hip` is set. -/
def Obligations.FencesAndWaits : Prop :=
  ((∀ (s : State) (sc : Scope),
      (∀ i ∈ [Instr.fence sc, .fenceAcq sc, .fenceRel sc, .fenceI], Jumps i s (s.hart.pc + 4))
      ∧ (shootPending s s.cur = false → Jumps .qpoint s (s.hart.pc + 4)))
    ∧ (∀ s : State, shootPending s s.cur = true → endReady s = .ok () →
      WaitsAt .qpoint s (s.putHart { s.hart with quiet := true }) .qpoint))
  ∧ ((∀ (s u : State) (sc : Scope) (rd ra rb : SReg) (c : WaitCond) (v : Nat),
      (s.rS ra).toNat % 8 = 0 → hartRead s (s.rS ra) 8 = .ok (u, v) →
      let w := BitVec.ofNat 64 v; let b := s.rS rb
      let holds := match c with
        | .eq => w = b | .ne => ¬ w = b | .geu => b.toNat ≤ w.toNat | .ltu => w.toNat < b.toNat
        | .ge => b.toInt ≤ w.toInt | .lt => w.toInt < b.toInt
      (holds → ∃ t, exec (.vwait c sc rd ra rb) s = .next t ∧ Loaded s t rd w)
      ∧ (¬ holds → WaitsAt (.vwait c sc rd ra rb) s u (.vwait c sc rd (s.rS ra) b)))
    ∧ (∀ s : State,
      (∃ t, exec .pause s = .next t ∧ t.hart = { s.hart with pc := s.hart.pc + 4, hold := .pause } ∧ OnlyHart s t)
      ∧ (¬ s.hart.level = .u → ¬ hipWord s s.cur = 0 → Jumps .wfi s (s.hart.pc + 4))
      ∧ (¬ s.hart.level = .u → hipWord s s.cur = 0 → WaitsAt .wfi s s .wfi)))

/-- R132, R133: arrivals and waits at a barrier of this package. The first arrival of a phase fixes its count, the last
completes the phase, `bar.arr` gives the phase joined, `bar.wt` completes once a phase is past and waits until then; a barrier number of 16 or
more, or a count out of range, raises ILLEGAL. -/
def Obligations.Barriers : Prop :=
  (∀ (s : State) (sc : Scope) (rd ra rb : SReg), let b := (s.rS ra).toNat; let n := (s.rS rb).toNat
    let k := barrierKey sc (scopeInst sc s.cur) b
    let x := barrierAt s k
    let e := if x.expected = 0 then n else x.expected
    let y : Barrier := if x.arrived + 1 = e then ⟨x.phase + 1, 0, 0⟩ else ⟨x.phase, x.arrived + 1, e⟩
    b < 16 → ¬ (sc = .pod ∧ podRemote s = true) →
    (1 ≤ n → n ≤ scopeLimit sc →
      Completes (.barArr sc rd ra rb) s (setBarrier s k y) rd x.phase
      ∧ (x.arrived + 1 = e → Advances (.bar sc ra rb) s (setBarrier s k y))
      ∧ (¬ x.arrived + 1 = e → WaitsAt (.bar sc ra rb) s (setBarrier s k y) (.bar sc b x.phase)))
    ∧ (let past := 1 ≤ (x.phase - s.rS rb).toNat ∧ (x.phase - s.rS rb).toNat < 2 ^ 63
       (past → Jumps (.barWt sc ra rb) s (s.hart.pc + 4)) ∧ (¬ past → WaitsAt (.barWt sc ra rb) s s .retry)))
  ∧ (∀ (s : State) (sc : Scope) (rd ra rb : SReg),
    let traps := fun (i : Instr) => exec i s = .next (takeTrap s ⟨0x01, 0, instrBits i⟩)
    (16 ≤ (s.rS ra).toNat → traps (.bar sc ra rb) ∧ traps (.barArr sc rd ra rb) ∧ traps (.barWt sc ra rb))
    ∧ (((s.rS rb).toNat = 0 ∨ scopeLimit sc < (s.rS rb).toNat) → traps (.bar sc ra rb) ∧ traps (.barArr sc rd ra rb)))

/-! Pauses, waits and their ends -/

/-- R133, R135, R137, R143, R156, R178, R200, R271: each wait of a hart ends when its condition has come about. The
instruction is then executed again, or complete where it had nothing left to do; a boundary commits as its instruction
would. Other harts, and the rest of the state, stay. A `pause` ends at the model's choice, and a `wfi` waits for a bit of `hip`
(log 64). -/
def Obligations.WaitsEnd : Prop :=
  (∀ (s : State) (h : Nat), let x := s.hartAt h; let at_h := { s with cur := h }
    let free := s.setHart h { x with hold := .none }
    let past := s.setHart h { x with hold := .none, pc := x.pc + 4 }
    (∀ c l full, x.hold = .line c l full → lineReadsEmpty s c (128 * l) = !full → exec (.vaultLineWaitEnd h) s = .next free)
    ∧ (∀ c r p, x.hold = .landed c r p → unlanded s c r p = false → exec (.landedWaitEnd h) s = .next free)
    ∧ (∀ m, x.hold = .rows m → (x.updBusy ||| x.drainBusy) &&& m = 0 → exec (.rowReleaseWaitEnd h) s = .next free)
    ∧ (x.hold = .pause → exec (.pauseExpire h) s = .next free)
    ∧ (x.hold = .wfi → ¬ hipWord s h = 0 → exec (.wfiWake h) s = .next past)
    ∧ (∀ sc b p, x.hold = .bar sc b p → ¬ (sc = .pod ∧ podRemote s = true) → phasePast (phaseOf s sc h b) p = true →
        exec (.barWaitEnd h) s = .next past)
    ∧ (∀ c sc rd va b u v, x.hold = .vwait c sc rd va b → va.toNat % 8 = 0 → hartRead at_h va 8 = .ok (u, v) →
        condHolds c (BitVec.ofNat 64 v) b = true →
        ∃ t, exec (.vwaitReread h) s = .next t ∧ OnlyCaches s { t with harts := s.harts }
          ∧ (∀ k, k ≠ h → t.hartAt k = s.hartAt k)
          ∧ t.hartAt h = { x.wS rd (BitVec.ofNat 64 v) with pc := x.pc + 4, hold := .none }))
  ∧ (∀ (s t : State) (h : Nat) (k : BoundaryKind), (s.hartAt h).hold = .boundary k → boundaryReady k { s with cur := h } = .ok () →
    boundaryCommit { s with cur := h } k = some t →
    exec (.boundaryCommit h) s = .next { t.putHart { t.hart with hold := .none } with cur := s.cur })

/-! Context and translation maintenance -/

/-- R144, R146: `ctxsave` at M writes header, mask registers and the rows and clusters of `hwm`, every other byte of HBM
staying; `ctxrest` at M from an area without a mark restores mask registers, cells and the registers of the completion.
-/
def Obligations.ContextSwitch : Prop :=
  (∀ (s : State) (ra : SReg), let x := s.hart; let a := (s.rS ra).toNat; let c := grantCount x.grant
      let nc := if x.hwm.any then Nat.min ((x.hwm.hvb.toNat + 127) / 128) c else 0
      let rows := if nc = 0 then 0 else x.hwm.hreg.toNat + 1
      let size := 0x680 + rows * (128 * nc)
      let word := fun (t : State) (o : Nat) => gather (memByte t) (a + o) 8
      isCommand s.cur = false → x.level = .m → a % 128 = 0 → inHbm a size = true → a + size < 2 ^ 40 →
      x.conf.vsi = 0 → x.stopAt = none → x.updBusy = 0 → x.drainBusy = 0 → x.hwm.hreg.toNat < 48 →
      (∀ row p, unlanded s (coreOf s.cur) row p = false) →
      ∃ t, exec (.ctxsave ra) s = .next t ∧ t.hart = { x with pc := x.pc + 4, begun := none, kept := 0 }
        ∧ word t 0x00 = (hwmWord x.hwm).toNat ∧ word t 0x08 = x.grant.toNat ∧ word t 0x10 = x.conf.vl.toNat
        ∧ word t 0x18 = x.conf.vew.toNat ∧ word t 0x20 = (vspaceWord x.conf).toNat ∧ word t 0x28 = x.conf.fmode.toNat
        ∧ word t 0x30 = x.conf.srseed.toNat ∧ word t 0x38 = x.conf.avh.toNat ∧ word t 0x40 = x.strap.pc.toNat
        ∧ word t 0x48 = x.strap.vsi.toNat
        ∧ (∀ k e, k < 12 → e < 1024 → (memByte t (a + 0x80 + 128 * k + e / 8)).getLsbD (e % 8) = (x.rM k).getLsbD e)
        ∧ (∀ r j i, r < rows → j < nc → i < 16 → word t (0x680 + r * (128 * nc) + 128 * j + 8 * i) =
            (cell s (coreOf s.cur) r (laneCol x.grant j i)).toNat)
        ∧ (∀ b, ¬ (a ≤ b ∧ b < a + size) → memByte t b = memByte s b)
        ∧ { t with harts := s.harts, mem := s.mem, marks := { t.marks with mem := s.marks.mem } } = s)
  ∧ (∀ (s : State) (ra : SReg), let x := s.hart; let a := (s.rS ra).toNat; let c := grantCount x.grant
      let word := fun (o : Nat) => gather (memByte s) (a + o) 8
      let saved := savedShape (gather (memByte s) a 128)
      let size := 0x680 + (if saved.any then (saved.hreg + 1) * (128 * saved.ns) else 0)
      isCommand s.cur = false → x.level = .m → a % 128 = 0 → inHbm a size = true → a + size < 2 ^ 40 →
      (∀ b, memMark s b = false) → x.conf.vsi = 0 → x.stopAt = none → x.updBusy = 0 → x.drainBusy = 0 →
      (∀ row p, unlanded s (coreOf s.cur) row p = false) →
      ∃ t, exec (.ctxrest ra) s = .next t ∧ t.hart.pc = x.pc + 4 ∧ t.hart.conf.vsi = 0
        ∧ (∀ r, t.rS r = s.rS r) ∧ (∀ r, t.rF r = s.rF r) ∧ t.mem = s.mem
        ∧ (∀ k e, k < 12 → e < 1024 → (t.hart.rM k).getLsbD e = (memByte s (a + 0x80 + 128 * k + e / 8)).getLsbD (e % 8))
        ∧ (∀ r j i, r < 48 → j < c → i < 16 → (cell t (coreOf s.cur) r (laneCol x.grant j i)).toNat =
            if saved.any = true ∧ r ≤ saved.hreg ∧ j < saved.ns
            then word (0x680 + r * (128 * saved.ns) + 128 * j + 8 * i) else 0)
        ∧ t.hart.conf.vew.toNat = word 0x18 % 4
        ∧ t.hart.conf.vl.toNat = Nat.min (word 0x10) (vlmax c (ewOf t.hart.conf.vew))
        ∧ t.hart.conf.srseed.toNat = word 0x30 ∧ t.hart.conf.avh.toNat = word 0x38 % 2 ^ 16
        ∧ t.hart.conf.wbase.toNat = word 0x20 / 2 ^ 16 % 2 ^ 36
        ∧ t.hart.conf.space.toNat = (if word 0x20 % 4 = 3 then x.conf.space.toNat else word 0x20 % 4)
        ∧ t.hart.conf.fmode.toNat / 8 = word 0x28 / 8 % 2 ^ 13
        ∧ t.hart.conf.fmode.toNat % 8 = (if word 0x28 % 8 < 6 then word 0x28 % 8 else x.conf.fmode.toNat % 8)
        ∧ t.hart.strap.pc.toNat = word 0x40 / 4 * 4 ∧ t.hart.strap.vsi.toNat = word 0x48 % 2 ^ 13
        ∧ t.hart.hwm = ⟨(BitVec.ofNat 64 (word 0)).getLsbD 20, BitVec.ofNat 6 (word 0 / 2 ^ 14),
            BitVec.ofNat 14 (min (word 0 % 2 ^ 14) (128 * c))⟩
        ∧ t.hart = { x with
            pc := t.hart.pc
            mregs := t.hart.mregs
            conf := t.hart.conf
            hwm := t.hart.hwm
            begun := none
            kept := 0
            strap := { x.strap with pc := t.hart.strap.pc, vsi := t.hart.strap.vsi } }
        ∧ (∀ h, ¬ h = s.cur → t.hartAt h = s.hartAt h)
        ∧ (∀ k r q, k < 512 → r < 48 → q < 128 → ¬ (k = coreOf s.cur ∧ x.grant.getLsbD (q / 16) = true) →
            cell t k r q = cell s k r q)
        ∧ { t with
            harts := s.harts
            cores := { t.cores with cells := s.cores.cells }
            marks := { t.marks with cell := s.marks.cell } } = s)

/-- R148, R307, R308, R312, R361, R393: a removal from a command hart's own cache is made at once; a compute hart queues it
for its core, where the die's Assayer loses the translations at once, and waits; with a full queue it waits for a place. `shoot`
translates both halves of its record before it reads either, posts the request that a valid record names, waits for places and
for a Square cell that it must write (R202), and answers an invalid one with all ones. A migration asked for by a command hart goes to die 0 (log 12). -/
def Obligations.TranslationMaintenance : Prop :=
  ∀ (s : State) (ra rb : SReg), ¬ s.hart.level = .u →
    let va : ShootReq := ⟨0, BitVec.ofNat 16 (s.rS rb).toNat, (s.rS ra).toNat, none, none, 0⟩
    let as : ShootReq := ⟨1, BitVec.ofNat 16 (s.rS rb).toNat, 0, none, none, 0⟩
    let all : ShootReq := ⟨2, 0, 0, none, none, 0⟩
    let each := fun (P : Instr → ShootReq → Prop) => P (.xlinvVa ra rb) va ∧ P (.xlinvAs rb) as ∧ P .xlinvAll all
    let c := coreOf s.cur
    let removed := fun (k : Nat) (q : ShootReq) => setTlb s k ((tlbAt s k).filter fun t => !shootHits q t)
    (isCommand s.cur = true → each fun i q => Advances i s (removed (tlbOf s.cur) q))
    ∧ (isCommand s.cur = false → (shootQueue s c).length < 16 → each fun i q =>
      WaitsAt i s ((setShootQueue (removed (520 + c / 64) q) c (shootQueue s c ++
        [{ q with posted := sget 0 s.clock (c / 64) }])).putHart { s.hart with xlinvWait := true }) .xlinv)
    ∧ (isCommand s.cur = false → 16 ≤ (shootQueue s c).length → each fun i _ => WaitsAt i s s .xlinv)
    ∧ ((s.rS ra).toNat % 64 = 0 → ∀ u lo, hartPa s (s.rS ra) .read 64 = .ok (u, lo) →
      (∀ w x, hartPa u (s.rS ra + 64) .read 64 = .error (.trap w x) → exec (.shoot ra) s = .next (takeTrap w x))
      ∧ ∀ v hi a b, hartPa u (s.rS ra + 64) .read 64 = .ok (v, hi) → readReady v lo = .ok () → readReady v hi = .ok () →
        readAt v lo 64 = .ok a → readAt v hi 64 = .ok b → let w := a + b * 2 ^ 512
        (∀ r, parseShoot v w = some r →
          let held := (coresOf r.cores).any (coreDead v) && !wordReady v r.done
          (r.op < 3 → shootRoom v r.cores = true → held = false →
            Advances (.shoot ra) s (postShoot v ⟨r.op, r.asid, r.va, some r.done, none, 0⟩ r.cores))
          ∧ (r.op < 3 → shootRoom v r.cores = false ∨ held = true → WaitsAt (.shoot ra) s v .retry)
          ∧ (r.op = 3 → Advances (.shoot ra) s (postMigration v (migDie s.cur) r)))
        ∧ (parseShoot v w = none → let d := w / 2 ^ 128 % 2 ^ 64
          (d % 8 = 0 → inHbm d 8 = true → ∃ t, exec (.shoot ra) s = .next t ∧ gather (memByte t) d 8 = 2 ^ 64 - 1
            ∧ (∀ q, ¬ (d ≤ q ∧ q < d + 8) → memByte t q = memByte s q) ∧ OnlyCaches s { t with harts := s.harts, mem := s.mem })
          ∧ (doneOk v d = true → wordReady v d = false → WaitsAt (.shoot ra) s v .retry)
          ∧ (¬ d % 8 = 0 → Advances (.shoot ra) s v)))

/-! Tasks and leases -/

/-- R265 to R267, R277: `tspawn.core` and `tspawn.die` give 1 for an invalid record, 2 for a full table, and else make
the lowest FREE entry READY and give its handle. -/
def Obligations.TaskCreation : Prop :=
  ∀ (s u : State) (rd ra : SReg) (b : Nat), isCommand s.cur = false → (s.rS ra).toNat % 64 = 0 →
    hartReadWords s (s.rS ra) 8 = .ok (u, b) → let d := dieOf s.cur
    ∀ p ∈ [(Instr.tspawnCore rd ra, some (coreOf s.cur)), (.tspawnDie rd ra, none)],
      (parseTask b = none → Completes p.1 s u rd 1)
      ∧ (∀ r, parseTask b = some r → (∀ j, j < 4096 → ¬ (taskAt s d j).state = .free) → Completes p.1 s u rd 2)
      ∧ (∀ r k, parseTask b = some r → k < 4096 → (taskAt s d k).state = .free → (∀ j, j < k → ¬ (taskAt s d j).state = .free) →
          ∃ t, exec p.1 s = .next t ∧ t.hart.pc = s.hart.pc + 4
            ∧ (let g := (taskAt s d k).gen; let g' : BitVec 32 := if g.toNat = 2 ^ 32 - 1 then 1 else g + 1
               ScalarIs s t rd (BitVec.ofNat 64 (g'.toNat * 2 ^ 32 + d * 4096 + k))
               ∧ taskAt t d k = { r with
                   state := .ready, gen := g', core := p.2,
                   readySeq := (dispAt s d).seq, readyAt := (dispAt s d).decisions })
            ∧ (∀ j, j ≠ k → taskAt t d j = taskAt s d j)
            ∧ (∀ h, h ≠ s.cur → t.hartAt h = s.hartAt h) ∧ (∀ a, memByte t a = memByte s a))

/-- R267, R273, R278: `texit` ends the running task after its completion write: the hart is idle with no task and no cluster,
its released clusters are zeroed before they are free, and the entry is EXITED while a task is bound to it, else FREE. A hart
with no task only becomes idle (log 14). -/
def Obligations.TaskExit : Prop :=
  ∀ (s u : State) (ra : SReg), isCommand s.cur = false → endReady s = .ok () → exitWrite s (s.rS ra) = .ok u →
    ∃ t, exec (.texit ra) s = .next t ∧ t.hart.run = .idle ∧ t.hart.task = none ∧ t.hart.grant = 0
      ∧ t.hart.preempt = false ∧ t.hart.offer = none ∧ t.hart.conf.vl = 0
      ∧ zeroing t (coreOf s.cur) = zeroing s (coreOf s.cur) ||| s.hart.grant
      ∧ (let d := dieOf s.cur
         (∀ k, s.hart.task = some k → k < 4096 →
          ((∃ j, j < 4096 ∧ ¬ j = k ∧ (taskAt u d j).producer = some k
              ∧ (taskAt u d j).state ∈ [TaskState.ready, .running, .suspended]) → (taskAt t d k).state = .exited)
          ∧ ((∀ p ∈ u.dies.tasks, p.1 / 4096 = d → ¬ p.2.producer = some k) → (taskAt t d k).state = .free)
          ∧ (taskAt t d k).producer = none ∧ (taskAt t d k).phw = (taskAt u d k).phw)
         ∧ (s.hart.task = none → ∀ k, taskAt t d k = taskAt u d k))
      ∧ (∀ h, h ≠ s.cur → t.hartAt h = s.hartAt h) ∧ (∀ a, memByte t a = memByte u a)

/-- R279, R281 to R283: `lreq`, `lrel` and `lpub` change the running task's counts and high-water, and no grant; binding
to a producer of the same die, unbinding, a bind that fails, and `tyield`, which offers a task to its own hart (log 16). -/
def Obligations.LeasesAndBindings : Prop :=
  (∀ (s : State) (rd ra rb : SReg) (k : Nat), isCommand s.cur = false → s.hart.task = some k →
      let d := dieOf s.cur; let t := taskAt s d k; let c := BitVec.ofNat 64 (grantCount s.hart.grant)
      let lo := max 1 (min (s.rS ra).toNat 8)
      let n := min (s.rS ra).toNat 8
      Completes (.lreq rd ra rb) s (setTask s d k { t with min := lo, pref := max lo (min (s.rS rb).toNat 8) }) rd c
      ∧ Completes (.lrel rd ra) s (setTask s d k { t with min := min t.min n, pref := min t.pref n }) rd c
      ∧ Advances (.lpub ra) s (setTask s d k { t with phw := if t.phw.toNat < (s.rS ra).toNat then s.rS ra else t.phw }))
  ∧ (∀ (s : State) (rd ra rb : SReg) (k : Nat), isCommand s.cur = false → s.hart.task = some k → let d := dieOf s.cur
      (s.rS ra = 0 → Completes (.lbind rd ra rb) s (rebind s d k none 0) rd 1)
      ∧ (¬ s.rS ra = 0 → ∀ p, handleSlot s d (s.rS ra) = some p → ¬ (taskAt s d p).state = .free → ¬ p = k →
          Completes (.lbind rd ra rb) s (rebind s d k (some p) (s.rS rb)) rd 1)
      ∧ (¬ s.rS ra = 0 → (∀ p, handleSlot s d (s.rS ra) = some p → (taskAt s d p).state = .free ∨ p = k) →
          Completes (.lbind rd ra rb) s s rd 0)
      ∧ (∀ j, yieldTask s s.cur = some j →
          Completes (.tyield rd) s (s.putHart { s.hart with preempt := true, offer := some (handleOf s d j) }) rd 1)
      ∧ (yieldTask s s.cur = none → Completes (.tyield rd) s s rd 0))

/-- R113, R270, R271, R275, R280: at a boundary that can commit, the grant becomes what `plan` keeps, the released clusters
are zeroed, `vl` is the length, a bound task's BCUR advances by it, and `strip` consumes its elements, moves its pointers and
branches while elements are left. `plan` keeps the leading clusters that PART allows and adds the lowest free ones above them; a
boundary waits for a cluster, and for a publication of its producer. A hart with no task keeps its count (log 13). -/
def Obligations.StripBoundaries : Prop :=
  ∀ (s : State) (rd ra : SReg) (ps : BitVec 5) (off : BitVec 16), isCommand s.cur = false →
    let d := dieOf s.cur; let core := coreOf s.cur; let x := s.hart
    let rem := (s.rS ra).toNat; let g := min s.vl rem; let m := rem - g
    let commits := fun (t : State) (l : Nat) => let keep := clusterSet (planned s (leaseWants s).2)
      t.hart.grant = keep ∧ zeroing t core = zeroing s core ||| (x.grant &&& ~~~ keep)
        ∧ t.hart.conf = { x.conf with vl := BitVec.ofNat 11 l } ∧ (∀ h, h ≠ s.cur → t.hartAt h = s.hartAt h)
        ∧ (∀ k, x.task = some k → taskAt t d k = { taskAt s d k with
            bcur := (taskAt s d k).bcur + if (boundCounts s).isSome then BitVec.ofNat 64 l else 0 })
        ∧ (∀ a, memByte t a = memByte s a)
    boundaryReady (.strip ra ps off) s = .ok () → boundaryReady (.vgrant rd ra) s = .ok () →
    ((Instr.strip ra ps off).wf = true → ∀ l, lengthGranted s m = some l →
      ∃ t, exec (.strip ra ps off) s = .next t ∧ commits t l
        ∧ t.hart.pc = (if 0 < m then BitVec.ofInt 64 (x.pc.toInt + 4 * off.toInt) else x.pc + 4)
        ∧ ∀ r, t.rS r = if r = 0 then 0 else if r = ra then BitVec.ofNat 64 m
            else if 4 ≤ ps.toNat ∧ ps.toNat / 4 * 4 ≤ r.toNat ∧ r.toNat ≤ ps.toNat / 4 * 4 + ps.toNat % 4
            then s.rS r + BitVec.ofNat 64 (g * s.ew / 8) else s.rS r)
    ∧ (∀ l, lengthGranted s rem = some l → ∃ t, exec (.vgrant rd ra) s = .next t ∧ commits t l ∧ t.hart.pc = x.pc + 4
        ∧ ScalarIs s t rd (BitVec.ofNat 64 l))
    ∧ (lengthGranted s m = none → WaitsAt (.strip ra ps off) s s (.boundary (.strip ra ps off)))
    ∧ (lengthGranted s rem = none → WaitsAt (.vgrant rd ra) s s (.boundary (.vgrant rd ra)))

/-- R268, R285: `tspawn.swap` with nothing to bring in gives 0; else the outgoing task, if the partition runs one, is SUSPENDED
with its CEFF, the incoming one RUNNING with its priority and CEFF, and the outgoing handle is given. An incoming task that has
not started takes the state of R268 and begins at its entry by way of `tpc`; a partition with no task gives 0 (log 15). -/
def Obligations.TaskSwap : Prop :=
  ∀ (s : State) (rd ra : SReg), isCommand s.cur = false → ¬ s.hart.level = .u → let d := dieOf s.cur
    let h := if s.rS ra = 0 then s.hart.offer.getD 0 else s.rS ra
    let k := h.toNat % 4096
    let y := taskAt s d k
    let named := ¬ y.gen = 0 ∧ h.toNat / 2 ^ 12 % 2 ^ 20 = d ∧ h.toNat / 2 ^ 32 = y.gen.toNat ∧ y.state ∈ [TaskState.suspended, .ready]
    (¬ named → Completes (.tspawnSwap rd ra) s s rd 0)
    ∧ (∀ keep, named → boundaryReady (.swap rd ra) s = .ok () → (∀ o, s.hart.task = some o → o < 4096 ∧ ¬ o = k) →
        boundaryTry s s.cur y.min y.pref 0 = some (keep, 0) →
        let old := match s.hart.task with | some o => handleOf s d o | none => 0
        let core := coreOf s.cur
        ∃ t, exec (.tspawnSwap rd ra) s = .next t ∧ t.hart.pc = s.hart.pc + 4 ∧ t.hart.task = some k
          ∧ t.hart.grant = clusterSet keep ∧ zeroing t core = zeroing s core ||| (s.hart.grant &&& ~~~ clusterSet keep)
          ∧ t.hart.prio = y.tprio ∧ t.hart.offer = (if s.rS ra = 0 then none else s.hart.offer)
          ∧ t.hart.preempt = (if s.rS ra = 0 then false else s.hart.preempt) ∧ t.hart.level = s.hart.level
          ∧ (∀ o, s.hart.task = some o → taskAt t d o = { taskAt s d o with state := .suspended, ceff := s.hart.stat.ceff })
          ∧ (∀ g, g ≠ s.cur → t.hartAt g = s.hartAt g) ∧ (∀ a, memByte t a = memByte s a)
          ∧ (y.started = true → ScalarIs s t rd old ∧ taskAt t d k = { y with state := .running }
            ∧ t.hart.stat = { s.hart.stat with ceff := y.ceff } ∧ t.hart.strap = s.hart.strap ∧ t.hart.hwm = s.hart.hwm
            ∧ (∀ r, t.rF r = s.rF r) ∧ t.hart.mregs = s.hart.mregs ∧ t.slots = s.slots
            ∧ ∀ r c, cell t core r c = cell s core r c)
          ∧ (y.started = false →
            (∀ r, t.rS r = if r = 0 then 0 else if r = rd then old else if r = 1 then y.arg
              else if r = 2 then handleOf s d k else if r = 30 then y.stack else 0)
            ∧ taskAt t d k = { y with
                state := .running
                min := y.cmin
                pref := y.cpref
                producer := none
                bcur := 0
                phw := 0 }
            ∧ t.hart.stat = { s.hart.stat with ceff := false, spp := false, spie := true }
            ∧ t.hart.strap = { s.hart.strap with pc := y.entry, vsi := 0 } ∧ t.hart.hwm = ⟨false, 0, 0⟩
            ∧ t.hart.conf = { VConf.reset with vew := y.tew } ∧ (∀ r, t.rF r = 0) ∧ (∀ r, t.hart.rM r = 0)
            ∧ (∀ j, j < 16 → slotAt t s.cur j = Slot.reset)
            ∧ ∀ r p c, r < 48 → p ∈ keep → c < 16 → cell t core r (16 * p + c) = 0 ∧ cellMark t core r (16 * p + c) = false
                ∧ unlanded t core r p = false))

/-! Command harts -/

/-- R405 to R408: semaphores, queues, interrupts and queue selection on a command hart. `launch` and `copy` read their record
once; at a full queue they wait for room with the entry they read. -/
def Obligations.CommandInstructions : Prop :=
  ∀ (s : State) (rd ra rb : SReg), isCommand s.cur = true → let a := (s.rS ra).toNat; let x := s.hart
    (a < 256 → ((s.rS rb).toNat ≤ (semAt s a).toNat → Completes (.semWaitGe rd ra rb) s s rd (semAt s a))
      ∧ ((semAt s a).toNat < (s.rS rb).toNat → WaitsAt (.semWaitGe rd ra rb) s s .retry)
      ∧ Completes (.semSig rd ra rb) s (setReg s (semPa a) (s.rS rb)) rd (semAt s a)
      ∧ Completes (.semSigAdd rd ra rb) s (setReg s (semPa a) (semAt s a + s.rS rb)) rd (semAt s a))
    ∧ (∀ u b, a % 32 = 0 → hartReadWords s (s.rS ra) 4 = .ok (u, b) →
        ∀ p ∈ [(Instr.launch rd ra, parseLaunch b, x.cq.toNat), (.copy rd ra, parseCopy b, x.xq.toNat)],
          let q := queueAt u (ioOf s.cur) p.2.2
          (p.2.1 = none → Completes p.1 s u rd (BitVec.allOnes 64))
          ∧ (∀ e, p.2.1 = some e → q.entries.length < 64 →
              Completes p.1 s (setQueue u (ioOf s.cur) p.2.2 { q with entries := q.entries ++ [e] }) rd
                (BitVec.ofNat 64 ((q.head.toNat + q.entries.length) % 2 ^ 32)))
          ∧ (∀ e, p.2.1 = some e → 64 ≤ q.entries.length → WaitsAt p.1 s u (.enqueue (ioOf s.cur) p.2.2 e rd)))
    ∧ (∀ io k e r, x.hold = .enqueue io k e r → let q := queueAt s io k
        (q.entries.length < 64 → ∃ t, execEnqueueWait s = .next t ∧ t.hart.pc = x.pc + 4 ∧ t.hart.hold = .none
          ∧ queueAt t io k = { q with entries := q.entries ++ [e] }
          ∧ ScalarIs s t r (BitVec.ofNat 64 ((q.head.toNat + q.entries.length) % 2 ^ 32)))
        ∧ (64 ≤ q.entries.length → execEnqueueWait s = .next s))
    ∧ (a < 2048 → Advances (.irq ra) s (sendMsi s a))
    ∧ (a < 0xE0 → (extQueue s ((s.rS rb).toNat % 4096)).length < 16 →
        let h := (s.rS rb).toNat % 4096
        Advances (.irqHart ra rb) s { s with cores := { s.cores with extQ := sset [] s.cores.extQ h (extQueue s h ++ [a]) } })
    ∧ (let old := BitVec.ofNat 64 (x.cq.toNat + 16 * x.xq.toNat)
       (a < 8 → Completes (.qsel rd ra) s (s.putHart { x with cq := BitVec.ofNat 3 a }) rd old)
       ∧ (8 ≤ a → a < 12 → Completes (.qsel rd ra) s (s.putHart { x with xq := BitVec.ofNat 4 a }) rd old)
       ∧ (12 ≤ a → Completes (.qsel rd ra) s s rd (BitVec.allOnes 64)))

/-! Vector instructions -/

/-- R159 to R162: integer arithmetic, logic, shifts, counts, moves, merges, `vid` and the slides by one, on each active
body element; saturating forms clamp with SATF. -/
def Obligations.VectorIntegers : Prop :=
  ∀ (s : State) (o : VOp), VReady s → tyWidth o.ta = s.ew →
    let w := tyWidth o.ta
    let x := fun e => elemAt s o.va.toNat w e
    let y := fun e => opndOf s o e
    let a := fun e => intOf o.ta (x e)
    let b := fun e => intOf o.ta (y e)
    let puts := fun (i : Instr) (f : Nat → Int) => i.wf = true → VectorPuts i s o.vd w o.mask fun e => fitInt o.ta o.mod1 (f e)
    let copies := fun (i : Instr) (f : Nat → Nat) => i.wf = true → VectorPuts i s o.vd w o.mask fun e => (f e, 0)
    let scalar := (if o.mod1 then s.rF o.ss else s.rS o.ss).toNat
    puts (.vadd o) (fun e => a e + b e)
    ∧ puts (.vsub o) (fun e => a e - b e)
    ∧ puts (.vrsub o) (fun e => b e - a e)
    ∧ puts (.vmul o) (fun e => a e * b e)
    ∧ puts (.vmulh o) (fun e => a e * b e / 2 ^ w)
    ∧ puts (.vdiv o) (fun e => if b e = 0 then -1 else (a e).tdiv (b e))
    ∧ puts (.vrem o) (fun e => if b e = 0 then a e else (a e).tmod (b e))
    ∧ puts (.vmin o) (fun e => min (a e) (b e))
    ∧ puts (.vmax o) (fun e => max (a e) (b e))
    ∧ puts (.vmacc o) (fun e => intOf o.ta (elemAt s o.vd.toNat w e) + a e * b e)
    ∧ puts (.vabs o) (fun e => (a e).natAbs)
    ∧ copies (.vand o) (fun e => x e &&& y e)
    ∧ copies (.vor o) (fun e => x e ||| y e)
    ∧ copies (.vxor o) (fun e => x e ^^^ y e)
    ∧ copies (.vsll o) (fun e => x e * 2 ^ (y e % w))
    ∧ copies (.vsrl o) (fun e => x e / 2 ^ (y e % w))
    ∧ copies (.vsra o) (fun e => ((BitVec.ofNat w (x e)).toInt / 2 ^ (y e % w) % 2 ^ w).toNat)
    ∧ copies (.vclz o) (fun e => if x e = 0 then w else w - 1 - Nat.log2 (x e))
    ∧ copies (.vpopc o) (fun e => ((List.range w).filter fun i => (x e).testBit i).length)
    ∧ copies (.vmv o) (fun e => match o.src with | .vr _ _ _ => if o.mod0 then y e else x e | .vi _ => y e)
    ∧ copies (.vid o) (fun e => e)
    ∧ copies (.vslide1Up o) (fun e => if e = 0 then scalar else x (e - 1))
    ∧ copies (.vslide1Dn o) (fun e => if e + 1 = s.vl then scalar else x (e + 1))
    ∧ ((Instr.vmerge o).wf = true → VectorPuts (.vmerge o) s o.vd w 0 fun e => (if s.hart.active o.mask e then y e else x e, 0))

/-- R163 to R165, R172, R173: each floating-point element is one rounding of the exact value; sign injection, classes and
copies of bits raise no flag; `vpenny` gives the probability code of 2^a in 8-bit elements. A NaN immediate of a sign
injection keeps its sign (log 65), and an immediate that TA cannot hold is rounded (log 86); the special functions are those of
log 11, and NX of a conversion to an integer out of range is log 17. -/
def Obligations.VectorFloats : Prop :=
  ∀ (s : State) (o : VOp), VReady s →
    let w := tyWidth o.ta
    let x := fun e => elemAt s o.va.toNat w e
    let a := fun e => decode o.ta (x e)
    let b := fun e => opndValueOf s o e
    let d := fun e => decode o.ta (elemAt s o.vd.toNat w e)
    let rm := o.rms.getD s.hart.rmode
    let puts := fun (i : Instr) (v : Nat → Val × Flags) =>
      i.wf = true → w = s.ew → VectorPuts i s o.vd w o.mask fun e => roundedAt s o e (v e)
    let signs := fun (i : Instr) (sg : Bool → Bool → Bool) =>
      i.wf = true → w = s.ew → VectorPuts i s o.vd w o.mask fun e =>
        let sb := match o.src with | .vi imm => imm.getLsbD 15 | .vr _ _ _ => (opndOf s o e).testBit (w - 1)
        (x e % 2 ^ (w - 1) + (if sg ((x e).testBit (w - 1)) sb then 2 ^ (w - 1) else 0), 0)
    puts (.vfadd o) (fun e => vadd2 rm (a e) (b e))
    ∧ puts (.vfsub o) (fun e => vadd2 rm (a e) (vneg (b e)))
    ∧ puts (.vfmul o) (fun e => vmul (a e) (b e))
    ∧ puts (.vfdiv o) (fun e => vdiv (a e) (b e))
    ∧ puts (.vfsqrt o) (fun e => vsqrt (a e))
    ∧ puts (.vfmin o) (fun e => vminmax false (a e) (b e))
    ∧ puts (.vfmax o) (fun e => vminmax true (a e) (b e))
    ∧ puts (.vfmadd o) (fun e => let p := vmul (a e) (b e); let q := vadd2 rm p.1 (d e); (q.1, p.2 ||| q.2))
    ∧ puts (.vfnmsub o) (fun e => let p := vmul (a e) (b e); let q := vadd2 rm (vneg p.1) (d e); (q.1, p.2 ||| q.2))
    ∧ puts (.vexp2 o) (fun e => vexp2 (a e))
    ∧ puts (.vlog2 o) (fun e => vlog2 (a e))
    ∧ puts (.vrsqrt o) (fun e => vrsqrt (a e))
    ∧ puts (.vrecip o) (fun e => vrecip (a e))
    ∧ puts (.vtanh o) (fun e => vtanh (a e))
    ∧ signs (.vfsgn o) (fun _ n => n)
    ∧ signs (.vfsgnN o) (fun _ n => !n)
    ∧ signs (.vfsgnX o) (fun m n => m != n)
    ∧ ((Instr.vfclass o).wf = true → w = s.ew → VectorPuts (.vfclass o) s o.vd w o.mask fun e => (classOf o.ta (x e), 0))
    ∧ ((Instr.vpenny o).wf = true → w = s.ew →
        VectorPuts (.vpenny o) s o.vd 8 o.mask fun e => prob s.hart.pmode (vexp2 (a e)).1)
    ∧ ((Instr.vcvt o).wf = true → max (tyWidth o.tb) w = s.ew → VectorPuts (.vcvt o) s o.vd w o.mask fun e =>
        let z := elemAt s o.va.toNat (tyWidth o.tb) e
        let r : Rnd := ⟨rm, o.mod1, s.hart.conf.srseed.toNat, e, o.vd.toNat⟩
        if isInt o.ta = true ∧ isInt o.tb = true then fitInt o.ta o.mod1 (intOf o.tb z)
        else if isInt o.ta then toInt o.ta (decode o.tb z) r
        else round o.ta (decode o.tb z) r)

/-- R166: comparisons and mask logic write bits of a mask register, counts and positions a scalar register, `miota` a
vector register. Counts and positions write nothing when `vsi` is at or past `vl` (log 33). -/
def Obligations.MaskInstructions : Prop :=
  ∀ (s : State) (o : VOp) (c : CmpOp), VReady s →
    let w := tyWidth o.ta
    let a := fun e => decode o.ta (elemAt s o.va.toNat w e)
    let b := fun e => opndValueOf s o e
    let ma := fun e => (s.hart.rM o.va.toNat).getLsbD e
    let mb := fun e => (s.hart.rM o.vb).getLsbD e
    let holds := fun (r : Ordering) => match c with
      | .eq => r == .eq | .ne => r != .eq | .lt => r == .lt | .le => r != .gt | .gt => r == .gt | .ge => r != .lt
    let logic := fun (i : Instr) (f : Bool → Bool → Bool) =>
      i.wf = true → MaskPuts i s o.vd.toNat o.mask fun e => (f (ma e) (mb e), 0)
    let hits := (performed s o.mask).filter ma
    ((Instr.vcmp c o).wf = true → w = s.ew →
      MaskPuts (.vcmp c o) s o.vd.toNat o.mask fun e => (holds (vcmp (a e) (b e)), 0))
    ∧ ((Instr.vfcmp c o).wf = true → w = s.ew → MaskPuts (.vfcmp c o) s o.vd.toNat o.mask fun e =>
        if isNaN (a e) || isNaN (b e) then
          (c == .ne, if c = .eq ∨ c = .ne then sigFlag (a e) ||| sigFlag (b e) else fNV)
        else (holds (vcmp (a e) (b e)), 0))
    ∧ logic (.mand o) (fun m n => m && n)
    ∧ logic (.mor o) (fun m n => m || n)
    ∧ logic (.mxor o) (fun m n => m != n)
    ∧ logic (.mandn o) (fun m n => m && !n)
    ∧ ((Instr.mfill o).wf = true →
        MaskPuts (.mfill o) s o.vd.toNat o.mask fun e => (decide (e < (s.rS o.ss).toNat), 0))
    ∧ ((Instr.mpopc o).wf = true → ScalarTakes (.mpopc o) s false o.ss (BitVec.ofNat 64 hits.length) 0)
    ∧ ((Instr.mfirst o).wf = true →
        ScalarTakes (.mfirst o) s false o.ss (match hits with | [] => BitVec.allOnes 64 | e :: _ => BitVec.ofNat 64 e) 0)
    ∧ ((Instr.miota o).wf = true → w = s.ew →
        VectorPuts (.miota o) s o.vd w o.mask fun e => (((List.range e).filter ma).length, 0))

/-- R167, R168: slides, gather, compress, extract and insert. Sources at or above VLMAX are 0, and `vslideup` leaves the
elements below its distance. `vext` writes nothing when `vsi` is at or past `vl` (log 33). -/
def Obligations.Permutations : Prop :=
  ∀ (s : State) (o : VOp), VReady s → tyWidth o.ta = s.ew →
    let w := tyWidth o.ta
    let x := fun e => elemAt s o.va.toNat w e
    let vmax := 1024 * grantCount s.hart.grant / w
    let by' := match o.src with | .vi imm => imm.toNat | .vr _ _ _ => (s.rS o.ss).toNat
    let scalar := (if o.mod1 then s.rF o.ss else s.rS o.ss).toNat
    let copies := fun (i : Instr) (f : Nat → Nat) => i.wf = true → VectorPuts i s o.vd w o.mask fun e => (f e, 0)
    let moved := fun (i : Instr) (l : List Nat) (v : Nat → Nat) => i.wf = true →
      ∃ t, exec i s = .next t ∧ VDone s t 0 ∧ SameRegs s t ∧ RowsAre s t [(o.vd.toNat, w)] (fun _ e => v e)
        ∧ t.hart.hwm = hwmAfter s.hart.hwm (l.map fun _ => o.vd.toNat) (s.vl * w / 8)
    let below := fun e => ((List.range e).filter fun k => s.hart.active o.mask k).length
    moved (.vslideup o) ((performed s o.mask).filter fun e => decide (by' ≤ e))
        (fun e => if bodyActive s o.mask e = true ∧ by' ≤ e then x (e - by') else elemAt s o.vd.toNat w e)
    ∧ copies (.vslidedn o) (fun e => if e + by' < vmax then x (e + by') else 0)
    ∧ copies (.vrgather o) (fun e => let k := elemAt s o.vb w e; if k < vmax then x k else 0)
    ∧ moved (.vcompress o) (performed s o.mask) (fun j =>
        match (performed s o.mask).find? fun e => below e == j with
        | some e => x e
        | none => elemAt s o.vd.toNat w j)
    ∧ moved (.vins o) ((performed s o.mask).filter fun e => e == by')
        (fun e => if bodyActive s o.mask e = true ∧ e = by' then scalar % 2 ^ w else elemAt s o.vd.toNat w e)
    ∧ ((Instr.vext o).wf = true →
        let v := if by' < s.vl then x by' else 0
        ScalarTakes (.vext o) s o.mod1 o.ss
          (if o.mod1 = false ∧ isSigned o.ta = true then BitVec.ofInt 64 (intOf o.ta v) else BitVec.ofNat 64 v) 0)

/-- R73, R74, R169 to R171: a reduction gives the root of the tree over the active elements combined with its seed; with
no active element the register keeps its bits. A floating-point `vredsum.sat` sums without saturation (log 19). -/
def Obligations.Reductions : Prop :=
  ∀ (s : State) (o : VOp), VReady s →
    let w := tyWidth o.ta
    let fp := isFloat o.ta
    let rm := o.rms.getD s.hart.rmode
    let leaf := fun e => if bodyActive s o.mask e then some (elemAt s o.va.toNat w e) else none
    let seed := (if fp then s.rF o.ss else s.rS o.ss).toNat % 2 ^ w
    let takes := fun (i : Instr) (f : Combine) => i.wf = true → w = s.ew →
      let r := treeSum f seed leaf s.vl
      ScalarTakes i s fp o.ss (match r.1 with
        | none => if fp then s.rF o.ss else s.rS o.ss
        | some v => if isSigned o.ta then BitVec.ofInt 64 (intOf o.ta v) else BitVec.ofNat 64 (v % 2 ^ w)) r.2
    let both := fun (i : Instr) (f : Int → Int → Int) (g : Val → Val → Val × Flags) =>
      takes i (if fp then roundStep s o.ta o g else intStep o.ta o.mod1 f)
    both (.vredsum o) (fun a b => a + b) (vadd2 rm)
    ∧ both (.vredmax o) max (vminmax true)
    ∧ both (.vredmin o) min (vminmax false)
    ∧ takes (.vredand o) (fun _ a b => (a &&& b, 0))
    ∧ takes (.vredor o) (fun _ a b => (a ||| b, 0))
    ∧ ((Instr.vredbs o).wf = true → s.ew = 8 →
        let n := blockLen o.ta
        let terms := fun b => ((performed s o.mask).filter fun e => decide (e / n = b)).map fun e =>
          blockElem o.ta (elemAt s o.va.toNat 8 e)
        let sum := fun b => vsum rm (terms b)
        let whole := fun b => round o.tb (scaleBy (sum b).1 (blockScale o.ta (elemAt s o.vb 8 b)))
          ⟨rm, false, s.hart.conf.srseed.toNat, 2 ^ 21 + b, 0x200 + o.ss.toNat⟩
        let blocks := (List.range ((s.vl + n - 1) / n)).filter fun b => !(terms b).isEmpty
        let r := treeSum (roundStep s o.tb o (vadd2 rm)) ((s.rF o.ss).toNat % 2 ^ tyWidth o.tb)
          (fun b => if blocks.contains b then some (whole b).1 else none) ((s.vl + n - 1) / n)
        ScalarTakes (.vredbs o) s true o.ss
          (match r.1 with | none => s.rF o.ss | some v => BitVec.ofNat 64 (v % 2 ^ tyWidth o.tb))
          (r.2 ||| raisedBy blocks fun b => (sum b).2 ||| (whole b).2))

/-- R174 to R178, R180: Vault loads, when every element's address resolves to readable storage. `.take` empties the lines
read; nothing else is written but the destination registers. -/
def Obligations.VaultLoads : Prop :=
  ∀ (s : State) (o : VOp) (pa v : Nat → Nat) (p : Nat → HeldPlace), VReady s → (o.mod0 = true → s.space = 0) →
    let w := tyWidth o.ta
    let n := w / 8
    let base : Int := (s.rS o.ss).toNat
    let off : Int := match o.src with | .vi imm => imm.toInt | .vr _ _ _ => 0
    let act := performed s o.mask
    let loads := fun (i : Instr) (addr : Nat → Int) => i.wf = true →
      (∀ e ∈ act, resolve s false n n (addr e) = .ok (pa e) ∧ heldPlace (pa e) n = some (p e)
        ∧ readReady s (pa e) = .ok () ∧ readAt s (pa e) n = .ok (v e)) →
      ∃ t, exec i s = .next t ∧ MDone s t 0 s.hart ∧ SameRegs s t
        ∧ RowsAre s t [(o.vd.toNat, w)] (fun _ e => if bodyActive s o.mask e then v e else elemAt s o.vd.toNat w e)
        ∧ t.hart.hwm = hwmAfter s.hart.hwm (act.map fun _ => o.vd.toNat) (s.vl * s.ew / 8)
        ∧ (o.mod0 = false → SameStores s t)
        ∧ (o.mod0 = true → t.mem = s.mem ∧ ∀ c q, c < 512 → q < 2 ^ 24 → vaultByte t c q = vaultByte s c q
            ∧ vaultMark t c q = vaultMark s c q
            ∧ lineEmpty t c q = (lineEmpty s c q
                || decide (c = coreOf s.cur) && act.any fun e => (addr e).toNat / 128 == q / 128))
    (w = s.ew → loads (.vld o) fun e => base + off + (e * n : Nat))
    ∧ (w = s.ew → loads (.vlds o) fun e => base + e * off)
    ∧ (max w (tyWidth o.tb) = s.ew → loads (.vldx o) fun e => base + (elemAt s o.vb (tyWidth o.tb) e : Nat))
    ∧ ((Instr.vldseg o).wf = true → s.ew = 8 → s.vsi % 32 = 0 → ∀ ps : Nat → List Nat,
        let narrow := segBytes o.ta = 24
        let m := if blockLen o.ta = 8 then 4 else 1
        let segs := (List.range ((s.vl + 31) / 32)).filter fun k => decide (s.vsi / 32 ≤ k)
        let code := fun e => if narrow then v (e / 32) / 2 ^ (4 * (e % 32)) % 16 else v (e / 32) / 2 ^ (8 * (e % 32)) % 256
        let scale := fun j => v (j / m) / 2 ^ (8 * ((if narrow then 16 else 32) + j % m)) % 256
        (∀ k ∈ segs, segParts s o false k = .ok (ps k) ∧ partsReady s readReady (ps k) = .ok ()
          ∧ readParts s (ps k) = .ok (v k)) →
        ∃ t, exec (.vldseg o) s = .next t ∧ MDone s t 0 s.hart ∧ SameRegs s t ∧ SameStores s t
          ∧ RowsAre s t [(o.vd.toNat, 8), (segVc o, 8)] (fun r e =>
              if r = o.vd.toNat then (if s.vsi ≤ e ∧ e < s.vl then code e else elemAt s r 8 e)
              else if segs.contains (e / m) then scale e else elemAt s r 8 e)
          ∧ t.hart.hwm = hwmAfter s.hart.hwm (segs.map fun _ => max o.vd.toNat (segVc o)) s.vl)

/-- R174 to R178, R180, R316: Vault stores, when every element's address resolves to HBM or a Vault, in ascending order
of the elements. `.put` finds its lines empty; every line written becomes full; a line that a unit-stride store covers
loses its mark. The line accesses are those of log 43. -/
def Obligations.VaultStores : Prop :=
  ∀ (s : State) (o : VOp), VReady s → (o.mod0 = true → s.space = 0) →
    let w := tyWidth o.ta
    let n := w / 8
    let base : Int := (s.rS o.ss).toNat
    let off : Int := match o.src with | .vi imm => imm.toInt | .vr _ _ _ => 0
    let act := performed s o.mask
    let stores := fun (i : Instr) (unit : Bool) (addr : Nat → Int) => i.wf = true → ∀ (pa : Nat → Nat) (p : Nat → HeldPlace),
      (∀ e ∈ act, resolve s true n n (addr e) = .ok (pa e) ∧ heldPlace (pa e) n = some (p e)
        ∧ (o.mod0 = true → lineReadsEmpty s (coreOf s.cur) (addr e).toNat = true)) →
      ∃ t, exec i s = .next t
        ∧ MDone s t 0 { s.hart with stat := { s.hart.stat with
            ceff := s.hart.stat.ceff || o.mod0 && act.any fun e => !s.hart.grant.getLsbD ((addr e).toNat / 2 ^ 21) } }
        ∧ SameRegs s t ∧ RowsAre s t [] (fun _ _ => 0) ∧ t.hart.hwm = s.hart.hwm
        ∧ StoresMade s t act n p (fun e => elemAt s o.vd.toNat w e) (fun c q => unit && !decide (s.space = 1)
            && (List.range 128).all fun b => act.any fun e => (p e).covers n c (q / 128 * 128 + b))
    (w = s.ew → stores (.vst o) true fun e => base + off + (e * n : Nat))
    ∧ (w = s.ew → stores (.vsts o) false fun e => base + e * off)
    ∧ (max w (tyWidth o.tb) = s.ew → stores (.vstx o) false fun e => base + (elemAt s o.vb (tyWidth o.tb) e : Nat))
    ∧ ((Instr.vstseg o).wf = true → s.ew = 8 → s.vsi % 32 = 0 → ∀ (pa : Nat → Nat → Nat) (p : Nat × Nat → HeldPlace),
        let narrow := segBytes o.ta = 24
        let m := if blockLen o.ta = 8 then 4 else 1
        let parts := segBytes o.ta / 8
        let segs := (List.range ((s.vl + 31) / 32)).filter fun k => decide (s.vsi / 32 ≤ k)
        let codes := fun k => (List.range 32).foldr (fun q acc => acc * (if narrow then 16 else 256)
          + (if 32 * k + q < s.vl then elemAt s o.vd.toNat 8 (32 * k + q) % (if narrow then 16 else 256) else 0)) 0
        let scales := fun k => (List.range m).foldr (fun q acc => acc * 256 + elemAt s (segVc o) 8 (m * k + q)) 0
        let v := fun k => codes k + 2 ^ (8 * if narrow then 16 else 32) * scales k
        (∀ k ∈ segs, segParts s o true k = .ok ((List.range parts).map (pa k))
          ∧ ∀ i, i < parts → heldPlace (pa k i) 8 = some (p (k, i))) →
        ∃ t, exec (.vstseg o) s = .next t ∧ MDone s t 0 s.hart ∧ SameRegs s t ∧ RowsAre s t [] (fun _ _ => 0)
          ∧ t.hart.hwm = s.hart.hwm
          ∧ StoresMade s t ((segs.map fun k => (List.range parts).map fun i => (k, i)).flatten) 8 p
              (fun x => v x.1 / 2 ^ (64 * x.2) % 2 ^ 64) (fun _ _ => false))

/-- R185 to R199: an update applies its units from `vsi` on to every active column of its rows, each unit one
accumulation step of the cell (R196) over terms that `Update.step` reads from the Vault, and leaves the rows busy. The results are
written at issue (log 23). -/
def Obligations.SquareUpdates : Prop :=
  ∀ (s : State) (o : SqOp), VReady s → tyWidth (accTy o.ta) = s.ew →
    let updates := fun (i : Instr) (ordered sparse : Bool) (k : Nat) => i.wf = true →
      let d : Update := ⟨o, ordered, sparse, k, (s.rS o.sa).toNat, (s.rS o.sb).toNat⟩
      let us := (List.range (if s.vl = 0 then 0 else d.units)).filter fun u => decide (s.vsi ≤ u)
      let cols := activeCols s o.mask
      let acc := fun i e => us.foldl (fun x u => let r := d.step s u i e x.1; (r.1, x.2 ||| r.2))
        (if o.acc = 2 ∧ s.vsi = 0 then 0 else elemAt s (o.vd.toNat + i) s.ew e, (0 : Flags))
      d.depthFits = true → d.sa % 8 = 0 → d.sb % 8 = 0 → (∀ u ∈ us, VaultReadable s (d.reads s u)) →
      ∃ t, exec i s = .next t
        ∧ MDone s t (raisedBy (List.range (sqG o)) fun i => raisedBy cols fun e => (acc i e).2)
            (if us = [] then s.hart else { s.hart with updBusy := rowMask (sqRows o) })
        ∧ SameRegs s t ∧ SameStores s t
        ∧ RowsAre s t ((sqRows o).map fun r => (r, s.ew)) (fun r e =>
            if cols.contains e then (acc (r - o.vd.toNat) e).1 % 2 ^ s.ew else elemAt s r s.ew e)
        ∧ t.hart.hwm = hwmAfter s.hart.hwm (if us = [] ∨ cols = [] then [] else sqRows o) (s.vl * s.ew / 8)
    updates (.mop o) true false 1
    ∧ updates (.mmkO o) true false (s.rS o.sc).toNat
    ∧ updates (.mmkF o) false false (s.rS o.sc).toNat
    ∧ updates (.mmksO o) true true (s.rS o.sc).toNat
    ∧ updates (.mmksF o) false true (s.rS o.sc).toNat

/-- R204 to R206, R208 to R211, R316: zeroing, column and diagonal views, and drains, for the rows from `vsi` on. A drain at the
full rate clears the marks of the lines that one row writes whole. Drains write at issue (log 23). -/
def Obligations.SquareMoves : Prop :=
  ∀ (s : State) (o : SqOp), VReady s →
    let g := sqG o
    let vd := o.vd.toNat
    let sc := (s.rS o.sc).toNat
    let cols := activeCols s o.mask
    let rows := (List.range g).filter fun i => decide (s.vsi ≤ i)
    let picked := rows.filter fun i => s.hart.active o.mask i && decide (i < 1024 * grantCount s.hart.grant / s.ew)
    let col := fun (diag : Bool) i => sc + if diag then i else 0
    let moves := fun (i : Instr) (rows' : List (Nat × Nat)) (v : Nat → Nat → Nat) (noted : List Nat) =>
      ∃ t, exec i s = .next t ∧ VDone s t 0 ∧ SameRegs s t ∧ RowsAre s t rows' v
        ∧ t.hart.hwm = hwmAfter s.hart.hwm noted (s.vl * s.ew / 8)
    let gets := fun (i : Instr) (diag : Bool) => i.wf = true → tyWidth o.ta = s.ew →
      moves i [(o.x, s.ew)] (fun r e => if picked.contains e then
          (if col diag e < s.vl then elemAt s (vd + e) s.ew (col diag e) else 0) else elemAt s r s.ew e)
        (picked.map fun _ => o.x)
    let puts := fun (i : Instr) (diag : Bool) => i.wf = true → tyWidth o.ta = s.ew →
      moves i ((sqRows o).map fun r => (r, s.ew)) (fun r e =>
          if picked.contains (r - vd) = true ∧ e = col diag (r - vd) ∧ e < s.vl then elemAt s o.x s.ew (r - vd)
          else elemAt s r s.ew e)
        ((picked.filter fun i => decide (col diag i < s.vl)).map fun i => vd + i)
    ((Instr.mzero o).wf = true → moves (.mzero o) ((sqRows o).map fun r => (r, s.ew))
      (fun r e => if rows.contains (r - vd) && cols.contains e then 0 else elemAt s r s.ew e)
      (if cols = [] then [] else rows.map fun i => vd + i))
    ∧ gets (.mcolGet o) false ∧ gets (.mdiagGet o) true ∧ puts (.mcolPut o) false ∧ puts (.mdiagPut o) true
    ∧ ((Instr.mdrain o).wf = true → tyWidth o.ta = s.ew →
        let wb := tyWidth o.tb / 8
        let cells := (rows.map fun i => cols.map fun e => (i, e)).flatten
        let place := fun (x : Nat × Nat) => drainPlace s o x.1 x.2
        let result := fun (x : Nat × Nat) =>
          let a := decode o.ta (elemAt s (vd + x.1) s.ew x.2)
          let m := decode .fp32 (gather (fun k => vaultByte s (coreOf s.cur) (multPlace s o x.2 + k)) 0 4)
          let p := if o.sqmod.getLsbD 6 then vmul a m else (a, 0)
          let q := drainResult s o x.2 (vd + x.1) p.1
          (q.1, p.2 ||| q.2)
        let sa := (s.rS o.sa).toNat
        let stride := sc / 2 ^ 16 % 2 ^ 24
        let full := o.sqmod.getLsbD 5 && decide (sa % 128 = 0) && decide (stride % 128 = 0)
          && cells.all fun x => decide (place x / 2 ^ 21 = (clustersOf s.hart.grant).getD (x.2 / (1024 / s.ew)) 0)
        sa % wb = 0 → stride % wb = 0 →
        (o.sqmod.getLsbD 6 = true → (s.rS o.sb).toNat % 128 = 0 ∧ (s.rS o.sb).toNat < 2 ^ 21) →
        (¬ rows = [] → o.sqmod.getLsbD 6 = true → VaultReadable s (cols.map fun e => (multPlace s o e, 4))) →
        (∀ x ∈ cells, place x + wb ≤ 2 ^ 24) →
        ∃ t, exec (.mdrain o) s = .next t
          ∧ MDone s t (cells.foldl (fun f x => f ||| (result x).2) 0)
              (if rows = [] then s.hart else { s.hart with drainBusy := rowMask (rows.map fun i => vd + i) })
          ∧ SameRegs s t ∧ RowsAre s t [] (fun _ _ => 0) ∧ t.hart.hwm = s.hart.hwm
          ∧ StoresMade s t cells wb (fun x => .vault (coreOf s.cur) (place x)) (fun x => (result x).1)
              (fun c q => full && decide (c = coreOf s.cur) && rows.any fun i => (List.range 128).all fun b =>
                cols.any fun e => decide (place (i, e) ≤ q / 128 * 128 + b) && decide (q / 128 * 128 + b < place (i, e) + wb)))

/-- R251 to R257: the attention instructions, row by row from `vsi` on (`apv` unit by unit, `amode` in one step). The
mask that `afin` also writes governs later rows with its new bits (log 67); a row sum of `apexp` counts a +0 term of its own
(log 85); `apv` writes its results at issue and leaves its rows busy (log 23). -/
def Obligations.Attention : Prop :=
  ∀ (s : State) (o : VOp), (VReady s → s.ew = 32 →
    let g := o.g1 + 1
    let vd := o.vd.toNat
    let va := o.va.toNat
    let rm := o.rms.getD s.hart.rmode
    let rnd := fun (sat : Bool) (idx tag : Nat) => (⟨rm, sat, s.hart.conf.srseed.toNat, idx, tag⟩ : Rnd)
    let cols := activeCols s o.mask
    let rows := (List.range g).filter fun i => decide (s.vsi ≤ i)
    let f32 := fun r e => decode .fp32 (elemAt s r 32 e)
    let code := fun v => (round .fp32 v ⟨.rne, false, 0, 0, 0⟩).1
    let m := fun i => f32 o.vb i
    let l := fun i => f32 (o.vb + 1) i
    let pm := s.hart.pmode
    let fin := fun (i : Instr) (f : Flags) (rs : List (Nat × Nat)) (v : Nat → Nat → Nat) (noted : List Nat) (regs : State → Prop) =>
      ∃ t, exec i s = .next t ∧ VDone s t f ∧ RowsAre s t rs v ∧ regs t
        ∧ t.hart.hwm = hwmAfter s.hart.hwm noted (s.vl * s.ew / 8)
    ((Instr.akvmask o).wf = true →
      let pos := (s.rS o.ss).toNat
      let win := (s.rS (BitVec.ofNat 5 o.vb)).toNat
      let hit := fun i k =>
        let q := pos / 2 ^ 32 + i
        let p := pos % 2 ^ 32 + k
        (o.mod0 && decide (q < p)) || (!decide (win % 2 ^ 32 = 0) && decide (win % 2 ^ 32 ≤ p))
          || (!decide (win / 2 ^ 32 = 0) && decide (p + win / 2 ^ 32 ≤ q))
      fin (.akvmask o) 0 ((groupRows o o.vd).map fun r => (r, 32))
        (fun r e => if rows.contains (r - vd) && cols.contains e && hit (r - vd) e then 0xFF800000 else elemAt s r 32 e)
        ((rows.filter fun i => cols.any (hit i)).map fun i => vd + i) (SameRegs s))
    ∧ ((Instr.asmax o).wf = true →
      let xs := fun i => cols.map fun k => f32 (va + i) k
      let top := fun i => ((xs i).filter fun x => !isNaN x).foldl (fun a x => (vminmax true a x).1) (.inf true)
      let bad := fun i => isNaN (m i) || (xs i).any isNaN
      let m' := fun i => if bad i then Val.nan false else (vminmax true (m i) (top i)).1
      let alpha := fun i => if bad i then (canonOf .fp32, fNV)
        else if vcmp (m i) (m' i) = .eq then (code (.fin false 1 1), 0)
        else round .fp32 (vexp2 (vadd2 .rne (m i) (vneg (m' i))).1).1 (rnd false i (o.vb + 2 ^ 51))
      fin (.asmax o) (raisedBy rows fun i => (alpha i).2) [(o.vb, 32), (o.vb + 2, 32)]
        (fun r e => if rows.contains e then (if r = o.vb then code (m' e) % 2 ^ 32 else (alpha e).1 % 2 ^ 32)
          else elemAt s r 32 e)
        (rows.map fun _ => o.vb + 2) (SameRegs s))
    ∧ ((Instr.apexp o).wf = true →
      let c := fun i k =>
        let x := f32 (va + i) k
        if isNaN x || isNaN (m i) then (zeroCode pm, fNV)
        else if x = .inf true then (zeroCode pm, 0)
        else if vcmp x (m i) = .eq then prob pm (.fin false 1 1)
        else prob pm (vexp2 (vadd2 .rne x (vneg (m i))).1).1
      let sum := fun i =>
        let p := vmul (f32 (o.vb + 2) i) (l i)
        let v := vsum rm (p.1 :: .fin false 0 1 :: cols.map fun k => pval pm (c i k).1)
        let r := round .fp32 v.1 (rnd false i (o.vb + 1 + 2 ^ 51))
        (r.1, p.2 ||| v.2 ||| r.2 ||| raisedBy cols fun k => (c i k).2)
      fin (.apexp o) (raisedBy rows fun i => (sum i).2) ((o.vb + 1, 32) :: (groupRows o o.vd).map fun r => (r, 8))
        (fun r e => if r = o.vb + 1 then (if rows.contains e then (sum e).1 % 2 ^ 32 else elemAt s r 32 e)
          else if rows.contains (r - vd) && cols.contains e then (c (r - vd) e).1 % 2 ^ 8 else elemAt s r 8 e)
        ((rows.map fun _ => o.vb + 1) ++ if cols = [] then [] else rows.map fun i => vd + i) (SameRegs s))
    ∧ ((Instr.afin o).wf = true →
      let full := fun i => decide (m i = .inf true)
      -- a mask that is also written governs the later rows with its new bits
      let cols := fun i => (List.range s.vl).filter fun e =>
        if o.mask.toNat = va + 1 ∧ s.vsi ≤ e ∧ e < i then full e else s.hart.active o.mask e
      let q := fun i e => if full i then ((0 : Nat), (0 : Flags)) else
        let v := vdiv (f32 (vd + i) e) (l i)
        let r := round .fp32 v.1 (rnd o.mod1 e (vd + i + 2 ^ 50))
        (r.1, v.2 ||| r.2)
      fin (.afin o) (raisedBy rows fun i => raisedBy (cols i) fun e => (q i e).2) ((groupRows o o.vd).map fun r => (r, 32))
        (fun r e => if rows.contains (r - vd) && (cols (r - vd)).contains e then (q (r - vd) e).1 % 2 ^ 32
          else elemAt s r 32 e)
        ((rows.filter fun i => !(cols i).isEmpty).map fun i => vd + i)
        (fun t => (∀ r, t.rS r = s.rS r) ∧ (∀ r, t.rF r = s.rF r) ∧ ∀ k e, e < 1024 → (t.hart.rM k).getLsbD e =
          if k = va ∧ rows.contains e = true then full e else (s.hart.rM k).getLsbD e))
    ∧ ((Instr.apv o).wf = true →
      let d := apvUpd s o
      let nk := (s.rS o.ss).toNat / 2 ^ 32 % 2 ^ 9
      let us := (List.range (if s.vl = 0 then 0 else d.units)).filter fun u => decide (s.vsi ≤ u)
      let step := fun i e (x : Nat × Flags) u =>
        let x' : Val × Flags := if u = 0 then vmul (f32 (o.vb + 2) i) (decode .fp32 x.1) else (decode .fp32 x.1, 0)
        let ts := (d.bTerms s u e).map fun b => pmul o.ta (decode o.tb b.2.2.1) (elemAt s (va + i) 8 b.2.1)
        let v := vsum rm (x'.1 :: ts.map fun p => p.1)
        let r := round .fp32 v.1 (rnd o.mod1 e (vd + i + u * 2 ^ 40 + 2 ^ 49))
        (r.1, ts.foldl (fun f p => f ||| p.2) (x.2 ||| x'.2 ||| v.2 ||| r.2))
      let acc := fun i e => us.foldl (step i e) (elemAt s (vd + i) 32 e, (0 : Flags))
      1 ≤ nk → nk ≤ 32 * grantCount s.hart.grant → (s.rS o.ss).toNat % 2 ^ 24 % 8 = 0 →
      (∀ u ∈ us, spansReady s (d.bSpans s u) = .ok () ∧ linesClean s (spanLines (d.bSpans s u)) = .ok ()) →
      ∃ t, exec (.apv o) s = .next t
        ∧ MDone s t (raisedBy (List.range g) fun i => raisedBy cols fun e => (acc i e).2)
            (if us = [] then s.hart else { s.hart with updBusy := rowMask (apvRows o) })
        ∧ SameRegs s t ∧ SameStores s t
        ∧ RowsAre s t ((groupRows o o.vd).map fun r => (r, 32))
            (fun r e => if cols.contains e then (acc (r - vd) e).1 % 2 ^ 32 else elemAt s r 32 e)
        ∧ t.hart.hwm = hwmAfter s.hart.hwm (if us = [] ∨ cols = [] then [] else groupRows o o.vd) (s.vl * s.ew / 8))
    ∧ ((Instr.amode o).wf = true → o.mod1 = true → ∃ t, exec (.amode o) s = .next t ∧ ModeSet s t o
      ∧ RowsAre s t [(o.vb, 32), (o.vb + 1, 32), (o.vb + 2, 32)] (fun r e =>
          if e < g then (if r = o.vb then 0xFF800000 else if r = o.vb + 1 then 0 else 0x3F800000) else elemAt s r 32 e)
      ∧ t.hart.hwm = hwmAfter s.hart.hwm [o.vb + 2] (s.vl * s.ew / 8)
      ∧ (∀ c r k, c < 512 → r < 48 → k < 128 → cellMark t c r k = cellMark s c r k)
      ∧ { t with
          harts := s.harts
          cores := { t.cores with cells := s.cores.cells }
          marks := { t.marks with cell := s.marks.cell } } = s))
    ∧ ((Instr.amode o).wf = true → o.mod1 = false → isCommand s.cur = false →
        ∃ t, exec (.amode o) s = .next t ∧ ModeSet s t o ∧ t.hart.hwm = s.hart.hwm ∧ { t with harts := s.harts } = s)

/-- R80, R85 to R88: a convoy that begins at index 0, whose slots pass the rules of R87 and each complete on their own after
those before, has the effects of the slots in order; the pc moves past the header and slots. That its rows become busy together is
the model's (log 23). -/
def Obligations.Convoys : Prop :=
  ∀ (s t : State) (n : BitVec 3) (units : BitVec 18) (slots : List Word) (cs : List CSlot),
    (Instr.convoy n units slots).wf = true → isCommand s.cur = false → ¬ s.hart.grant = 0 → s.vsi = 0 → s.hart.stopAt = none →
    Fresh s.hart →
    checkSlots s units 0 [] slots = .ok cs →
    rowsFree s (cs.map fun c => c.prog.rd ++ c.prog.wr).flatten = .ok () →
    SlotsRun (cs.map fun c => c.prog) s t →
    exec (.convoy n units slots) s =
      .next (t.putHart { t.hart with pc := s.hart.pc + 4 + 8 * BitVec.ofNat 64 slots.length })

/-! Streams -/

/-- R219, R220, R230 to R233: each stream instruction, its slot neither RUNNING nor FAULTED, its block readable and legal
and its bases aligned, puts its stream into the slot. A RUNNING slot makes it wait, a FAULTED one and a misplaced or bad
block trap. -/
def Obligations.StreamIssue : Prop :=
  ∀ (s : State) (o : StOp), isCommand s.cur = false →
    let k := o.slot.toNat
    let x := slotAt s s.cur k
    let mem := s.rS o.sa + BitVec.ofInt 64 o.imm.toInt
    let p := BitVec.ofNat 5 o.vd.toNat
    let forms : List (Instr × Nat × SReg × Word × Word) :=
      [(.sld o, 0, p, mem, s.rS o.sb), (.sst o, 1, p, mem, s.rS o.sb), (.sldv o, 2, o.sb, mem, BitVec.ofNat 64 o.vd.toNat),
       (.sgather o, 3, p, mem, s.rS o.sb), (.sscatter o, 4, p, mem, s.rS o.sb), (.spaged o, 5, p, mem, s.rS o.sb),
       (.sfill o, 9, p, 0, s.rS o.sb), (.sfillM o, 9, p, mem, 0)]
    ∀ f ∈ forms, f.1.wf = true → (f.2.1 = 2 → ¬ s.hart.grant = 0) →
      let a := s.rS f.2.2.1
      (x.state = .running → WaitsAt f.1 s s .retry)
      ∧ (x.state = .faulted → Raises f.1 s 0x07 k (BitVec.ofNat 64 (recordPa s.cur k)))
      ∧ (x.state = .idle ∨ x.state = .done → ¬ a.toNat % 64 = 0 → Raises f.1 s 0x06 0 a)
      ∧ (x.state = .idle ∨ x.state = .done → a.toNat % 64 = 0 → ∀ u b, readBlock s a = .ok (u, b) →
          (blockN f.2.1 s.vl s.hart.conf.vew.toNat b = none → exec f.1 s = .next (takeTrap
            (writeRecord u s.cur k [1, 0, 0, 0, a, BitVec.ofNat 64 0xF04]) ⟨0x07, k, BitVec.ofNat 64 (recordPa s.cur k)⟩))
          ∧ (∀ n, blockN f.2.1 s.vl s.hart.conf.vew.toNat b = some n →
              basesAligned u f.2.1 (fieldAt b 1 1) (decide (f.2.1 = 9) && decide (2 ≤ o.smod.toNat)) f.2.2.2.1 f.2.2.2.2 = .ok () →
              let s0 := if f.2.1 = 2 then s.vsi else 0
              (f.2.1 = 2 → ∀ r c, r < 48 → c < 8 → unlanded s (coreOf s.cur) r c = false) →
              ∃ t, exec f.1 s = .next t ∧ Started s u t k { Slot.reset with
                bits := instrBits f.1
                mbase := f.2.2.2.1
                vbase := f.2.2.2.2
                n := n
                s0 := s0
                start := s0
                root := s.hart.root
                asid := s.hart.asid
                level := s.hart.level
                vl := s.hart.conf.vl
                vew := s.hart.conf.vew
                grant := s.hart.grant
                block := b }))

/-- R221, R235, R237, R244 to R246: waiting for streams, their pointers and status words, and resuming, cancelling, saving and
loading a slot. The loaded slot reads its fields as log 41 gives. -/
def Obligations.StreamControl : Prop :=
  ∀ (s : State) (o : StOp), isCommand s.cur = false →
    let k := o.slot.toNat
    let x := slotAt s s.cur k
    let named := (List.range 16).filter fun j => o.imm.getLsbD j
    let st := fun j => (slotAt s s.cur j).state
    let pointer := if x.winOpen then x.pendingList.headD x.n else x.start
    let func := x.bits.toNat / 2 ^ 18 % 2 ^ 4
    let status := (if x.rvalid then ((List.range 1024).filter fun i => x.residue.testBit i).length else 0) * 2 ^ 48
      + pointer % 2 ^ 32 * 2 ^ 16 + (if x.ovf then 2 ^ 9 else 0) + (if x.rvalid then 2 ^ 8 else 0) + func * 2 ^ 4
      + (if func = 1 ∨ func = 9 ∨ (func = 4 ∧ 2 ≤ x.bits.toNat % 4) then 2 ^ 3 else 0)
      + (match x.state with | .idle => 0 | .running => 1 | .done => 2 | .faulted => 3)
    let kept := fun (t : State) => (∀ h j, j < 16 → ¬ (h = s.cur ∧ j = k) → slotAt t h j = slotAt s h j)
      ∧ t.hart = { s.hart with pc := s.hart.pc + 8 } ∧ ∀ h, h ≠ s.cur → t.hartAt h = s.hartAt h
    ((∀ j ∈ named, ¬ st j = .running ∧ ¬ st j = .faulted) → Advances8 (.sbar o) s s)
    ∧ (∀ j ∈ named, st j = .running → WaitsAt (.sbar o) s s .retry)
    ∧ (∀ j ∈ named, st j = .faulted → (∀ i ∈ named, ¬ st i = .running ∧ (st i = .faulted → j ≤ i)) →
        Raises (.sbar o) s 0x07 j (BitVec.ofNat 64 (recordPa s.cur j)))
    ∧ Completes8 (.swp o) s s o.sa (BitVec.ofNat 64 pointer)
    ∧ Completes8 (.sstat o) s s o.sa (BitVec.ofNat 64 status)
    ∧ (x.state = .faulted → ∃ t, exec (.sres o) s = .next t ∧ kept t
        ∧ slotAt t s.cur k = (if x.n ≤ x.start
            then { x.closed with
              start := x.n
              rvalid := false
              residue := 0
              wrote := some []
              state := .done }
            else { x.closed with state := .running })
        ∧ { t with harts := s.harts, slots := s.slots } = s)
    ∧ (¬ x.state = .faulted → Advances8 (.sres o) s s)
    ∧ (x.state = .running ∨ x.state = .faulted → ∃ t, exec (.scancel o) s = .next t ∧ kept t
        ∧ slotAt t s.cur k = { x.closed with state := .idle, start := pointer, rvalid := false, residue := 0 }
        ∧ { t with harts := s.harts, slots := s.slots, marks := { t.marks with unlanded := s.marks.unlanded } } = s
        ∧ (x.vd < 48 → ∀ c r p, c < 512 → r < 48 → p < 8 → unlanded t c r p = (unlanded s c r p
            && !(decide (x.func = 2) && decide (c = coreOf s.cur) && decide (r = x.vd)
              && x.owedGroups.any fun j => (clustersOf x.grant)[j]? == some p))))
    ∧ (x.state = .idle ∨ x.state = .done → Advances8 (.scancel o) s s)
    ∧ (¬ s.hart.level = .u → ¬ x.state = .running → (s.rS o.sa).toNat % 64 = 0 →
        (∀ (u : State) (pas : List Nat) (p : Nat → HeldPlace), chunkPas (s.rS o.sa) s .write 8 (s.rS o.sa) = .ok (u, pas) →
          (∀ i, i < 8 → heldPlace (pas.getD i 0) 64 = some (p i)) →
          let area := status + 2 ^ 64 * x.bits.toNat + 2 ^ 128 * x.mbase.toNat + 2 ^ 192 * x.vbase.toNat
            + 2 ^ 256 * (x.n % 2 ^ 64) + 2 ^ 320 * (x.winBase % 2 ^ 64)
            + 2 ^ 384 * (x.asid.toNat + levelCode x.level * 2 ^ 16)
            + (if x.func = 2 then 2 ^ 448 * (x.vl.toNat + x.vew.toNat * 2 ^ 16 + x.grant.toNat * 2 ^ 24) else 0)
            + 2 ^ 512 * (x.root.toNat * 4096) + 2 ^ 1024 * x.residue + 2 ^ 2048 * x.block
          ∃ t, exec (.sstatSave o) s = .next t ∧ t.hart = { s.hart with pc := s.hart.pc + 8 }
            ∧ StoresMade s t (List.range 8) 64 p (fun i => area / 2 ^ (512 * i) % 2 ^ 512) (fun _ _ => false)
            ∧ ∀ h j, slotAt t h j = slotAt s h j)
        ∧ (∀ u pas b q, chunkPas (s.rS o.sa) s .read 8 (s.rS o.sa) = .ok (u, pas) → partsReady u readReady pas = .ok () →
            readArea u pas = .ok b → savedState b = some q →
          let word := fun i => b / 2 ^ (64 * i) % 2 ^ 64
          let y : Slot := { Slot.reset with
            state := q
            bits := BitVec.ofNat 64 (word 1)
            mbase := BitVec.ofNat 64 (word 2)
            vbase := BitVec.ofNat 64 (word 3)
            n := if word 1 / 2 ^ 18 % 16 = 2
              then min (word 4) (1024 * grantCount s.hart.grant / ewOf (BitVec.ofNat 2 (word 7 / 2 ^ 16))) else word 4
            s0 := word 0 / 2 ^ 16 % 2 ^ 32
            start := word 0 / 2 ^ 16 % 2 ^ 32
            winBase := word 5
            residue := b / 2 ^ 1024 % 2 ^ 1024
            rvalid := (word 0).testBit 8
            ovf := (word 0).testBit 9
            root := BitVec.ofNat 40 (word 8 / 4096)
            asid := BitVec.ofNat 16 (word 6)
            level := match word 6 / 2 ^ 16 % 4 with | 1 => .s | 3 => .m | _ => .u
            vl := BitVec.ofNat 11 (word 7)
            vew := BitVec.ofNat 2 (word 7 / 2 ^ 16)
            grant := s.hart.grant
            block := b / 2 ^ 2048 % 2 ^ 2048
            wrote := none }
          ∃ t, exec (.sresLoad o) s = .next t ∧ kept t
            ∧ slotAt t s.cur k = if q = .faulted then y.begin else y))

/-- R34, R157, R217 to R219, R223 to R234, R238 to R242, R349: what a stream does on its own. It opens its window unless its core is
being cleared of translations; translates a page once in the window; performs the elements of each form, whose memory side is in
HBM, or finds their faults; and with the window over, or an ordered element faulted, stops and leaves its record. An element that a
reissue performs leaves what a higher element has written (log 84). The pages and offsets that the faults of negative packed indexes
name, and the ACCESS of an index out of range, are the model's reading (logs 20, 22, 106); that a window's refusal faults one
access alone is log 83. -/
def Obligations.StreamEngine : Prop :=
  ∀ (s : State) (h k : Nat), k < 16 →
    let x := slotAt s h k
    let e := x.next
    let c := coreOf h
    let ev := Instr.streamElementPerform h k
    let others := fun (t : State) => ∀ g j, j < 16 → ¬ (g = h ∧ j = k) → slotAt t g j = slotAt s g j
    let field := fun (o n : Nat) => x.block / 2 ^ (8 * o) % 2 ^ (8 * n)
    let repack := x.flags / 2 % 2 = 1
    let acc := if x.stores then Acc.write else Acc.read
    let code := if x.stores then 1 else 0
    let fits := ((x.func = 3 ∨ x.func = 4 ∨ x.func = 5) → 8 ≤ x.wbits) ∧ (x.func = 5 → 8 * field 0x30 2 % x.wbits = 0)
      ∧ (repack → x.wbits = 6)
    -- the window
    (x.state = .running → x.winOpen = false → windowHeld s h k = false →
      ∃ t, exec (.streamWindowStart h k) s = .next t ∧ others t ∧ { t with slots := s.slots } = s
        ∧ slotAt t h k = { x.closed with
            winOpen := true
            winBase := if x.rvalid then x.winBase else x.start / 1024 * 1024
            next := x.start
            wrote := if x.rvalid then x.wrote else some [] })
    -- one access: its page, then what a window of Plaza says of it
    ∧ (∀ (m : Acc) (a : Nat), let page := a / 4096 * 4096
        (x.level = .m → slotPage s h k (a / 4096) m = (s, some (.ok page 0 false)))
        ∧ (¬ x.level = .m → ∀ r, assoc (a / 4096) x.pages = some r → slotPage s h k (a / 4096) m = (s, some r))
        ∧ (¬ x.level = .m → assoc (a / 4096) x.pages = none →
            ∀ u r, translateEntry s ⟨x.level, x.root, x.asid, tlbOf h⟩ page m = (u, r) →
              (r = .held → slotPage s h k (a / 4096) m = (u, none))
              ∧ ∀ q, (match r with
                  | .held => False
                  | .ok pa size _ glob => q = if pageBacked u pa then .ok pa size glob else .fault 0 size
                  | .fault kind size => q = .fault kind size
                  | .poison _ => q = .fault 5 0xF) →
                slotPage s h k (a / 4096) m =
                  (setSlot u h k { slotAt u h k with pages := (a / 4096, q) :: (slotAt u h k).pages }, some q))
        ∧ ∀ n b u, (slotPage s h k (a / 4096) m = (u, none) → memPieces s h k m b [(a, n)] = .error (.wait u))
          ∧ (∀ kind size, slotPage s h k (a / 4096) m = (u, some (.fault kind size)) →
              memPieces s h k m b [(a, n)] = .error (.fault u [⟨page, kind, b, size, 1⟩]))
          ∧ ∀ base size glob, slotPage s h k (a / 4096) m = (u, some (.ok base size glob)) →
              (windowSub u (slotAt u h k).level (slotAt u h k).asid m (base + a % 4096) n = none →
                memPieces s h k m b [(a, n)] = .ok (u, [(base + a % 4096, n)]))
              ∧ ∀ sub, windowSub u (slotAt u h k).level (slotAt u h k).asid m (base + a % 4096) n = some sub →
                  memPieces s h k m b [(a, n)] = .error (.fault u [⟨page, sub, b, 0xF, 1⟩]))
    -- a pool block's entry, read once
    ∧ (∀ b, let va := (x.mbase.toNat + 4 * b) % 2 ^ 64
        (∀ id, assoc b x.table = some id → tableEntry s h k b = .ok (s, id))
        ∧ (assoc b x.table = none → ∀ u pa, memPieces s h k .read 2 [(va, 4)] = .ok (u, [(pa, 4)]) → inHbm pa 4 = true →
            let id := gather (memByte s) pa 4
            tableEntry s h k b = .ok (setSlot u h k { slotAt u h k with table := (b, id) :: (slotAt u h k).table }, id)))
    -- the next element
    ∧ (h < 4096 → x.state = .running → x.winOpen = true → e < x.winEnd → (x.ordered = false ∨ x.faults = []) →
        (x.pending e = false → ∃ t, exec ev s = .next t ∧ others t ∧ { t with slots := s.slots } = s
          ∧ slotAt t h k = x.past e)
        ∧ (x.pending e = true → fits →
          -- its index, or the entry of its block, waits or faults
          (let n := 2 ^ field 0x18 1
           let a := field 0x10 8 + e * n
           x.func = 3 ∨ x.func = 4 →
            (2 ^ 24 < a + n → ∃ t, exec ev s = .next t ∧ ElemFaults s t h k e [⟨a, 3, 0, 0xF, 1⟩])
            ∧ (a + n ≤ 2 ^ 24 → lineReadsEmpty s c a = true → exec ev s = .next s)
            ∧ (a + n ≤ 2 ^ 24 → lineReadsEmpty s c a = false → vaultMark s c a = true →
                ∃ t, exec ev s = .next t ∧ ElemFaults s t h k e [⟨(a / 128 * 128 : Nat), 6, 2, 0xF, 1⟩]))
          ∧ (let t0 := field 0x38 4 / field 0x32 2 * field 0x32 2
             let b := (t0 + e % ((field 0x3C 4 + field 0x32 2 - 1) / field 0x32 2 * field 0x32 2 - t0)) / field 0x32 2
             x.func = 5 → ∀ u, (tableEntry s h k b = .error (.wait u) → exec ev s = .next u)
              ∧ ∀ l, tableEntry s h k b = .error (.fault u l) → ∃ t, exec ev s = .next t ∧ ElemFaults u t h k e l)
          ∧ ∀ s1 ix, StreamIndex s h k e s1 ix →
            let w := x.work ix e
            let dry := w.clip || (decide (x.func = 9) && x.loads)
            let vaultSide := x.loads || (x.stores && !x.fillMem && !w.clip)
            let inVault := w.vaultLow = false ∧ ∀ i, i < w.width → 0 ≤ (w.vault i).1 ∧ (w.vault i).1 < 2 ^ 24
            -- the memory side does not let it be reached
            (dry = false →
              (w.memLow = true → ∃ t, exec ev s = .next t
                ∧ ElemFaults s1 t h k e [⟨(x.mbase.toNat / 4096 * 4096 : Nat), 2, code, 0xF, 1⟩])
              ∧ (w.memLow = false → ¬ (w.mem 0).1 % (w.unit / 8) = 0 → ∃ t, exec ev s = .next t
                ∧ ElemFaults s1 t h k e [⟨((w.mem 0).1 / 4096 * 4096 : Nat), 2, code, 0xF, 1⟩])
              ∧ (w.memLow = false → (w.mem 0).1 % (w.unit / 8) = 0 → ∀ u,
                  (memPieces s1 h k acc code w.parts = .error (.wait u) → exec ev s = .next u)
                  ∧ ∀ l, memPieces s1 h k acc code w.parts = .error (.fault u l) →
                      ∃ t, exec ev s = .next t ∧ ElemFaults u t h k e l))
            ∧ ∀ u pas, StreamPlaces s1 h k acc w dry u pas →
              let y := slotAt u h k
              let after := { y with next := e + 1 }
              let memBit := fun (i : Nat) => (memByte s (physByte w.parts pas (w.mem i).1)).getLsbD (w.mem i).2
              let bit := fun (i : Nat) => if dry then x.block.testBit (64 + i % x.wbits) else memBit i
              let marked := pas.any fun p => markAny s p.1 p.2
              -- its Vault side lies outside the Vault
              (vaultSide = true →
                let dst := if x.loads then 1 else 0
                (w.vaultLow = true → ∃ t, exec ev s = .next t ∧ ElemFaults u t h k e
                  [if repack then
                      let v := (affineElem x.block x.ndim e).2.1
                      ⟨x.vbase.toNat + 256 * (v / 256) + 8 * (v / 16 % 16), 3, dst, 0xF, 1⟩
                    else ⟨(x.vbase.toNat / 4096 * 4096 : Nat), 2, dst, 0xF, 1⟩])
                ∧ ∀ i, i < w.width → w.vaultLow = false → (let lo := (w.vault i).1
                    (lo < 0 ∨ 2 ^ 24 ≤ lo) → (∀ j, j < w.width → (w.vault j).1 < lo → 0 ≤ (w.vault j).1 ∧ (w.vault j).1 < 2 ^ 24) →
                    ∃ t, exec ev s = .next t ∧ ElemFaults u t h k e [⟨lo, 3, dst, 0xF, 1⟩]))
              ∧ ((∀ p ∈ pas, inHbm p.1 p.2 = true) →
                -- sld, sgather, spaged, sfill: into the Vault
                (x.loads = true → inVault →
                  let later := fun (q : Int × Nat) => x.rvalid = true ∧ ∃ f, e < f ∧ f < x.winEnd ∧ x.s0 ≤ f ∧ x.pending f = false
                    ∧ (x.work 0 f).vaultLow = false ∧ ∃ i, i < (x.work 0 f).width ∧ (x.work 0 f).vault i = q
                  let settled := fun (i : Nat) => !after.owesLine ((w.vault i).1.toNat / 128)
                  ∃ t, exec ev s = .next t ∧ others t ∧ slotAt t h k = y.past e
                    ∧ { t with
                        harts := u.harts
                        slots := u.slots
                        vault := u.vault
                        marks := { t.marks with vault := u.marks.vault, empty := u.marks.empty } } = u
                    ∧ (∀ i, i < w.width → ¬ later (w.vault i) →
                        (vaultByte t c (w.vault i).1.toNat).getLsbD (w.vault i).2 = bit i)
                    ∧ (∀ (d q b : Nat), d < 512 → q < 2 ^ 24 → b < 8 →
                        (d = c → ∀ i, i < w.width → w.vault i = ((q : Int), b) → later (q, b)) →
                        (vaultByte t d q).getLsbD b = (vaultByte s d q).getLsbD b)
                    ∧ (∀ d q, d < 512 → q < 2 ^ 24 → (vaultMark t d q = true ↔ vaultMark s d q = true ∨
                        (marked = true ∧ d = c ∧ ∃ i, i < w.width ∧ ¬ later (w.vault i) ∧ (w.vault i).1 / 128 = ((q / 128 : Nat) : Int))))
                    ∧ (∀ d q, d < 512 → q < 2 ^ 24 → lineEmpty t d q = (lineEmpty s d q && !(decide (d = c)
                        && (List.range w.width).any fun i => decide ((w.vault i).1 / 128 = ((q / 128 : Nat) : Int)) && settled i)))
                    ∧ (let z := s.hartAt h
                       t.hartAt h = { z with stat := { z.stat with ceff := z.stat.ceff || (x.clr && (List.range w.width).any fun i =>
                          settled i && !z.grant.getLsbD ((w.vault i).1.toNat / 2 ^ 21)) } })
                    ∧ ∀ g, ¬ g = h → t.hartAt g = s.hartAt g)
                -- sldv: into the register
                ∧ (let ew := ewOf x.vew
                   let lane := e / (64 / ew)
                   let j := lane / 16
                   ∀ p, x.func = 2 → x.vd < 48 → x.wbits = ew → (clustersOf x.grant)[j]? = some p →
                    ((s.hartAt h).heldRow x.vd = true → exec ev s = .next u)
                    ∧ ((s.hartAt h).heldRow x.vd = false →
                      let col := 16 * p + lane % 16
                      let sh := ew * (e % (64 / ew))
                      let hot := (x.hot && !decide (e % (64 / ew) = 0)) || marked
                      ∃ t, exec ev s = .next t ∧ others t ∧ slotAt t h k = Slot.past { y with hot := hot } e
                        ∧ { t with
                            harts := u.harts
                            slots := u.slots
                            cores := { t.cores with cells := u.cores.cells }
                            marks := { t.marks with cell := u.marks.cell, unlanded := u.marks.unlanded } } = u
                        ∧ (∀ d r q b, d < 512 → r < 48 → q < 128 → b < 64 → (cell t d r q).getLsbD b =
                            if d = c ∧ r = x.vd ∧ q = col ∧ sh ≤ b ∧ b < sh + ew then bit (b - sh) else (cell s d r q).getLsbD b)
                        ∧ (∀ d r q, d < 512 → r < 48 → q < 128 → cellMark t d r q =
                            if d = c ∧ r = x.vd ∧ q = col then (if marked then true
                              else if x.cellDone e && !hot then false else cellMark s d r q)
                            else cellMark s d r q)
                        ∧ (∀ d r q, d < 512 → r < 48 → q < 8 → unlanded t d r q = (unlanded s d r q && !(decide (d = c)
                            && decide (r = x.vd) && decide (q = p) && !after.owesGroupIf (fun _ => true) x.vd j)))
                        ∧ t.hartAt h = { s.hartAt h with hwm := hwmAfter (s.hartAt h).hwm [x.vd] (128 * (j + 1)) }
                        ∧ ∀ g, ¬ g = h → t.hartAt g = s.hartAt g))
                -- sst, sscatter, sfill.m: into memory
                ∧ (x.stores = true → w.clip = true → ∃ t, exec ev s = .next t ∧ others t ∧ { t with slots := s.slots } = s
                    ∧ slotAt t h k = x.past e)
                ∧ (x.stores = true → w.clip = false → (x.fillMem = false → inVault) →
                  let full := x.fillMem = true ∨ ∀ i, i < w.width → lineReadsEmpty s c (w.vault i).1.toNat = false
                  (¬ full → exec ev s = .next u)
                  ∧ (full →
                    let src := fun (i : Nat) => if x.fillMem then x.block.testBit (64 + i)
                      else (vaultByte s c (w.vault i).1.toNat).getLsbD (w.vault i).2
                    let hot := !x.fillMem && (List.range w.width).any fun i => vaultMark s c (w.vault i).1.toNat
                    let place := fun (i : Nat) => physByte w.parts pas (w.mem i).1
                    let covered := fun (i : Nat) =>
                      let b := if 8 ≤ w.width then 8 * place 0 else 8 * place i + (w.mem i).2
                      match x.wrote with
                      | some l => l.any fun n => decide (e < n.1) && decide (n.2.1 ≤ b) && decide (b < n.2.1 + n.2.2)
                      | none => decide (x.func = 4) && x.rvalid && (List.range x.winEnd).any fun f =>
                          let n := 2 ^ field 0x18 1
                          let v := x.work (gather (fun q => vaultByte s c (field 0x10 8 + f * n + q)) 0 n) f
                          decide (e < f) && decide (x.s0 ≤ f) && !x.pending f && !v.clip && decide (v.mem 0 = w.mem 0)
                    ∃ t, exec ev s = .next t ∧ others t
                      ∧ { t with mem := u.mem, slots := u.slots, marks := { t.marks with mem := u.marks.mem } } = u
                      ∧ (∀ i, i < w.width → covered i = false → (memByte t (place i)).getLsbD (w.mem i).2 = src i)
                      ∧ (∀ a b, b < 8 → (∀ i, i < w.width → place i = a → (w.mem i).2 = b → covered i = true) →
                          (memByte t a).getLsbD b = (memByte s a).getLsbD b)
                      ∧ (∀ a, memMark t a = (memMark s a || (hot && (List.range w.width).any fun i =>
                          !covered i && decide (place i / 128 = a / 128))))
                      ∧ ∃ l : List (Nat × Nat × Nat), (∀ g b, (∃ n ∈ l, n.1 = g ∧ n.2.1 ≤ b ∧ b < n.2.1 + n.2.2) ↔
                            g = e ∧ ∃ i, i < w.width ∧ b = 8 * place i + (w.mem i).2)
                          ∧ slotAt t h k =
                              Slot.past (if x.fmask = 0 then y else { y with wrote := y.wrote.map fun m => l ++ m }) e)))))
    -- the stop
    ∧ (x.state = .running → x.winOpen = true → ¬ x.faults = [] → (x.ordered = true ∨ x.winEnd ≤ e) →
      let first := x.winBase + ((List.range 1024).find? fun i => x.fmask.testBit i).getD 0
      let at' := recordPa h k
      ∃ t, exec (.streamFaultStop h k) s = .next t ∧ others t ∧ { t with slots := s.slots, regs := s.regs } = s
        ∧ slotAt t h k = { x.closed with
            state := .faulted
            start := first
            rvalid := !x.ordered
            residue := if x.ordered then 0 else x.fmask
            ovf := decide (14 < x.faults.length) }
        ∧ rawReg t at' = BitVec.ofNat 64 (min 14 x.faults.length + if 14 < x.faults.length then 256 else 0)
        ∧ rawReg t (at' + 8) = BitVec.ofNat 64 first ∧ rawReg t (at' + 16) = BitVec.ofNat 64 x.winBase ∧ rawReg t (at' + 24) = 0
        ∧ (∀ j, j < 14 → rawReg t (at' + 0x20 + 16 * j) = ((x.faults[j]?.map fun f => BitVec.ofInt 64 f.addr).getD 0)
            ∧ rawReg t (at' + 0x28 + 16 * j) = ((x.faults[j]?.map fun f =>
                BitVec.ofNat 64 (f.kind + f.access * 16 + f.size * 256 + f.nel % 2048 * 65536)).getD 0))
        ∧ ∀ a, (∀ i, i < 32 → ¬ a = at' + 8 * i) → rawReg t a = rawReg s a)

/-! Avenues -/

/-- R331 to R338, R346, R348: with a valid handle, a push copies its record and stamps it, a pop copies it out and gives
the stamp, each counting one record, for records in HBM without marks; a full or empty avenue makes the plain forms wait
and gives the `.try` forms all ones; `avstat` and `avstamp` read the avenue; an invalid handle raises AVENUE. That a push by
an instance of another pipeline acts as any other push is the model's choice (log 44), and so are the all ones of `avpush.try`
on a full avenue of a STOPPING pipeline (log 45). -/
def Obligations.Avenues : Prop :=
  ∀ (s : State) (o : ExOp) (ks as : Nat), isCommand s.cur = false →
    let h := if o.sa = 0 then BitVec.ofNat 64 s.hart.conf.avh.toNat else s.rS o.sa
    let va := s.rS o.sb + BitVec.ofInt 64 o.imm.toInt
    let d := dieOf s.cur
    let w := avDesc s d ks as
    let n := w.rsize / 16
    let tl := avTail s d ks as
    let hd := avHead s d ks as
    let count := tl - hd
    let inRing := fun i => recordAt s d ks as i
    let stamp := fun i => stampAt s d ks as i
    let placed := fun (pas : List Nat) (i : Nat) => inHbm (inRing i) w.rsize = true ∧ inHbm (stamp i) 8 = true
      ∧ (stamp i + 8 ≤ inRing i ∨ inRing i + w.rsize ≤ stamp i) ∧ ∀ b ∈ pas, inHbm b 16 = true
    let apart := fun (pas : List Nat) (i : Nat) => ∀ b ∈ pas, b + 16 ≤ stamp i ∨ stamp i + 8 ≤ b
    (avOf s h = none → ∀ i ∈ [Instr.avpush o, .avpop o, .avpushTry o, .avpopTry o, .avstat o, .avstamp o],
      Raises i s 0x0D 1 h)
    ∧ (avOf s h = some (ks, as) →
      Completes8 (.avstat o) s s o.sd (BitVec.ofNat 64 (256 * count / w.cap * 2 ^ 42 + w.cap * 2 ^ 21 + count))
      ∧ (count = 0 → Completes8 (.avstamp o) s s o.sd (BitVec.allOnes 64))
      ∧ (¬ count = 0 → Completes8 (.avstamp o) s s o.sd (BitVec.ofNat 64 (peek s (stamp hd) 8)))
      ∧ (∀ u pas, va.toNat % 16 = 0 → partPas s .read n va = .ok (u, pas) → stoppingInstance s s.cur ks = false →
          (count = w.cap → Completes8 (.avpushTry o) s u o.sd (BitVec.allOnes 64)
            ∧ ((pipeAt s d ks).state = 1 → WaitsAt (.avpush o) s u (.avenue true (BitVec.ofNat 16 h.toNat) va o.sd)))
          ∧ (¬ count = w.cap → placed pas tl → (∀ b ∈ pas, markAny s b 16 = false) →
            ∀ i ∈ [Instr.avpush o, .avpushTry o], ∃ t, exec i s = .next t
              ∧ t.hart.pc = s.hart.pc + 8 ∧ ScalarIs s t o.sd (BitVec.ofNat 64 tl) ∧ t.hart.stat.ceff = true
              ∧ { t.hart with
                  pc := s.hart.pc
                  sregs := s.hart.sregs
                  stat := { t.hart.stat with ceff := s.hart.stat.ceff } } = s.hart
              ∧ avTail t d ks as = tl + 1 ∧ avHead t d ks as = hd
              ∧ (∀ x, memByte t x =
                  if inRing tl ≤ x ∧ x < inRing tl + 16 * n
                  then memByte s (pas.getD ((x - inRing tl) / 16) 0 + (x - inRing tl) % 16)
                  else if stamp tl ≤ x ∧ x < stamp tl + 8
                  then BitVec.ofNat 8 (s.cyc s.cur / 2 ^ (8 * (x - stamp tl))) else memByte s x)
              ∧ (∀ g, g ≠ s.cur → t.hartAt g = s.hartAt g)
              ∧ OnlyCaches s { t with
                  harts := s.harts
                  mem := s.mem
                  dies := { t.dies with avTail := s.dies.avTail, avHead := s.dies.avHead } }))
      ∧ (∀ u pas, va.toNat % 16 = 0 → partPas s .write n va = .ok (u, pas) → onLeavingCore s s.cur = false →
          (count = 0 → Completes8 (.avpopTry o) s u o.sd (BitVec.allOnes 64)
            ∧ WaitsAt (.avpop o) s u (.avenue false (BitVec.ofNat 16 h.toNat) va o.sd))
          ∧ (¬ count = 0 → placed pas hd → apart pas hd → markAny s (inRing hd) w.rsize = false →
            pas.Pairwise (fun a b => a + 16 ≤ b ∨ b + 16 ≤ a) →
            ∀ i ∈ [Instr.avpop o, .avpopTry o], ∃ t, exec i s = .next t
              ∧ t.hart.pc = s.hart.pc + 8 ∧ ScalarIs s t o.sd (BitVec.ofNat 64 (peek s (stamp hd) 8))
              ∧ { t.hart with pc := s.hart.pc, sregs := s.hart.sregs } = s.hart
              ∧ avHead t d ks as = hd + 1 ∧ avTail t d ks as = tl
              ∧ (∀ m j, m < pas.length → j < 16 → memByte t (pas.getD m 0 + j) = memByte s (inRing hd + 16 * m + j))
              ∧ (∀ x, (∀ b ∈ pas, ¬ (b ≤ x ∧ x < b + 16)) → memByte t x = memByte s x)
              ∧ ∀ g, g ≠ s.cur → t.hartAt g = s.hartAt g)))
    ∧ (∀ g push hd a sd t, (s.hartAt g).hold = .avenue push hd a sd →
        avStep push false (BitVec.ofNat 64 hd.toNat) a sd { s with cur := g } = .ok t →
        exec (.avenueWaitEnd g) s = .next { t.putHart { t.hart with hold := .none } with cur := s.cur })

/-! The Assayer -/

/-- R354 to R356, R362 to R366: loading a method and samples, draining them at M to HBM, starting, aborting, and the
counters; ranges beyond the table, bad handles, and invalid tables and descriptors raise their causes. -/
def Obligations.AssayerInstructions : Prop :=
  ∀ (s : State) (o : ExOp), isCommand s.cur = false → s.hart.stopAt = none →
    let d := dieOf s.cur
    let a := s.rS o.sa
    let first := (s.rS o.sb).toNat
    let count := o.imm.toNat
    let x := sampleAt s d a.toNat
    let only := fun (t : State) => { t with
      harts := s.harts
      dies := { t.dies with samples := s.dies.samples, assayer := s.dies.assayer } } = s
    let l := heldSamples s d first count
    (4096 < first + count → Raises (.assamp o) s 0x0E 3 (s.rS o.sb) ∧ Raises (.asdrain o) s 0x0E 3 (s.rS o.sb)
      ∧ Raises (.asstart o) s 0x0E 3 (s.rS o.sb))
    ∧ (4096 < a.toNat + 1 → Raises (.asabort o) s 0x0E 3 a)
    ∧ (¬ a.toNat % 64 = 0 → Raises (.asmeth o) s 0x06 0 a)
    ∧ (count < 4 → a.toNat % 64 = 0 → ∀ u b, hartReadWords s a 64 = .ok (u, b) →
      (methodOk b = false → exec (.asmeth o) s = .next (takeTrap u ⟨0x0E, 1, a⟩))
      ∧ (methodOk b = true → methodUsed u d count = true → Completes8 (.asmeth o) s u o.sd 1)
      ∧ (methodOk b = true → methodUsed u d count = false → Completes8 (.asmeth o) s
          { u with dies := { u.dies with methods := sset none u.dies.methods (d * 4 + count) (some b) } } o.sd 0))
    ∧ (first + count ≤ 4096 → count ≤ s.vsi → ∃ t, exec (.assamp o) s = .next t ∧ Counted s t o.sd 0 ∧ only t
        ∧ ∀ g j, sampleAt t g j = sampleAt s g j)
    ∧ (first + count ≤ 4096 → s.vsi < count → ∀ (n : Nat) (b : Nat → Nat) (y : Nat → Sample), s.vsi ≤ n → n ≤ count →
        (∀ k, s.vsi ≤ k → k ≤ n → k < count → (a + BitVec.ofNat 64 (64 * k)).toNat % 64 = 0
          ∧ hartReadWords s (a + BitVec.ofNat 64 (64 * k)) 8 = .ok (s, b k) ∧ parseSample s d (b k) = some (y k)) →
        (∀ k, s.vsi ≤ k → k < n → (sampleAt s d (first + k)).state = .idle) →
        (n < count → ¬ (sampleAt s d (first + n)).state = .idle) →
        ∃ t, exec (.assamp o) s = .next t ∧ Counted s t o.sd (if n < count then BitVec.ofNat 64 (n + 1) else 0) ∧ only t
          ∧ ∀ g j, j < 4096 → sampleAt t g j =
            if g = d ∧ first + s.vsi ≤ j ∧ j < first + n then { y (j - first) with
              cstat := (sampleAt s g j).cstat
              counter := (sampleAt s g j).counter
              desc := a + BitVec.ofNat 64 (64 * (j - first))
              root := s.hart.root
              asid := s.hart.asid
              level := s.hart.level }
            else sampleAt s g j)
    ∧ (first + count ≤ 4096 → s.vsi < count → ∀ b, let va := a + BitVec.ofNat 64 (64 * s.vsi)
        va.toNat % 64 = 0 → hartReadWords s va 8 = .ok (s, b) → parseSample s d b = none →
        exec (.assamp o) s = .next (takeTrap (s.setVsi s.vsi) ⟨0x0E, 2, va⟩))
    ∧ (first + count ≤ 4096 → s.hart.level = .m → a.toNat % 64 = 0 → inHbm a.toNat (64 * count) = true →
        ∃ t, exec (.asdrain o) s = .next t ∧ Counted s t o.sd (BitVec.ofNat 64 (busySamples s d first count))
          ∧ { t with harts := s.harts, mem := s.mem } = s
          ∧ (∀ k, s.vsi ≤ k → k < count →
              DescribedAt (memByte t) (a.toNat + 64 * k) (sampleAt s d (first + k)) (sampleCode (sampleAt s d (first + k)).state))
          ∧ ∀ q, ¬ (a.toNat + 64 * s.vsi ≤ q ∧ q < a.toNat + 64 * count) → memByte t q = memByte s q)
    ∧ (first + count ≤ 4096 → avOf s a = none → Raises (.asstart o) s 0x0D 1 a)
    ∧ (first + count ≤ 4096 → ∀ k v, avOf s a = some (k, v) → let n := (pipeAt s d k).avs.length
      (n ≤ v + 2 → Raises (.asstart o) s 0x0D 1 a)
      ∧ (v + 2 < n → (avDesc s d k v).rsize < 48 ∨ (avDesc s d k (v + 1)).rsize < 16 ∨ (avDesc s d k (v + 2)).rsize < 48 →
          Raises (.asstart o) s 0x0E 4 a)
      ∧ (v + 2 < n → 48 ≤ (avDesc s d k v).rsize → 16 ≤ (avDesc s d k (v + 1)).rsize → 48 ≤ (avDesc s d k (v + 2)).rsize →
        (∀ h, (assayerAt s d).bound = some h → ¬ h = BitVec.ofNat 16 a.toNat →
          Completes8 (.asstart o) s s o.sd (BitVec.allOnes 64))
        ∧ ((assayerAt s d).bound = none ∨ (assayerAt s d).bound = some (BitVec.ofNat 16 a.toNat) →
          (pipeAt s d k).state = 1 → (¬ l = [] ∨ 0 < busySamples s d 0 4096) →
          ∃ t, exec (.asstart o) s = .next t ∧ t.hart.pc = s.hart.pc + 8 ∧ ScalarIs s t o.sd (BitVec.ofNat 64 l.length)
            ∧ { t.hart with pc := s.hart.pc, sregs := s.hart.sregs } = s.hart ∧ (∀ h, h ≠ s.cur → t.hartAt h = s.hartAt h)
            ∧ assayerAt t d = { assayerAt s d with
                bound := some (BitVec.ofNat 16 a.toNat)
                work := (assayerAt s d).work ++ l }
            ∧ (∀ g, ¬ g = d → assayerAt t g = assayerAt s g)
            ∧ (∀ g j, j < 4096 → sampleAt t g j = if g = d ∧ j ∈ l then { sampleAt s g j with state := .run, attempt := .begin }
                else sampleAt s g j) ∧ only t)))
    ∧ (a.toNat < 4096 → x.state = .idle ∨ x.state = .finishing →
        Completes8 (.asabort o) s s o.sd (if x.state = .idle then 0 else 3))
    ∧ (a.toNat < 4096 → x.state = .held → ∃ t, exec (.asabort o) s = .next t ∧ t.hart.pc = s.hart.pc + 8
        ∧ ScalarIs s t o.sd 1 ∧ { t.hart with pc := s.hart.pc, sregs := s.hart.sregs } = s.hart
        ∧ (∀ h, h ≠ s.cur → t.hartAt h = s.hartAt h) ∧ sampleAt t d a.toNat = { x with state := .idle }
        ∧ OtherSamples s t d a.toNat ∧ assayerAt t d = assayerAt s d ∧ only t)
    ∧ (a.toNat < 4096 → x.state = .run → x.level = .m → inHbm x.desc.toNat 64 = true →
        ∃ t, exec (.asabort o) s = .next t ∧ t.hart.pc = s.hart.pc + 8 ∧ ScalarIs s t o.sd 2
          ∧ { t.hart with pc := s.hart.pc, sregs := s.hart.sregs } = s.hart ∧ (∀ h, h ≠ s.cur → t.hartAt h = s.hartAt h)
          ∧ SampleEnded s t d a.toNat 2)
    ∧ Completes8 (.asstat o) s s o.sd (let c := assayerAt s d
        [c.requestsPushed, c.popped, c.unmatched, c.accepted, c.rejected, c.completionsPushed,
          BitVec.ofNat 64 (busySamples s d 0 4096),
          match c.bound with | none => 0 | some h => BitVec.ofNat 64 (2 ^ 16 + h.toNat)].getD a.toNat 0)

/-- R352, R355, R357 to R359: the Assayer pops derivatives and sends its sample on, ends it, or discards the record; begins an
attempt, with or without k_0; forms the input of a stage; at the end of an attempt forms the new state and the error norm, accepts
or rejects the step, and ends the sample or begins its next attempt, for a sample at M with its vectors in HBM; and pushes
requests and completion records while the avenues have room. -/
def Obligations.AssayerEngine : Prop :=
  ∀ (s : State) (d i : Nat) (rest : List Nat), i < 4096 →
    let e := assayerAt s d
    let x := sampleAt s d i
    let only := fun (t : State) => { t with dies := { t.dies with samples := s.dies.samples, assayer := s.dies.assayer } } = s
    (∀ ks v, boundAv s d = some (ks, v) →
      let room := fun (b : Nat) => avCount s d ks b < (avDesc s d ks b).cap
      let tl := fun (b : Nat) => avTail s d ks b
      let put := fun (b : Nat) => recordAt s d ks b (tl b)
      let at_ := fun (b : Nat) => stampAt s d ks b (tl b)
      let placed := fun (b : Nat) => inHbm (put b) (avDesc s d ks b).rsize = true ∧ inHbm (at_ b) 8 = true
        ∧ 48 ≤ (avDesc s d ks b).rsize ∧ (at_ b + 8 ≤ put b ∨ put b + (avDesc s d ks b).rsize ≤ at_ b)
      let pushed := fun (t : State) (b : Nat) => avTail t d ks b = tl b + 1 ∧ avHead t d ks b = avHead s d ks b
        ∧ (∀ k, 48 ≤ k → k < (avDesc s d ks b).rsize → memByte t (put b + k) = 0)
        ∧ gather (memByte t) (at_ b) 8 = sget 0 s.clock d % 2 ^ 64
        ∧ (∀ q, ¬ (put b ≤ q ∧ q < put b + (avDesc s d ks b).rsize) → ¬ (at_ b ≤ q ∧ q < at_ b + 8) →
            memByte t q = memByte s q)
        ∧ { t with mem := s.mem, dies := { t.dies with
              samples := s.dies.samples
              assayer := s.dies.assayer
              avTail := s.dies.avTail
              avHead := s.dies.avHead } } = s
      (∀ j b, e.requests = i :: rest → x.attempt = .await j → methodAt s d x.method.toNat = some b → room v → placed v →
        let f := fun (t : State) (k n : Nat) => gather (memByte t) (put v + k) n
        ∃ t, exec (.assayerRequestPush d) s = .next t ∧ pushed t v
          ∧ assayerAt t d = { e with requests := rest, requestsPushed := e.requestsPushed + 1 }
          ∧ OtherSamples s t d 4096
          ∧ f t 0 4 = i ∧ f t 4 4 = (x.tag.getD 0).toNat
          ∧ f t 8 4 = (code32 (sumV [val32 x.t, mulV (mC b j) (val32 x.hcur)])).toNat
          ∧ f t 0x0C 1 = j % 256 ∧ f t 0x0D 1 = (x.method.toNat + j / 256) % 256
          ∧ f t 0x10 8 = (if j = 0 then x.y.toNat
              else if mFsal b = true ∧ j = mStages b - 1 then x.newAddr b else x.inputAddr b) % 2 ^ 64
          ∧ f t 0x18 8 = x.kAddr j ∧ f t 0x20 8 = x.user.toNat ∧ f t 0x28 4 = x.n % 2 ^ 32)
      ∧ (e.requests = i :: rest → ¬ room v → exec (.assayerRequestPush d) s = .next s)
      ∧ (e.completions = i :: rest → room (v + 2) → placed (v + 2) →
        swf (fun _ => Sample.reset) s.dies.samples = true → 1 < busySamples s d 0 4096 →
        let f := fun (t : State) (k n : Nat) => gather (memByte t) (put (v + 2) + k) n
        ∃ t, exec (.assayerCompletionPush d) s = .next t ∧ pushed t (v + 2)
          ∧ assayerAt t d = { e with completions := rest, completionsPushed := e.completionsPushed + 1 }
          ∧ sampleAt t d i = { x with state := .idle } ∧ OtherSamples s t d i
          ∧ f t 0 4 = i ∧ f t 4 4 = x.cstat.toNat ∧ f t 8 4 = x.t.toNat ∧ f t 0x0C 4 = x.h.toNat
          ∧ f t 0x10 4 = x.nacc.toNat ∧ f t 0x14 4 = x.nrej.toNat ∧ f t 0x18 8 = x.desc.toNat
          ∧ f t 0x20 8 = x.user.toNat ∧ f t 0x28 8 = x.faddr.toNat)
      ∧ (e.completions = i :: rest → ¬ room (v + 2) → exec (.assayerCompletionPush d) s = .next s)
      ∧ (avCount s d ks (v + 1) = 0 → exec (.assayerDerivPop d) s = .next s)
      ∧ (let pa := recordAt s d ks (v + 1) (avHead s d ks (v + 1))
         let g := fun (k : Nat) => peek s (pa + k) 4
         let popped := fun (t : State) => avHead t d ks (v + 1) = avHead s d ks (v + 1) + 1
           ∧ avTail t d ks (v + 1) = avTail s d ks (v + 1)
         let more := fun (t : State) => { t with dies := { t.dies with
           samples := s.dies.samples
           assayer := s.dies.assayer
           avTail := s.dies.avTail
           avHead := s.dies.avHead } } = s
         let fits := g 0 = i ∧ x.state = .run ∧ ¬ i ∈ e.requests ∧ x.tag = some (BitVec.ofNat 32 (g 4))
         ¬ avCount s d ks (v + 1) = 0 →
         (markAny s pa 16 = true ∨ (g 0 < 4096 ∧ g 0 = i ∧ ¬ fits) ∨ 4096 ≤ g 0 →
           ∃ t, exec (.assayerDerivPop d) s = .next t ∧ popped t ∧ more t ∧ OtherSamples s t d 4096
             ∧ assayerAt t d = { e with popped := e.popped + 1, unmatched := e.unmatched + 1 })
         ∧ (markAny s pa 16 = false → fits → g 8 = 0 → ∀ j b, x.attempt = .await j → methodAt s d x.method.toNat = some b →
           ∃ t, exec (.assayerDerivPop d) s = .next t ∧ popped t ∧ more t ∧ OtherSamples s t d i
             ∧ sampleAt t d i = { x with
                 tag := none
                 attempt := if j + 1 < mStages b then .request (j + 1) else .finish }
             ∧ assayerAt t d = { e with popped := e.popped + 1, work := e.work ++ [i] })
         ∧ (markAny s pa 16 = false → fits → ¬ g 8 = 0 → x.level = .m → inHbm x.desc.toNat 64 = true →
           ∃ t u, exec (.assayerDerivPop d) s = .next t ∧ popped u ∧ more u ∧ OtherSamples s u d 4096
             ∧ assayerAt u d = { e with popped := e.popped + 1 } ∧ SampleEnded u t d i 3)))
    ∧ (boundAv s d = none → exec (.assayerRequestPush d) s = .next s ∧ exec (.assayerCompletionPush d) s = .next s
        ∧ exec (.assayerDerivPop d) s = .next s)
    ∧ (e.work = [] → exec (.assayerCombination d) s = .next s)
    ∧ (∀ b, e.work = i :: rest → methodAt s d x.method.toNat = some b →
      let asks := fun (t : State) (y : Sample) (j : Nat) =>
        sampleAt t d i = { y with attempt := .await j, tag := some x.counter, counter := x.counter + 1 }
          ∧ OtherSamples s t d i ∧ assayerAt t d = { e with work := rest, requests := e.requests ++ [i] }
      let leaves := fun (t : State) (f : Assayer) (p : (Nat → Byte) × Sample) =>
        (∀ a, memByte t a = p.1 a) ∧ sampleAt t d i = p.2 ∧ OtherSamples s t d i ∧ assayerAt t d = f
          ∧ { t with mem := s.mem, dies := { t.dies with samples := s.dies.samples, assayer := s.dies.assayer } } = s
      let goesOn := fun (t : State) (f : Assayer) (p : (Nat → Byte) × Sample) =>
        leaves t { f with work := rest, requests := f.requests ++ [i] } p
      (x.attempt = .begin → vcmp (val32 x.tend) (val32 x.t) = .eq → x.level = .m → inHbm x.desc.toNat 64 = true →
        ∃ t, exec (.assayerCombination d) s = .next t
          ∧ SampleEnded { s with dies := { s.dies with assayer := sset Assayer.reset s.dies.assayer d { e with work := rest } } }
              t d i 0)
      ∧ (x.attempt = .begin → ¬ vcmp (val32 x.tend) (val32 x.t) = .eq → x.kv = false →
        let rem := code32 (sumV [val32 x.tend, vneg (val32 x.t)])
        let whole := vless (vabs (val32 x.h)) (vabs (val32 rem)) = false
        ∃ t, exec (.assayerCombination d) s = .next t ∧ only t
          ∧ asks t { x with hcur := if whole then rem else x.h, last := decide whole } 0)
      ∧ (x.attempt = .begin → ¬ vcmp (val32 x.tend) (val32 x.t) = .eq → x.kv = true → 2 ≤ mStages b → x.level = .m →
        VectorsApart s x b →
        ∃ t, exec (.assayerCombination d) s = .next t ∧ goesOn t e (x.begun b (memByte s)))
      ∧ (x.attempt = .finish → 2 ≤ mStages b → x.level = .m → VectorsApart s x b → inHbm x.desc.toNat 64 = true →
        let last := mStages b - 1
        let m := if mFsal b then memByte s else vecPut (memByte s) x.n (x.newAddr b) (x.combined (memByte s) (mB b) (mStages b))
        let r := x.result b m
        let dir : Int := match vcmp (val32 x.tend) (val32 x.t) with | .gt => 1 | .lt => -1 | .eq => 0
        let h := code32 (mulV (valOfInt dir) r.hn)
        let m1 := vecPut m x.n x.y.toNat (vecAt m (x.newAddr b))
        let m2 := if mFsal b then vecPut m1 x.n (x.kAddr 0) (vecAt m1 (x.kAddr last)) else m1
        let y1 := { x with
          t := if x.last then x.tend else code32 (sumV [val32 x.t, val32 x.hcur])
          eprev := code32 r.nn
          nacc := x.nacc + 1
          kv := mFsal b
          h := h }
        let y2 := { x with nrej := x.nrej + 1, kv := true, h := h }
        let e1 := { e with accepted := e.accepted + 1 }
        let e2 := { e with rejected := e.rejected + 1 }
        let small := vless r.hn (mCtl b 7)
        let ends := fun (f : Assayer) (p : (Nat → Byte) × Sample) (status : Nat) =>
          ∃ u t, exec (.assayerCombination d) s = .next t ∧ leaves u { f with work := rest } p ∧ SampleEnded u t d i status
        (r.bad = true → ends e (m, x) 6)
        ∧ (r.bad = false → r.ok = true → (x.last = true → ends e1 (m2, y1) 0)
          ∧ (x.last = false → small = true → ends e1 (m2, y1) 1)
          ∧ (x.last = false → small = false → ∃ t, exec (.assayerCombination d) s = .next t
              ∧ goesOn t e1 (y1.begun b m2)))
        ∧ (r.bad = false → r.ok = false → (small = true → ends e2 (m, y2) 1)
          ∧ (small = false → ∃ t, exec (.assayerCombination d) s = .next t ∧ goesOn t e2 (y2.begun b m))))
      ∧ (∀ j, x.attempt = .request j → 0 < j → j < mStages b → x.level = .m →
        let fsal := mFsal b = true ∧ j = mStages b - 1
        let dst := if fsal then x.newAddr b else x.inputAddr b
        let vecs := x.y.toNat :: (List.range j).map x.kAddr
        (∀ w ∈ dst :: vecs, inHbm w (4 * x.n) = true ∧ w + 4 * x.n ≤ 2 ^ 64 ∧ markAny s w (4 * x.n) = false) →
        (∀ w ∈ vecs, w + 4 * x.n ≤ dst ∨ dst + 4 * x.n ≤ w) →
        ∃ t, exec (.assayerCombination d) s = .next t ∧ asks t x j
          ∧ (∀ k, k < x.n → gather (memByte t) (dst + 4 * k) 4 = (code32 (sumV
              (decode .fp32 (gather (memByte s) (x.y.toNat + 4 * k) 4) :: (List.range j).map fun q =>
                mulV (to32 (mulV (val32 x.hcur) (if fsal then mB b q else mA b j q)))
                  (decode .fp32 (gather (memByte s) (x.kAddr q + 4 * k) 4))))).toNat)
          ∧ (∀ q, ¬ (dst ≤ q ∧ q < dst + 4 * x.n) → memByte t q = memByte s q)
          ∧ { t with mem := s.mem, dies := { t.dies with samples := s.dies.samples, assayer := s.dies.assayer } } = s))

/-! Collectives -/

/-- R427 to R431: a valid issue takes the next sequence number and is recorded with its context; an invalid one raises
COLL with SUB 1; a 17th open collective waits. `coll.wait` waits, completes, raises the failure it meets first, or resumes
one stopped for a page. Completion at M in HBM gives every destination element the fold over the ranks in ascending order, or
the ranks' bytes, and sends this package's share in chunks, whose commits end it (R422, R424). It waits for held pages, busy
cells and empty lines; the last, and which rank sends the folded elements, are the model's choices (log 92, 93). -/
def Obligations.Collectives : Prop :=
  (∀ (s : State) (o : ExOp) (op : CollOp), isCommand s.cur = false →
    let c := o.imm.toNat % 256
    let w := (s.rS o.sc).toNat
    let count := w % 2 ^ 40
    let root := w / 2 ^ 40 % 2 ^ 12
    let src := s.rS o.sa
    let dst := s.rS o.sb
    let opc := match op with | .sum => 0 | .max => 1 | .min => 2
    let q := nextSeq s c
    ∀ f ∈ [(Instr.collAred op o, 0, opc), (.collAgat o, 1, 0), (.collRsct op o, 2, opc), (.collBcast o, 3, 0)], f.1.wf = true →
      let kind := f.2.1
      let b := if kind = 1 ∨ kind = 3 then 1 else tyWidth ((tyOfCode o.emod.toNat).getD .ui8) / 8
      (commOf s c = none → Raises f.1 s 0x0F 1 (BitVec.ofNat 64 c))
      ∧ (∀ m, commOf s c = some m →
        let se := if kind = 2 then m.nrank * count * b else count * b
        let de := if kind = 1 then m.nrank * count * b else count * b
        let valid := 0 < count ∧ se ≤ 2 ^ 36 ∧ de ≤ 2 ^ 36 ∧ src.toNat % b = 0 ∧ dst.toNat % b = 0 ∧ root < m.nrank
          ∧ (src.toNat < dst.toNat + de → dst.toNat < src.toNat + se → kind = 0 ∧ src = dst)
        (¬ valid → Raises f.1 s 0x0F 1 (BitVec.ofNat 64 c))
        ∧ (valid → 16 ≤ ((collsOf s c).filter Coll.open).length → WaitsAt f.1 s s .retry)
        ∧ (valid → ((collsOf s c).filter Coll.open).length < 16 →
          ∃ t, exec f.1 s = .next t ∧ t.hart.pc = s.hart.pc + 8
            ∧ ScalarIs s t o.sd (BitVec.ofNat 64 (c * 2 ^ 32 + q.toNat)) ∧ t.hart.stat.ceff = true
            ∧ { t.hart with
                pc := s.hart.pc
                sregs := s.hart.sregs
                stat := { t.hart.stat with ceff := s.hart.stat.ceff } } = s.hart
            ∧ (∀ h, h ≠ s.cur → t.hartAt h = s.hartAt h)
            ∧ nextSeq t c = q + 1 ∧ (∀ g, g ≠ c → nextSeq t g = nextSeq s g)
            ∧ (∀ y ∈ collsOf s c, y.open = true → y ∈ collsOf t c) ∧ (∀ g, g ≠ c → collsOf t g = collsOf s g)
            ∧ (collsOf t c).getLast? = some ⟨q, kind, f.2.2, o.emod.toNat, src, dst, count, root, s.cur, s.hart.root,
                s.hart.asid, s.hart.level, .outstanding⟩
            ∧ { t with harts := s.harts, pkg := { t.pkg with colls := s.pkg.colls, collSeq := s.pkg.collSeq } } = s)))
  ∧ (∀ (s : State) (o : ExOp), isCommand s.cur = false →
    let c := (s.rS o.sa).toNat / 2 ^ 32
    let q := BitVec.ofNat 32 (s.rS o.sa).toNat
    let back := (nextSeq s c - q).toNat
    (¬ (1 ≤ back ∧ back ≤ 16) → Completes8 (.collWait o) s s o.sd 0)
    ∧ (1 ≤ back → back ≤ 16 → ∀ x, (collsOf s c).find? (fun y => y.seq == q) = some x →
      (x.st = .outstanding ∨ x.st = .sending → WaitsAt (.collWait o) s s .retry)
      ∧ (∀ m u page, x.st = .retired 5 → commOf s c = some m → collBuffers s m x = (u, .error (some page)) →
          exec (.collWait o) s = .next (takeTrap u ⟨0x0F, 5, BitVec.ofNat 64 page⟩))
      ∧ (∀ m u r, x.st = .retired 5 → commOf s c = some m → collBuffers s m x = (u, .ok r) →
          ∃ v, WaitsAt (.collWait o) s v .retry
            ∧ collsOf v c = (collsOf u c).map (fun y => if y.seq = q then { y with st := .outstanding } else y)
            ∧ v.pkg.refusedIn = u.pkg.refusedIn.filter (fun f => !(f.kind == 1 && f.comm == c && f.seq == q.toNat))
            ∧ v.pkg.answers = u.pkg.answers
              ++ ((u.pkg.refusedIn.filter fun f => f.kind == 1 && f.comm == c && f.seq == q.toNat).map fun f =>
                (f.spkg, f.daddr, FrameAnswer.retry)))
      ∧ (x.st = .done → Completes8 (.collWait o) s s o.sd 0)
      ∧ (∀ sub, x.st = .retired sub → ¬ sub = 5 → Completes8 (.collWait o) s s o.sd (BitVec.ofNat 64 sub))
      ∧ (∀ sub v, x.st = .failed sub v → ∃ u, exec (.collWait o) s = .next (takeTrap u ⟨0x0F, sub, v⟩)
          ∧ collsOf u c = (collsOf s c).map (fun y => if y.seq = q then { y with st := .retired sub } else y)
          ∧ (∀ g, g ≠ c → collsOf u g = collsOf s g)
          ∧ { u with pkg := { u.pkg with colls := s.pkg.colls } } = s)))
  ∧ (∀ (s : State) (c : Nat) (peers : List PeerPart),
    let first := (collsOf s c).find? fun x => decide (x.st = .outstanding)
    (first = none → exec (.collectiveComplete c peers) s = .next s)
    ∧ (∀ m x, commOf s c = some m → first = some x →
      let differs := fun (p : PeerPart) => ¬ (p.kind = x.kind ∧ p.op = x.op ∧ p.ty = x.ty ∧ p.count = x.count
        ∧ p.root = x.rootRank)
      let becomes := fun (t : State) (st : CollState) => { t with pkg := { t.pkg with colls := s.pkg.colls } } = s
        ∧ (∀ g, g ≠ c → collsOf t g = collsOf s g)
        ∧ collsOf t c = (collsOf s c).map fun y => if y.seq = x.seq then { y with st := st } else y
      ((∃ p ∈ peers, differs p) → ∃ t, exec (.collectiveComplete c peers) s = .next t
        ∧ becomes t (.failed 3 (BitVec.ofNat 64 (c * 2 ^ 32 + x.seq.toNat))))
      ∧ (∀ p r, (∀ p ∈ peers, ¬ differs p) → peers.find? (fun p => p.refusal.isSome) = some p → p.refusal = some r →
        ∃ t, exec (.collectiveComplete c peers) s = .next t
          ∧ becomes t (.failed 4 (BitVec.ofNat 64 (p.rank % 4096 + r % 256 * 65536))))
      ∧ ((∀ p ∈ peers, ¬ differs p ∧ p.refusal = none) →
        (∀ u page, collBuffers s m x = (u, .error (some page)) → ∃ t, exec (.collectiveComplete c peers) s = .next t
          ∧ { t with pkg := { t.pkg with colls := u.pkg.colls } } = u
          ∧ collsOf t c = (collsOf u c).map fun y => if y.seq = x.seq then { y with st := .failed 5 (BitVec.ofNat 64 page) } else y)
        ∧ (∀ u, collBuffers s m x = (u, .error none) → exec (.collectiveComplete c peers) s = .next u)
        ∧ (∀ u src dst, collBuffers s m x = (u, .ok (src, dst)) →
          (∃ p ∈ src ++ dst, ∃ k, k < p.2 ∧ byteReady u (p.1 + k) = false) ∨ (∃ p ∈ src, ∃ k g a, k < p.2
            ∧ regionOf (p.1 + k) = .vault g a ∧ lineReadsEmpty u g a = true) →
          exec (.collectiveComplete c peers) s = .next u))
      ∧ (∀ part : Nat → PeerPart, (∀ p ∈ peers, ¬ differs p ∧ p.refusal = none ∧ ∀ k, p.marks.getD k false = false) →
        (∀ r, r < m.nrank → ¬ r = m.rank → peers.find? (fun p => p.rank == r) = some (part r)) → x.kind ≤ 3 → x.level = .m →
        let b := if x.kind = 0 ∨ x.kind = 2 then tyWidth ((tyOfCode x.ty).getD .ui8) / 8 else 1
        let se := if x.kind = 2 then m.nrank * x.count * b else x.count * b
        let de := if x.kind = 1 then m.nrank * x.count * b else x.count * b
        let a := x.src.toNat
        let z := x.dst.toNat
        inHbm a se = true → inHbm z de = true → markAny s a se = false →
        (∀ r, r < m.nrank → ¬ r = m.rank → (part r).bytes.length = se) →
        let raw := fun (r k : Nat) => if r = m.rank then memByte s (a + k) else (part r).bytes.getD k 0
        let elem := fun (r i : Nat) => gather (raw r) (b * i) b
        let folded := fun (i : Nat) => (List.range (m.nrank - 1)).foldl
          (fun acc r => collStep (if x.kind = 0 ∨ x.kind = 2 then (tyOfCode x.ty).getD .ui8 else .ui8) x.op i acc (elem (r + 1) i))
          (elem 0 i)
        let out := fun (k : Nat) => match x.kind with
          | 0 => BitVec.ofNat 8 (folded (k / b) / 2 ^ (8 * (k % b)))
          | 2 => BitVec.ofNat 8 (folded (m.rank * x.count + k / b) / 2 ^ (8 * (k % b)))
          | 1 => raw (k / se) (k % se)
          | _ => raw x.rootRank k
        let mine := fun (f : HeldFrame) => f.frame.kind == 1 && f.frame.comm == c && f.frame.seq == x.seq.toNat
        let sends := x.kind = 1 ∨ (x.kind = 3 ∧ m.rank = x.rootRank)
          ∨ ((x.kind = 0 ∨ x.kind = 2) ∧ m.rank = Config.foldRank c x.seq.toNat % m.nrank)
        let len := if x.kind = 1 ∨ x.kind = 3 then se else x.count * b
        let share := fun (r k : Nat) => match x.kind with
          | 0 => BitVec.ofNat 8 (folded (k / b) / 2 ^ (8 * (k % b)))
          | 2 => BitVec.ofNat 8 (folded (r * x.count + k / b) / 2 ^ (8 * (k % b)))
          | _ => raw m.rank k
        let base := fun (r : Nat) => (part r).dst + if x.kind = 1 then m.rank * x.count else 0
        x.rootRank < m.nrank → (∀ r, r < m.nrank → ¬ r = m.rank → base r + len ≤ 2 ^ 64) →
        ∃ (t : State) (fs : List Frame), exec (.collectiveComplete c peers) s = .next t
          ∧ (∀ k, k < de → memByte t (z + k) = out k) ∧ (∀ q, ¬ (z ≤ q ∧ q < z + de) → memByte t q = memByte s q)
          ∧ (∀ g, g ≠ c → collsOf t g = collsOf s g)
          ∧ (collsOf t c = (collsOf s c).map fun y => if y.seq = x.seq
              then { y with st := if t.pkg.held.any mine then .sending else .done } else y)
          ∧ t.pkg.held = s.pkg.held ++ fs.map (fun f => ⟨f, false, (sendPort s).isNone⟩)
          ∧ (∀ f ∈ fs, sends ∧ f.spkg = ownPkg s ∧ f.kind = 1 ∧ f.comm = c ∧ f.seq = x.seq.toNat ∧ 0 < f.bytes.length
              ∧ f.daddr % 4096 + f.bytes.length ≤ 4096 ∧ (∀ k ∈ f.marks, k = false)
              ∧ ∃ r, r < m.nrank ∧ ¬ r = m.rank ∧ rankPkg s m.rlist r = some f.dpkg ∧ base r ≤ f.daddr
                ∧ f.daddr + f.bytes.length ≤ base r + len
                ∧ ∀ k, k < f.bytes.length → f.bytes.getD k 0 = share r (f.daddr - base r + k))
          ∧ (∀ r g k, sends → r < m.nrank → ¬ r = m.rank → rankPkg s m.rlist r = some g → k < len →
              ∃ f ∈ fs, f.dpkg = g ∧ f.daddr ≤ base r + k ∧ base r + k < f.daddr + f.bytes.length)
          ∧ (∀ y, (∀ n, n < 64 → ¬ y = diePa 0 (0x3108 + 16 * n)) → rawReg t y = rawReg s y)
          ∧ { t with mem := s.mem, regs := s.regs, pkg := { t.pkg with
              colls := s.pkg.colls
              held := s.pkg.held
              portBytes := s.pkg.portBytes } } = s)))

/-! Dispatcher and pipelines -/

/-- R269, R284, R321, R339 to R341, R413: a core is eligible when no pipeline has it, it waits for no spare and no removal and it
is the task's own if it has one. Unless device pre-emption holds it, the dispatcher places the best task of its bin on the lowest
idle partition that can take it. While none can be placed it offers the task that it would choose among those with an eligible
core to the hart of lowest `prio` below the task's, unless that task is offered already. -/
def Obligations.Dispatching : Prop :=
  ∀ (s : State) (d : Nat), d < 8 →
    let x := dispAt s d
    let ready := fun (p : Nat × Task) => p ∈ readyTasks s d
    let eligible := fun (c : Nat) (y : Task) => c / 64 = d ∧ shootQueue s c = [] ∧ coreDead s c = false
      ∧ SparableUnit.core c ∉ s.dies.sparing ∧ (y.core = none ∨ y.core = some c)
      ∧ ∀ k, k < 8 → (pipeAt s d k).state = 1 ∨ (pipeAt s d k).state = 2 → (pipeAt s d k).cores.testBit (c % 64) = false
    let takes := fun (h : Nat) (p : Nat × Task) => dieOf h = d ∧ (s.hartAt h).run = .idle ∧ eligible (coreOf h) p.2
      ∧ p.2.cmin ≤ grantCount ((freeClusters s (coreOf h) ||| (s.hartAt h).grant) &&& partField s h)
    let placeable := fun p => ready p ∧ ∃ h, takes h p
    let offerable := fun (p : Nat × Task) => ready p ∧ ∃ c, eligible c p.2
    let holds := fun (among : Nat × Task → Prop) (b : Nat) => ∃ q, among q ∧ binOf q.2.lkey = b
    let stays := fun (among : Nat × Task → Prop) => ¬ x.q = dspQuantum s d ∧ holds among x.bin
    let chosen := fun (among : Nat × Task → Prop) (p : Nat × Task) => among p ∧ (stays among → binOf p.2.lkey = x.bin)
      ∧ (¬ stays among → ∃ i, i < 16 ∧ binOf p.2.lkey = (x.bin + 1 + i) % 16
          ∧ ∀ j, j < i → ¬ holds among ((x.bin + 1 + j) % 16))
      ∧ ∀ q, among q → binOf q.2.lkey = binOf p.2.lkey → effPrio s d q.2 ≤ effPrio s d p.2
          ∧ (effPrio s d q.2 = effPrio s d p.2 → p.2.readySeq ≤ q.2.readySeq)
    let willing := fun (p : Nat × Task) (h : Nat) => dieOf h = d ∧ eligible (coreOf h) p.2 ∧ (s.hartAt h).offer = none
      ∧ (s.hartAt h).task.isSome = true ∧ (s.hartAt h).prio.toNat < effPrio s d p.2
    let offered := fun (p : Nat × Task) => ∃ h, dieOf h = d ∧ (s.hartAt h).offer = some (handleOf s d p.1)
    (devReq s = true ∨ (∀ p, ¬ placeable p) → exec (.dispatchPlace d) s = .next s)
    ∧ (devReq s = false → (∃ p, placeable p) → ∃ p h t, exec (.dispatchPlace d) s = .next t ∧ chosen placeable p
        ∧ takes h p ∧ (∀ g, g < h → ¬ takes g p)
        ∧ dispAt t d = { x with bin := binOf p.2.lkey, q := (dispAt t d).q, decisions := x.decisions + 1 }
        ∧ (stays placeable → (dispAt t d).q = x.q + 1) ∧ (¬ stays placeable → (dispAt t d).q = 1)
        ∧ (t.hartAt h).run = .running ∧ (t.hartAt h).task = some p.1 ∧ (t.hartAt h).level = .u
        ∧ (t.hartAt h).pc = (taskAt s d p.1).entry ∧ (taskAt t d p.1).state = .running
        ∧ ∀ g, ¬ g = h → t.hartAt g = s.hartAt g)
    ∧ ((∃ p, placeable p) ∨ (∀ p, ¬ offerable p) → exec (.dispatchOffer d) s = .next s)
    ∧ ((∀ p, ¬ placeable p) → (∃ p, offerable p) → ∃ p, chosen offerable p
        ∧ (offered p ∨ (∀ h, ¬ willing p h) → exec (.dispatchOffer d) s = .next s)
        ∧ ∀ h, ¬ offered p → willing p h →
          (∀ g, willing p g → (s.hartAt h).prio.toNat ≤ (s.hartAt g).prio.toNat
            ∧ ((s.hartAt h).prio.toNat = (s.hartAt g).prio.toNat → h ≤ g)) →
          exec (.dispatchOffer d) s = .next (s.setHart h { s.hartAt h with preempt := true, offer := some (handleOf s d p.1) }))

/-- R325, R327 to R330, R337, R343 to R345, R348, R412: a pipeline starts with a valid descriptor and the allotment of the target
rule, stops, which traps the pushes that wait there outside its instances, takes its cores, is measured each interval and moves
cores towards its targets, and ends with DONE. A write by a master that is not the owner has no effect. That a STOPPING pipeline whose
partitions are idle still waits while a leaving core has an instance to be replayed is the model's reading of R330 and R350 (log
75). -/
def Obligations.Pipelines : Prop :=
  (∀ (s : State) (d k : Nat), k < 8 →
    let p := pipeAt s d k
    let only := fun (t : State) => { t with dies := { t.dies with pipes := s.dies.pipes } } = s
      ∧ ∀ e j, j < 8 → ¬ (e = d ∧ j = k) → pipeAt t e j = pipeAt s e j
    let dl := diePa d (0x400 + 32 * k + 0x18)
    let mine := s.pkg.writers = []
    let stalled := fun (h : Nat) (w : BitVec 16) => dieOf h = d ∧ isCommand h = false ∧ h ∉ instanceHarts s d k
      ∧ (s.hartAt h).forced = false ∧ w.toNat / 8192 = k ∧ ∃ va sd, (s.hartAt h).hold = .avenue true w va sd
    (mine → p.state = 1 ∨ p.state = 2 → exec (.plctlStart d k) s = .next s)
    ∧ (mine → p.state = 0 ∨ p.state = 3 → readPipe s d k = none → ∃ t, exec (.plctlStart d k) s = .next t ∧ only t
        ∧ pipeAt t d k = { p with state := 3 })
    ∧ (∀ y, readPipe s d k = some y → let work := (List.range 64).filter fun c => y.cores.testBit c && !coreDead s (64 * d + c)
        StagesFit y.stages work.length ∧ (∀ c, y.cores.testBit c = true → c < 64 → coreTaken s d k c = false)
        ∧ ∃ f, TargetsAre y.stages (fun i => ((y.stages[i]?).map fun g => g.weight).getD 0) work.length f
          ∧ y.allot = (List.range y.stages.length).map f)
    ∧ (mine → p.state = 0 ∨ p.state = 3 → ∀ y, readPipe s d k = some y → ∃ t, exec (.plctlStart d k) s = .next t
        ∧ pipeAt t d k = { y with gen := if p.gen = 255 then 1 else p.gen + 1, state := 1 }
        ∧ (∀ e j, j < 8 → ¬ (e = d ∧ j = k) → pipeAt t e j = pipeAt s e j)
        ∧ (∀ a, a < 32 → avHead t d k a = 0 ∧ avTail t d k a = 0) ∧ rawReg t dl = 0)
    ∧ (mine → ¬ p.state = 1 → exec (.plctlStop d k) s = .next s)
    ∧ (mine → p.state = 1 → ∃ t, exec (.plctlStop d k) s = .next t ∧ (pipeAt t d k).state = 2 ∧ (pipeAt t d k).gen = p.gen
        ∧ (∀ e ∈ (pipeAt t d k).pool, ∃ st, e.2 = .leaving st none)
        ∧ (∀ h ∈ instanceHarts s d k, 0x0E2 ∈ extQueue t h ∨ 0x0E2 ∈ sget [] t.cores.extWait h)
        ∧ (assayerUses s d k = true → (assayerAt t d).bound = none)
        ∧ (∀ h, (∀ w, ¬ stalled h w) → t.hartAt h = s.hartAt h)
        ∧ ∀ h w, stalled h w → ¬ ((s.hartAt h).level = .m ∧ (s.hartAt h).stat.mnest = true) →
          if syncLevel (s.hartAt h) 0x0D = .m then EnteredM (s.hartAt h) (t.hartAt h) false 0x0D 2 (w.zeroExtend 64)
          else EnteredS (s.hartAt h) (t.hartAt h) false 0x0D 2 (w.zeroExtend 64))
    ∧ (∀ m r, s.pkg.writers = m :: r → ¬ m = 0 → ¬ ownerOf s = m.toNat → ∀ i ∈ [Instr.plctlStart d k, .plctlStop d k, .pldlAck d k 0],
        exec i s = .next { s with pkg := { s.pkg with writers := r } })
    ∧ (∀ m, mine → ∃ t, exec (.pldlAck d k m) s = .next t ∧ RegIs s t dl (rawReg s dl &&& ~~~ BitVec.ofNat 64 m.toNat))
    ∧ (¬ p.state = 1 → exec (.balancerInterval d k) s = .next s)
    ∧ (p.state = 1 →
        let count := fun (a : Nat) => avTail s d k a - avHead s d k a
        let occ := fun (g : StageDesc) => if g.inmask = 0 then 256
          else ((List.range 32).filter fun a => g.inmask.getLsbD a).foldl (fun m a => max m (256 * count a / (avDesc s d k a).cap)) 0
        let dem := fun (i : Nat) => match p.stages[i]? with
          | some g => if (List.range 32).any (fun a => g.outmask.getLsbD a && count a == (avDesc s d k a).cap) then 0
            else g.weight * occ g
          | none => 0
        let sampled := { p with occ := p.stages.map occ }
        ∃ t, exec (.balancerInterval d k) s = .next t ∧ only t
          ∧ ((∀ i, dem i = 0) → pipeAt t d k = sampled)
          ∧ ((∃ i, ¬ dem i = 0) → StagesFit p.stages p.pool.length → ∃ f, TargetsAre p.stages dem p.pool.length f
            ∧ (let begun := { sampled with target := (List.range p.stages.length).map f }
               let move := MoveStep (fun i => p.allot.getD i 0) (fun i => if i < p.stages.length then f i else 0)
               (devReq s = true → pipeAt t d k = begun)
               ∧ (devReq s = false → ∃ m, m ≤ p.movemax ∧ Iterated move m begun (pipeAt t d k)
                  ∧ (m = p.movemax ∨ ∀ z, ¬ move (pipeAt t d k) z)))))
    ∧ (let ended := wordReady s p.done = true ∧ p.pool.all (fun e => coreIdle s (64 * d + e.1)) = true ∧ ∀ e ∈ p.pool, ∀ src dst, e.2 = .leaving src dst →
         replayWaits s d k src e.1 = false
       (¬ (p.state = 2 ∧ ended) → exec (.pipelineStopComplete d k) s = .next s)
       ∧ (p.state = 2 → ended → p.done = 0 → ∃ t, exec (.pipelineStopComplete d k) s = .next t ∧ only t
          ∧ pipeAt t d k = { Pipe.reset with gen := p.gen })
       ∧ (p.state = 2 → ended → ¬ p.done = 0 → inHbm p.done 8 = true → ∃ t, exec (.pipelineStopComplete d k) s = .next t
          ∧ only { t with mem := s.mem } ∧ pipeAt t d k = { Pipe.reset with gen := p.gen }
          ∧ gather (memByte t) p.done 8 = p.gen.toNat
          ∧ ∀ a, ¬ (p.done ≤ a ∧ a < p.done + 8) → memByte t a = memByte s a)))
  ∧ (∀ (s : State) (core k : Nat), core < 512 → k < 8 →
    let d := core / 64
    let c := core % 64
    (∀ j, j < k → assoc c (pipeAt s d j).pool = none) →
    ((∀ j, j < 8 → assoc c (pipeAt s d j).pool = none) → exec (.poolCoreJoin core) s = .next s)
    ∧ (∀ st, assoc c (pipeAt s d k).pool = some (.joining st) →
      (coreIdle s core = false → exec (.poolCoreJoin core) s = .next s)
      ∧ (coreIdle s core = true → ∃ t todo, exec (.poolCoreJoin core) s = .next t
        ∧ assoc c (pipeAt t d k).pool = some (.serves st todo)
        ∧ ∀ p, p < 8 → todo.getLsbD p = false →
          (t.hartAt (8 * core + p)).run = .running ∧ (t.hartAt (8 * core + p)).level = .u
            ∧ (t.hartAt (8 * core + p)).conf.avh = BitVec.ofNat 16 (k * 8192 + (pipeAt s d k).gen.toNat)
            ∧ ∃ g, (pipeAt s d k).stages[st]? = some g ∧ (t.hartAt (8 * core + p)).pc = g.entry)))

/-! Engines of a core and of a die -/

/-- R200, R211, R273, R288 to R291, R297, R299, R309 to R314: updates, drains and zeroing finish; quad packets are served and
answered, or lost with a machine check, or leave an error that the source's next packet meets (log 80); quad barriers are aborted;
a core applies its removals once it is quiescent, or after its watchdog has stopped it and its streams have ended their windows; a
migration copies its page line by line and then switches the entry. Results stand at issue (log 23). -/
def Obligations.CoreEngines : Prop :=
  (∀ (s : State) (h : Nat), ∃ t u, exec (.squareUpdateComplete h) s = .next t ∧ exec (.drainRowShift h) s = .next u
    ∧ OnlyHart { s with cur := h } { t with cur := h } ∧ t.hartAt h = { s.hartAt h with updBusy := 0 }
    ∧ OnlyHart { s with cur := h } { u with cur := h } ∧ t.cur = s.cur ∧ u.cur = s.cur
    ∧ { u.hartAt h with drainBusy := (s.hartAt h).drainBusy } = s.hartAt h
    ∧ ∀ r, r < 48 → (u.hartAt h).drainBusy.getLsbD r =
        ((s.hartAt h).drainBusy.getLsbD r && (List.range r).any fun q => (s.hartAt h).drainBusy.getLsbD q))
  ∧ (∀ (s : State) (c p : Nat), c < 512 →
    (¬ (p < 8 ∧ (zeroing s c).getLsbD p = true) → exec (.clusterZeroDone c p) s = .next s)
    ∧ (p < 8 → (zeroing s c).getLsbD p = true → ∃ t, exec (.clusterZeroDone c p) s = .next t
      ∧ (∀ g j, (zeroing t g).getLsbD j = ((zeroing s g).getLsbD j && !(decide (g = c) && decide (j = p))))
      ∧ (∀ g r k, g < 512 → r < 48 → k < 128 → cell t g r k = (if g = c ∧ k / 16 = p then 0 else cell s g r k)
          ∧ cellMark t g r k = (cellMark s g r k && !(decide (g = c) && decide (k / 16 = p))))
      ∧ { t with
          cores := { t.cores with cells := s.cores.cells, zeroing := s.cores.zeroing }
          marks := { t.marks with cell := s.marks.cell, unlanded := s.marks.unlanded } } = s))
  ∧ (∀ (s : State) (p : QuadPacket), let c := coreOf p.srcHart / 4 * 4 + p.target % 4
    coreDead s c = false → ¬ p.err = .header → p.srcHart < 4096 → (p.offsets = [] → p.err = .none) →
    let counted := fun (t : State) => rawReg t (ctlPa c 0x108) = rawReg s (ctlPa c 0x108) + 1
    let spoilt := c % 512 + p.group % 2 ^ 14 * 2 ^ 18
    (∀ vs, p.data = some vs → (∀ o ∈ p.offsets, o.2 + p.bytes ≤ 2 ^ 24 ∧ o.2 % 128 + p.bytes ≤ 128) →
      ∃ t, exec (.quadPacketServe p) s = .next t ∧ counted t ∧ t.mem = s.mem ∧ (∀ h, t.hartAt h = s.hartAt h)
        ∧ (∀ g q, g < 512 → q < 2 ^ 24 → vaultByte t g q = (p.offsets.zip vs).foldl
            (fun m o => HeldPlace.vaultPut (.vault c o.1.2) p.bytes o.2 m) (vaultByte s) g q)
        ∧ (∀ g q, g < 512 → q < 2 ^ 24 → vaultMark t g q = (vaultMark s g q || (decide (p.err = .data) && decide (g = c)
            && (p.offsets.zip vs).any fun o => decide (o.1.2 / 128 = q / 128))))
        ∧ ∀ o, p.err = .data → p.offsets = [o] → let line := vaultPa c (o.2 / 128 * 128)
          Logged s t (dieOf p.srcHart) 2 line (line + 128) spoilt)
    ∧ (p.data = none → (∃ o ∈ p.offsets, lineReadsEmpty s c o.2 = true) → exec (.quadPacketServe p) s = .next s)
    ∧ (p.data = none → (∀ o ∈ p.offsets, lineReadsEmpty s c o.2 = false) → ∃ t, exec (.quadPacketServe p) s = .next t
        ∧ counted t ∧ t.mem = s.mem ∧ t.vault = s.vault ∧ t.marks = s.marks ∧ (∀ h, t.hartAt h = s.hartAt h)
        ∧ (p.err = .none → { t with regs := s.regs, agenda := s.agenda } = s)
        ∧ (∀ o, p.err = .data → p.offsets = [o] →
            let a := squarePa (coreOf p.srcHart) p.reg.toNat (elemCol (s.hartAt p.srcHart).grant (8 * p.bytes) o.1)
            Logged s t (dieOf p.srcHart) 2 a (a + 8) spoilt)
        ∧ t.agenda = s.agenda ++ [.quadResponseArrive ⟨p.srcHart, p.reg, 8 * p.bytes, p.offsets.map fun o =>
            (o.1, peek s (vaultPa c o.2) p.bytes, markAny s (vaultPa c o.2) p.bytes || decide (p.err = .data))⟩]))
  ∧ (∀ (s : State) (p : QuadPacket), let c := coreOf p.srcHart / 4 * 4 + p.target % 4
      let x := s.hartAt p.srcHart
      let log := diePa (dieOf p.srcHart) (0x20000 + 64 * ((rawReg s (diePa (dieOf p.srcHart) 0x310)).toNat % 256))
      (coreDead s c = true → ¬ p.offsets = [] → exec (.quadPacketServe p) s = .next s)
      ∧ (p.err = .header → coreDead s c = false → ¬ p.offsets = [] →
        ∃ t, exec (.quadPacketServe p) s = .next t ∧ t.vault = s.vault ∧ t.hartAt p.srcHart = { x with mcheck := some log }
          ∧ ∀ h, ¬ h = p.srcHart → t.hartAt h = s.hartAt h)
      ∧ (¬ p.err = .none → p.offsets = [] → p.srcHart < 4096 →
        exec (.quadPacketServe p) s = .next (s.setHart p.srcHart { x with exch := some ⟨p.target % 4, p.group, p.err⟩ })))
  ∧ (∀ (s : State) (h : Nat) (reg : VReg) (ew e v : Nat) (bad : Bool), reg.toNat < 48 → ew ∈ [8, 16, 32, 64] → h < 4096 →
      e < 1024 * grantCount (s.hartAt h).grant / ew → v < 2 ^ ew → let g := (s.hartAt h).grant
      ∃ t, exec (.quadResponseArrive ⟨h, reg, ew, [(e, v, bad)]⟩) s = .next t ∧ t.cur = s.cur
        ∧ (∀ i, i < 1024 * grantCount g / ew →
            elemAt { t with cur := h } reg.toNat ew i = if i = e then v else elemAt { s with cur := h } reg.toNat ew i)
        ∧ (bad = true → cellMark t (coreOf h) reg.toNat (elemCol g ew e) = true) ∧ ∀ k, ¬ k = h → t.hartAt k = s.hartAt k)
  ∧ (∀ (s : State) (q : Nat) (m : BitVec 16), s.pkg.writers = [] → ∃ t u, exec (.qbctlAbort q m) s = .next t
      ∧ exec (.qbctlAbortedClear q m) s = .next u
      ∧ (∀ b, b < 16 → barrierAt t (barrierKey .quad q b) = if m.getLsbD b then
            ⟨(barrierAt s (barrierKey .quad q b)).phase + 1, 0, 0⟩ else barrierAt s (barrierKey .quad q b))
      ∧ RegIs s { t with pkg := s.pkg } (qbctlPa q) (rawReg s (qbctlPa q) ||| BitVec.ofNat 64 (m.toNat * 2 ^ 16))
      ∧ RegIs s u (qbctlPa q) (rawReg s (qbctlPa q) &&& ~~~ BitVec.ofNat 64 (m.toNat * 2 ^ 16)))
  ∧ (∀ (s : State) (c : Nat), c < 512 → let q := shootQueue s c
    let quietAll := (List.range 8).all fun p => quiescent s (8 * c + p)
    let ready := ∀ r ∈ q, ∀ p, r.done = some p → wordReady s p = true
    (q = [] ∨ quietAll = false ∨ ¬ ready → exec (.shootdownApply c) s = .next s)
    ∧ (¬ q = [] → quietAll = true → ready → ∃ t, exec (.shootdownApply c) s = .next t ∧ shootQueue t c = []
      ∧ (∀ e, e ∈ tlbAt t c ↔ e ∈ tlbAt s c ∧ ∀ r ∈ q, shootHits r e = false)
      ∧ (∀ e, e ∈ tlbAt t (520 + c / 64) ↔ e ∈ tlbAt s (520 + c / 64) ∧ ∀ r ∈ q, shootHits r e = false)
      ∧ (∀ r p, q = [r] → r.done = some p → inHbm p 8 = true →
          gather (memByte t) p 8 = (gather (memByte s) p 8 + 1) % 2 ^ 64)
      ∧ (∀ r p, q = [r] → r.done = some p → memBackedAll s p 8 = false → let reg := diePa (c / 64) 0x310
          rawReg t (diePa (c / 64) (0x20000 + 64 * ((rawReg s reg).toNat % 256)) + 8) = BitVec.ofNat 64 p
            ∧ (rawReg t reg).toNat % 256 = ((rawReg s reg).toNat + 1) % 256)
      ∧ (∀ p, p < 8 → (t.hartAt (8 * c + p)).quiet = false ∧ (t.hartAt (8 * c + p)).forced = false
          ∧ (t.hartAt (8 * c + p)).counted = false
          ∧ (t.hartAt (8 * c + p)).xlinvWait = false
          ∧ (t.hartAt (8 * c + p)).pc = (s.hartAt (8 * c + p)).pc
              + if (s.hartAt (8 * c + p)).xlinvWait = true ∨ (s.hartAt (8 * c + p)).hold = .qpoint then 4 else 0)
      ∧ ∀ h, ¬ h / 8 = c → t.hartAt h = s.hartAt h)
    ∧ (∀ p, p < 8 → let h := 8 * c + p; let w := rawReg s (ctlPa c 0x280)
      let ended := ∀ k, k < 16 → (slotAt s h k).winOpen = true → ¬ (slotAt s h k).state = .running
      (watchdogDue s c = false ∨ quiescent s h = true → exec (.watchdogForce c p) s = .next s)
      ∧ (watchdogDue s c = true → quiescent s h = false → ¬ ended →
        exec (.watchdogForce c p) s = .next (s.setHart h { s.hartAt h with forced := true }))
      ∧ (watchdogDue s c = true → quiescent s h = false → ended →
        ∃ t, exec (.watchdogForce c p) s = .next t ∧ t.hartAt h = { s.hartAt h with forced := true, counted := true }
          ∧ (∀ g, ¬ g = h → t.hartAt g = s.hartAt g) ∧ RegIs s { t with harts := s.harts } (ctlPa c 0x280)
            (BitVec.ofNat 64 ((w.toNat / 2 ^ 32 + 1) % 2 ^ 32 * 2 ^ 32 + w.toNat % 2 ^ 32)))))
  ∧ (∀ (s : State) (d : Nat) (m : Migration) (rest : List Migration), migsOf s d = m :: rest →
    let size := 2 ^ (pageLog m.size)
    let src := m.src + 128 * m.line
    let dst := m.dst + 128 * m.line
    let more := fun (t : State) => { t with dies := { t.dies with migs := s.dies.migs } } = s
      ∧ ∀ e, ¬ e = d → migsOf t e = migsOf s e
    (wordReady s m.done = false → exec (.migrationStart d) s = .next s ∧ ∀ e, exec (.migrationLineCopy d e) s = .next s)
    ∧ (m.phase = 0 → ptehElsewhere s d m.ptea = false → migSource s m = none → inHbm m.done 8 = true →
      ∃ t, exec (.migrationStart d) s = .next t ∧ migsOf t d = rest ∧ gather (memByte t) m.done 8 = 4
        ∧ more { t with mem := s.mem })
    ∧ (∀ a, wordReady s m.done = true → m.phase = 0 → ptehElsewhere s d m.ptea = false → migSource s m = some a → shootRoom s m.cores = false →
      ∃ t, exec (.migrationStart d) s = .next t ∧ migsOf t d = { m with phase := 1, src := a } :: rest ∧ more t)
    ∧ (wordReady s m.done = true → m.phase = 1 → shootRoom s m.cores = true → let named := fun (c : Nat) => c < 512 ∧ m.cores.testBit c = true ∧ coreDead s c = false
      ∃ t, exec (.migrationStart d) s = .next t
        ∧ migsOf t d = { m with phase := 2, waiting := (coresOf m.cores).filter fun c => !coreDead s c } :: rest
        ∧ (∀ c, named c → shootQueue t c = shootQueue s c ++ [⟨0, m.asid, m.va, none, some d, sget 0 s.clock (dieOfCore c)⟩])
        ∧ (∀ c, ¬ named c → shootQueue t c = shootQueue s c)
        ∧ more { t with cores := s.cores })
    ∧ (m.phase = 2 ∨ (m.phase = 1 ∧ shootRoom s m.cores = false) ∨ (m.phase = 0 ∧ ptehElsewhere s d m.ptea = true) →
      exec (.migrationStart d) s = .next s)
    ∧ (¬ (m.phase = 2 ∧ m.waiting = []) → ∀ e, exec (.migrationLineCopy d e) s = .next s)
    ∧ (wordReady s m.done = true → m.phase = 2 → m.waiting = [] → inHbm src 128 = true → inHbm dst 128 = true → src % 128 = 0 → dst % 128 = 0 →
      (src + 128 ≤ dst ∨ dst + 128 ≤ src) → 128 * (m.line + 1) < size → ∃ t, exec (.migrationLineCopy d .none) s = .next t
        ∧ migsOf t d = { m with line := m.line + 1 } :: rest
        ∧ (∀ a, memByte t a = if dst ≤ a ∧ a < dst + 128 then memByte s (src + (a - dst)) else memByte s a)
        ∧ (∀ a, a < 2 ^ 40 → memMark t a = if a / 128 = dst / 128 then memMark s src else memMark s a)
        ∧ more { t with mem := s.mem, marks := s.marks })
    ∧ (m.phase = 2 → m.waiting = [] → inHbm m.done 8 = true → ∃ t, exec (.migrationLineCopy d .writeFailed) s = .next t
        ∧ migsOf t d = rest ∧ gather (memByte t) m.done 8 = (dst + 3) % 2 ^ 64 ∧ more { t with mem := s.mem })
    ∧ (m.phase = 2 → m.waiting = [] → inHbm src 128 = true → inHbm dst 128 = true → inHbm m.ptea 8 = true →
      inHbm m.done 8 = true → (m.ptea + 8 ≤ m.done ∨ m.done + 8 ≤ m.ptea) → (m.ptea + 8 ≤ dst ∨ dst + 128 ≤ m.ptea) →
      m.dst < 2 ^ 52 → size = 128 * (m.line + 1) → ∃ t, exec (.migrationLineCopy d .none) s = .next t ∧ migsOf t d = rest
        ∧ gather (memByte t) m.done 8 = 1
        ∧ (pteOf (gather (memByte t) m.ptea 8)) = { pteOf (gather (memByte s) m.ptea 8) with pfn := m.dst / 4096 }))

/-! Errors, sparing and ports -/

/-- R316 to R321, R350, R418 to R420: an error is logged at HEAD with its class; lost data are marked, or raise MCHECK at the
harts that own state without marks; a unit that becomes lasting starts its sparing, which uses a spare or retires the unit; a core
that fails loses its harts' state; ports keep a link, fall back to one lane, or are retired. Which harts own what, what a failed
core keeps and where OVER counts are the model's choices (log 57, 58, 56), and so is that an access waiting for a replacement is
one step (log 4). That SPARED says whether a spare is left for the unit is the model's reading (log 55); the range and the unit index
of a retired row or pseudo-channel are its choice (log 94). -/
def Obligations.ErrorsAndSparing : Prop :=
  (∀ (s : State) (e : ErrorReport), e.die < 8 → let place := e.core % 512 + e.cluster % 8 * 512 + e.row % 64 * 4096 + e.index % 2 ^ 14 * 2 ^ 18
    let lost := e.uncorrectable = true
    let log := diePa e.die (0x20000 + 64 * ((rawReg s (diePa e.die 0x310)).toNat % 256))
    let owns := fun (h : Nat) => match e.owner with
      | .hart g => h = g
      | .core => h / 8 = e.core
      | .die => h / 512 = e.die
      | .task k => h / 512 = e.die ∧ (s.hartAt h).task = some k
    (e.uncorrectable = false → ∃ t cls, exec (.errorDetect e) s = .next t ∧ (cls = 0 ∨ cls = 1)
      ∧ Logged s t e.die cls e.base e.limit place ∧ t.marks = s.marks ∧ t.mem = s.mem ∧ t.vault = s.vault
      ∧ ∀ h, t.hartAt h = s.hartAt h)
    ∧ (∀ u y, e.uncorrectable = false → unitOf e = some u → u ∉ s.dies.sparing →
        s.dies.tracked.find? (fun x => x.die == e.die && decide (x.kind = (errUnitKey e).1) && x.unit == (errUnitKey e).2) = some y →
        y.lasting = false → sget 0 s.clock e.die < y.start + rasWindow s e.die → rasThreshold s e.die ≤ y.n + 1 →
        ∃ t, exec (.errorDetect e) s = .next t ∧ t.dies.sparing = s.dies.sparing ++ [u] ∧ t.agenda = sparingEvent u :: s.agenda
          ∧ Logged s t e.die 1 e.base e.limit place ∧ (rawReg t log).getLsbD 11 = spareLeft s u
          ∧ rawReg t (log + 32) = BitVec.ofNat 64 (y.n + 1))
    ∧ (lost → e.kind = .hbm ∨ e.kind = .hbmChannel ∨ e.kind = .memCache → inHbm e.base (e.limit - e.base) = true → e.base ≤ e.limit →
      ∃ t, exec (.errorDetect e) s = .next t ∧ Logged s t e.die 2 e.base e.limit place
        ∧ (∀ a, a < 2 ^ 40 → memMark t a = (memMark s a || decide (e.base / 128 ≤ a / 128 ∧ a / 128 * 128 < e.limit ∧ e.base < e.limit)))
        ∧ t.mem = s.mem ∧ ∀ h, t.hartAt h = s.hartAt h)
    ∧ (∀ c o n, lost → e.kind = .vault → c < 512 → e.base = vaultPa c o → e.limit = e.base + n → o + n ≤ 2 ^ 24 →
      ∃ t, exec (.errorDetect e) s = .next t ∧ Logged s t e.die 2 e.base e.limit place ∧ t.vault = s.vault
        ∧ ∀ g q, g < 512 → q < 2 ^ 24 → vaultMark t g q =
            (vaultMark s g q || decide (g = c ∧ o / 128 ≤ q / 128 ∧ q / 128 * 128 < o + n ∧ 0 < n)))
    ∧ (∀ c r j k, lost → e.kind = .cell → regionOf e.base = .square c r j k → ∃ t, exec (.errorDetect e) s = .next t
        ∧ Logged s t e.die 2 e.base e.limit place
        ∧ ∀ g x y, g < 512 → x < 48 → y < 128 → cellMark t g x y = (cellMark s g x y || decide (g = c ∧ x = r ∧ y = j)))
    ∧ (lost → e.kind = .coreReg → ∃ t, exec (.errorDetect e) s = .next t
        ∧ Logged s t e.die 2 e.base e.limit place ∧ (∀ h, owns h → t.hartAt h = { s.hartAt h with mcheck := some log })
        ∧ ∀ h, ¬ owns h → t.hartAt h = s.hartAt h)
    ∧ (lost → e.kind = .tcache → ∃ t, exec (.errorDetect e) s = .next t
        ∧ Logged s t e.die 0 e.base e.limit place ∧ tlbAt t e.core = [] ∧ ∀ h, t.hartAt h = s.hartAt h))
  ∧ (∀ (s : State) (l : Nat), exec (.scrubRead l .clean) s = .next s
    ∧ (inHbm (128 * l) 128 = true → let d := l / 2 ^ 30; let place := Config.hbmRow (128 * l) % 2 ^ 14 * 2 ^ 18
      (∃ t cls, exec (.scrubRead l .corrected) s = .next t ∧ (cls = 0 ∨ cls = 1)
        ∧ Logged s t d cls (128 * l) (128 * l + 128) place ∧ t.mem = s.mem ∧ t.marks = s.marks)
      ∧ ∃ t, exec (.scrubRead l .uncorrectable) s = .next t ∧ Logged s t d 2 (128 * l) (128 * l + 128) place ∧ t.mem = s.mem
        ∧ ∀ a, a < 2 ^ 40 → memMark t a = (memMark s a || decide (a / 128 = l)))
    ∧ (∀ c o, regionOf (128 * l) = .vault c o → o % 128 = 0 → c < 512 → o < 2 ^ 24 →
      let place := c + o / 2 ^ 21 * 512 + o / 128 % 2 ^ 14 * 2 ^ 18
      (∃ t cls, exec (.scrubRead l .corrected) s = .next t ∧ (cls = 0 ∨ cls = 1)
        ∧ Logged s t (c / 64) cls (128 * l) (128 * l + 128) place ∧ t.vault = s.vault ∧ t.marks = s.marks)
      ∧ ∃ t, exec (.scrubRead l .uncorrectable) s = .next t ∧ Logged s t (c / 64) 2 (128 * l) (128 * l + 128) place
        ∧ t.vault = s.vault
        ∧ ∀ g q, g < 512 → q < 2 ^ 24 → vaultMark t g q = (vaultMark s g q || decide (g = c ∧ q / 128 = o / 128))))
  ∧ (∀ (s : State) (v : SparableUnit), exec (.sparingComplete v) s = .next s
    ∧ (v ∉ s.dies.sparing → exec (.spareApply v) s = .next s)
    ∧ (∀ n l, v = .lane n l → exec (.spareApply v) s = .next s)
    ∧ (v ∈ s.dies.sparing →
      let taken := sget 0 s.dies.spareUsed (spareKey v)
      let limit := match v with
        | .vaultLine _ _ => 64
        | .hbmRow _ _ => Config.rowSpares
        | .hbmChannel _ _ => 1
        | _ => 4
      let gone := fun (t : State) => t.dies.sparing = s.dies.sparing.filter fun w => !decide (w = v)
      let marks := fun (t : State) (d : Nat) (lines : List Nat) => t.mem = s.mem
        ∧ ∀ a, a < 2 ^ 40 → memMark t a = (memMark s a || lines.any fun x => inHbm x 1 && decide (x / 2 ^ 37 = d)
            && decide (x / 128 = a / 128))
      let span := fun (lines : List Nat) => (lines.foldl Nat.min (lines.headD 0), lines.foldl Nat.max 0 + 128)
      ((∀ n l, ¬ v = .lane n l) → (∀ c, ¬ v = .core c) → (∀ c p, ¬ v = .cluster c p) → taken < limit →
        ∃ t, exec (.spareApply v) s = .next t ∧ SparedIn { s with dies := { s.dies with
          spareUsed := sset 0 s.dies.spareUsed (spareKey v) (taken + 1) } } t v)
      ∧ (∀ c l, v = .vaultLine c l → c < 512 → l < 2 ^ 17 → 64 ≤ taken → ∃ t, exec (.spareApply v) s = .next t ∧ gone t
          ∧ RetiredAs s t (c / 64) 2 true (vaultPa c (128 * l)) (vaultPa c (128 * l) + 128)
              (c + l / 2 ^ 14 * 512 + l % 2 ^ 14 * 2 ^ 18)
          ∧ ∀ g q, g < 512 → q < 2 ^ 24 → vaultMark t g q = (vaultMark s g q || (decide (g = c) && decide (q / 128 = l))))
      ∧ (∀ d r, v = .hbmRow d r → d < 8 → Config.rowSpares ≤ taken → let x := span (Config.hbmRowLines d r)
          ∃ t, exec (.spareApply v) s = .next t ∧ gone t ∧ marks t d (Config.hbmRowLines d r)
            ∧ RetiredAs s t d 0 true x.1 x.2 (r % 2 ^ 14 * 2 ^ 18))
      ∧ (∀ d h, v = .hbmChannel d h → d < 8 → 1 ≤ taken → let x := span (Config.hbmChannelLines d h)
          ∃ t, exec (.spareApply v) s = .next t ∧ gone t ∧ marks t d (Config.hbmChannelLines d h)
            ∧ RetiredAs s t d 0 true x.1 x.2 (h % 2 ^ 14 * 2 ^ 18))
      ∧ (∀ d w, v = .wire d w → d < 8 → 4 ≤ taken → ∃ t, exec (.spareApply v) s = .next t ∧ gone t ∧ t.marks = s.marks
            ∧ RetiredAs s t d 5 false 0 0 (w % 2 ^ 14 * 2 ^ 18))
      ∧ (∀ c p, v = .cluster c p → p < 8 → let free := ungranted s c
          (free.getLsbD p = false → exec (.spareApply v) s = .next s)
          ∧ (free.getLsbD p = true → sget false s.cores.spareCluster c = false → ∃ t, exec (.spareApply v) s = .next t
              ∧ SparedIn { s with cores := { s.cores with spareCluster := sset false s.cores.spareCluster c true } } t v)
          ∧ (free.getLsbD p = true → sget false s.cores.spareCluster c = true → ∃ t, exec (.spareApply v) s = .next t ∧ gone t
              ∧ ∀ q, q < 8 → (ungranted t c).getLsbD q = (free.getLsbD q && !decide (q = p))))
      ∧ (∀ c, v = .core c → c < 512 → let d := c / 64; let w := rawReg s (diePa d 0x320)
          let idle := (List.range 8).all fun p => decide ((s.hartAt (8 * c + p)).run = .idle)
          let spares := w.toNat / 2 ^ 16 % 2 ^ 8
          (idle = false → exec (.spareApply v) s = .next s)
          ∧ (idle = true → coreDead s c = true → ∃ t, exec (.spareApply v) s = .next t ∧ SparedIn s t v)
          ∧ (idle = true → coreDead s c = false → 0 < spares → ∃ t, exec (.spareApply v) s = .next t
              ∧ SparedIn (setReg s (diePa d 0x320) (BitVec.ofNat 64 ((spares - 1) * 2 ^ 16 + w.toNat % 2 ^ 7))) t v)
          ∧ (idle = true → coreDead s c = false → spares = 0 →
              (∀ r ∈ shootQueue s c, ∀ p, r.done = some p → inHbm p 8 = true) → ∃ t, exec (.spareApply v) s = .next t ∧ gone t
              ∧ coreDead t c = true ∧ (∀ g, ¬ g = c → coreDead t g = coreDead s g) ∧ shootQueue t c = []
              ∧ rawReg t (diePa d 0x320) = BitVec.ofNat 64 (w.toNat % 2 ^ 7 - 1)))))
  ∧ (∀ (s : State) (c : Nat), c < 512 →
    (coreDead s c = true → exec (.coreFailure c) s = .next s)
    ∧ (coreDead s c = false → ∃ t, exec (.coreFailure c) s = .next t ∧ tlbAt t c = []
      ∧ (∀ p, p < 8 → let x := s.hartAt (8 * c + p); let y := t.hartAt (8 * c + p)
          y.run = .idle ∧ y.task = none ∧ y.strap = x.strap ∧ y.mtrap = x.mtrap ∧ y.root = x.root ∧ y.asid = x.asid ∧ y.pod = x.pod)
      ∧ (∀ h, ¬ h / 8 = c → t.hartAt h = s.hartAt h)
      ∧ (∀ p k, p < 8 → (s.hartAt (8 * c + p)).task = some k → (∀ q, q < 8 → (s.hartAt (8 * c + q)).task = some k → q = p) →
          (taskAt s (c / 64) k).state = .running → (taskAt s (c / 64) k).producer = none →
          (∀ q j, q < 8 → (s.hartAt (8 * c + q)).task = some j → (taskAt s (c / 64) j).producer = none) →
          ((s.hartAt (8 * c + p)).stat.ceff = false → (taskAt s (c / 64) k).popped = false →
            (taskAt t (c / 64) k).state = .ready ∧ (taskAt t (c / 64) k).started = false)
          ∧ ((s.hartAt (8 * c + p)).stat.ceff = true ∨ (taskAt s (c / 64) k).popped = true →
              (taskAt t (c / 64) k).state = .exited ∨ (taskAt t (c / 64) k).state = .free))))
  ∧ (∀ (s : State) (n : Nat), n < 64 → let pa := diePa 0 (0x3100 + 16 * n); let w := (rawReg s pa).toNat
    let link := fun (t : State) (up width : Nat) => rawReg t pa = BitVec.ofNat 64 (w % 2 + up * 2 + 4 * width)
    let sent := ∀ y ∈ s.pkg.held, y.unsent = true → y.refused = true
    (∀ l, ∃ t cls, exec (.flitResend ⟨n, l⟩) s = .next t ∧ (cls = 0 ∨ cls = 1)
      ∧ Logged s t (n / 8) cls 0 0 ((2 * n + l % 2) * 2 ^ 18) ∧ ∀ h, t.hartAt h = s.hartAt h)
    ∧ (SparableUnit.lane n 0 ∉ s.dies.sparing → SparableUnit.lane n 1 ∉ s.dies.sparing → exec (.laneRetrain n) s = .next s)
    ∧ (∀ l, l < 2 → SparableUnit.lane n l ∈ s.dies.sparing → (∀ j, j < l → SparableUnit.lane n j ∉ s.dies.sparing) →
      (w / 4 % 4 = 2 → ∃ t, exec (.laneRetrain n) s = .next t ∧ link t 1 1
          ∧ (sent → SparedIn (setReg s pa (rawReg t pa)) t (.lane n l)))
      ∧ (w / 4 % 4 = 1 → ∃ t, exec (.laneRetrain n) s = .next t ∧ link t 0 0
          ∧ RetiredAs s t (n / 8) 6 false 0 0 ((2 * n + l) * 2 ^ 18))
      ∧ (¬ w / 4 % 4 = 1 → ¬ w / 4 % 4 = 2 → ∃ t, exec (.laneRetrain n) s = .next t ∧ SparedIn s t (.lane n l)))
    ∧ (∀ width : BitVec 2, width = 1 ∨ width = 2 → ∃ t, exec (.portLinkTrained n width) s = .next t ∧ link t 1 width.toNat
        ∧ (sent → RegIs s t pa (rawReg t pa))
        ∧ t.pkg.held = s.pkg.held.map fun y => { y with unsent := y.unsent && (y.refused || (sendPort t).isNone) }))

/-! Command harts, queues and registers -/

/-- R388, R394, R397 to R402, R409, R412, R413: command harts start and stop; the oldest entry of a queue starts, copies its
chunks and completes, adding to its semaphore, and device pre-emption lets one that has started create the rest of its tasks;
skips, flushes, acknowledgements and writes of registers and semaphores; a register write by a master that does not own the
device is discarded, but a semaphore takes any. The order among queues is that of log 72. -/
def Obligations.CommandQueues : Prop :=
  (∀ (s : State) (id : Nat), id < 8 → let x := s.hartAt (4096 + id)
    let ctl := ioPa (id / 4) (0x1000 + 32 * (id % 4))
    let mine := s.pkg.writers = []
    (mine → ∃ t, exec (.chctlRunStart id) s = .next t ∧ rawReg t ctl = 1 ∧ (∀ h, ¬ h = 4096 + id → t.hartAt h = s.hartAt h)
      ∧ (x.run = .halted → (t.hartAt (4096 + id)).run = .running ∧ (t.hartAt (4096 + id)).level = .s
        ∧ (t.hartAt (4096 + id)).pc = rawReg s (chpcPa (4096 + id)) &&& 0xFFFFFFFFFFFFFFFC#64
        ∧ (t.hartAt (4096 + id)).stat.sie = false ∧ (t.hartAt (4096 + id)).stat.snest = false
        ∧ (t.hartAt (4096 + id)).sregs = x.sregs)
      ∧ (¬ x.run = .halted → t.hartAt (4096 + id) = x))
    ∧ (mine → ∃ t, exec (.chctlRunStop id) s = .next t ∧ rawReg t ctl = 0 ∧ (∀ h, ¬ h = 4096 + id → t.hartAt h = s.hartAt h)
      ∧ t.hartAt (4096 + id) = if x.run = .running then { x with stopReq := true } else x)
    ∧ (x.stopReq = false → exec (.cmdhartStopped id) s = .next s)
    ∧ (x.stopReq = true → x.hold = .none → devReq s = false → ∃ t, exec (.cmdhartStopped id) s = .next t
        ∧ RegIs s { t with harts := s.harts } (chpcPa (4096 + id)) (x.pc &&& 0xFFFFFFFFFFFFFFFC#64)
        ∧ t.hartAt (4096 + id) = { x with
            run := .halted
            hold := .none
            begun := none
            kept := 0
            stopAt := none
            stopReq := false }
        ∧ ∀ h, ¬ h = 4096 + id → t.hartAt h = s.hartAt h))
  ∧ (∀ (s : State) (m : BitVec 2) (r : List (BitVec 2)), s.pkg.writers = m :: r →
    let dropped := { s with pkg := { s.pkg with writers := r } }
    (¬ m = 0 → ¬ ownerOf s = m.toNat →
      (∀ id io q, ∀ i ∈ [Instr.chctlRunStart id, .chctlRunStop id, .qctlSkip io q, .qctlFlush io q, .extsrcAck io q,
          .devpreRequest, .devpreResume, .ckctlGo true, .ckctlGo false, .qbctlAbort id 0, .qbctlAbortedClear id 0],
        exec i s = .next dropped)
      ∧ ∀ pa v, isRegister pa = true → pa % 8 = 0 → openRegister pa = false → exec (.registerWrite pa v) s = .next dropped)
    ∧ (∀ n v, n < 256 → ∃ t, exec (.registerWrite (semPa n) v) s = .next t ∧ RegIs dropped t (semPa n) v))
  ∧ (∀ (s : State) (io q : Nat), io < 2 → q < 12 → let x := queueAt s io q
    let only := fun (t : State) => { t with pkg := { t.pkg with queues := s.pkg.queues } } = s
      ∧ ∀ i j, j < 12 → ¬ (i = io ∧ j = q) → queueAt t i j = queueAt s i j
    (x.failed.isSome = true ∨ (devReq s = true ∧ x.started = false) ∨ x.entries = [] → exec (.queueEntryStart io q) s = .next s)
    ∧ (∀ d count rec sem t rest k, x.failed = none → x.started = true → x.entries = .tasks d count rec sem :: rest → d < 8 →
        x.made + 1 = count → freeEntry s d = some k → (peekBacked s (rec + 64 * x.made) 64).bind parseTask = some t →
        ∃ u, exec (.queueEntryStart io q) s = .next u
          ∧ queueAt u io q = { x with made := count, handles := x.handles ++ [handleOf u d k] }
          ∧ taskAt u d k = { t with
              state := .ready
              gen := nextGen (taskAt s d k).gen
              readySeq := (dispAt s d).seq
              readyAt := (dispAt s d).decisions }
          ∧ ∀ h, u.hartAt h = s.hartAt h)
    ∧ (x.failed = none → devReq s = false → ∀ rest, (∀ d count rec sem t, x.entries = .tasks d count rec sem :: rest →
        x.started = false → x.made = 0 → x.handles = [] → count = 1 → queueOutranked s io q d = false → d < 8 → ∀ k, freeEntry s d = some k →
        (peekBacked s rec 64).bind parseTask = some t →
        ∃ u, exec (.queueEntryStart io q) s = .next u ∧ queueAt u io q = { x with
            started := true
            made := 1
            handles := [handleOf u d k] }
          ∧ taskAt u d k = { t with
              state := .ready
              gen := nextGen (taskAt s d k).gen
              readySeq := (dispAt s d).seq
              readyAt := (dispAt s d).decisions }
          ∧ ∀ h, u.hartAt h = s.hartAt h)
      ∧ (∀ d k rec sem, x.entries = .pipeline d k rec sem :: rest → x.started = false →
          ((pipeAt s d k).state = 1 ∨ (pipeAt s d k).state = 2 → exec (.queueEntryStart io q) s = .next s)
          ∧ ((pipeAt s d k).state = 0 ∨ (pipeAt s d k).state = 3 → d < 8 → k < 8 → ∃ u, exec (.queueEntryStart io q) s = .next u
            ∧ ((pipeAt u d k).state = 1 ∧ queueAt u io q = { x with
                  started := true
                  handles := [BitVec.ofNat 64 (pipeAt u d k).gen.toNat] }
              ∨ (pipeAt u d k).state = 3 ∧ (queueAt u io q).failed = some 2)))
      ∧ (∀ src dst len sem, x.entries = .copy src dst len sem :: rest → x.started = false →
          (copyRange s src len = true → copyRange s dst len = true → ¬ (src < dst + len ∧ dst < src + len) →
            ∃ u, exec (.queueEntryStart io q) s = .next u ∧ only u ∧ queueAt u io q = { x with started := true })
          ∧ (copyRange s src len = false ∨ copyRange s dst len = false → ∃ u, exec (.queueEntryStart io q) s = .next u
            ∧ (queueAt u io q).failed = some 3)
          ∧ (copyRange s src len = true → copyRange s dst len = true → src < dst + len → dst < src + len →
            ∃ u, exec (.queueEntryStart io q) s = .next u ∧ (queueAt u io q).failed = some 4)))
    ∧ (∀ src dst len sem rest n, x.entries = .copy src dst len sem :: rest →
        let lo := 4096 * n - dst % 4096
        let hi := min (4096 * (n + 1) - dst % 4096) len
        let ready := x.started = true ∧ n < (dst % 4096 + len + 4095) / 4096 ∧ sget false x.chunks n = false ∧ devReq s = false
          ∧ copyOutranked s io q = false
        (¬ ready → exec (.copyChunk io q n) s = .next s)
        ∧ (ready → inHbm src len = true → inHbm dst len = true → (src + len ≤ dst ∨ dst + len ≤ src) → markAny s src len = false →
          ∃ t, exec (.copyChunk io q n) s = .next t ∧ only { t with mem := s.mem }
            ∧ sget false (queueAt t io q).chunks n = true
            ∧ ∀ a, memByte t a = if dst + lo ≤ a ∧ a < dst + hi then memByte s (src + (a - dst)) else memByte s a))
    ∧ ((x.started = false ∨ entryOver s x = none) → exec (.queueEntryComplete io q) s = .next s)
    ∧ (∀ sem, x.started = true → entryOver s x = some sem → ∃ t, exec (.queueEntryComplete io q) s = .next t
        ∧ only { t with regs := s.regs }
        ∧ queueAt t io q = { x with
            entries := x.entries.drop 1
            head := x.head + 1
            started := false
            made := 0
            handles := []
            chunks := [] }
        ∧ (sem.getLsbD 15 = false → t.regs = s.regs)
        ∧ (sem.getLsbD 15 = true → RegIs s { t with pkg := s.pkg } (semPa (sem.toNat % 256))
            (semAt s (sem.toNat % 256) + BitVec.ofNat 64 (sem.toNat / 2 ^ 32))))
    ∧ (s.pkg.writers = [] → x.failed = none → exec (.qctlSkip io q) s = .next s)
    ∧ (s.pkg.writers = [] → x.failed.isSome = true → ∃ t, exec (.qctlSkip io q) s = .next t ∧ only t ∧ (queueAt t io q).failed = none
        ∧ (queueAt t io q).entries = x.entries.drop 1 ∧ (queueAt t io q).head = x.head + 1)
    ∧ (s.pkg.writers = [] → ∃ t, exec (.qctlFlush io q) s = .next t ∧ only t ∧ (queueAt t io q).failed = none ∧ (queueAt t io q).entries = []
        ∧ (queueAt t io q).head = x.head + BitVec.ofNat 32 x.entries.length))
  ∧ (∀ (s : State) (n : Nat) (v : Word), n < 256 → ∃ t, exec (.semaphoreWrite n v) s = .next t ∧ RegIs s t (semPa n) v)
  ∧ (∀ (s : State) (c p : Nat), let h := c * 8 + p
    let w := sget [] s.cores.extWait h
    s.pkg.writers = [] → ∃ t, exec (.extsrcAck c p) s = .next t ∧ (∀ g, ¬ g = h → extQueue t g = extQueue s g)
      ∧ ((extQueue s h).length ≤ 16 → extQueue t h = (extQueue s h).drop 1 ++ w.take 1 ∧ sget [] t.cores.extWait h = w.drop 1)
      ∧ { t with cores := { t.cores with extQ := s.cores.extQ, extWait := s.cores.extWait } } = s)
  ∧ (∀ (s : State) (pa : Nat) (v : Word), (¬ (isRegister pa = true ∧ pa % 8 = 0) → exec (.registerWrite pa v) s = .next s)
    ∧ (isRegister pa = true → pa % 8 = 0 → s.pkg.writers = [] → ∃ t, exec (.registerWrite pa v) s = .next t
      ∧ (∀ n, n < 256 → pa = semPa n → RegIs s t pa v)
      ∧ (∀ d, d < 8 → pa = diePa d 0x310 →
          RegIs s t pa (rawReg s pa &&& ~~~ (v &&& 0xFFFFFFFF00000000#64)))
      ∧ (pa = ckctlPa → v.getLsbD 0 = false → RegIs s t pa (BitVec.ofNat 64
          ((rawReg s pa).toNat / 4 % 8 * 4 + if v.getLsbD 1 then 2 else 0)))))

/-! The host, ownership, checkpoint and power -/

/-- R382, R388, R397, R410, R412 to R417, R421, R422, R433: host accesses through the BARs, the host link, ownership of the
module, device pre-emption, the checkpoint, whose chunks leave as frames or are asked for over the ports of `CKPORTS`, and power.
A BAR0 write of a register is the owner's, or of a register that any master may write, or is discarded. What a host access reaches,
EPOCH, THROT, the restored marks, device reset, the shutdown record and that AOPR and CXLC outlast the link are the model's choices
(log 60, 30, 59, 74, 62, 54, 107). -/
def Obligations.HostAndPower : Prop :=
  (∀ (s : State), linkUp s = false → ∀ bar addr b len op w x y, exec (.hostWrite bar addr b) s = .next s
    ∧ exec (.hostRead bar addr len) s = .next s ∧ exec (.hostAtomicop bar addr op w x y) s = .next s)
  ∧ (∀ (s : State), linkUp s = true →
    let replied := fun (t : State) (b : List Byte) => t.pkg.hostReply = s.pkg.hostReply ++ [b]
      ∧ { t with pkg := { t.pkg with hostReply := s.pkg.hostReply } } = s
    (∀ addr b, inHbm addr b.length = true → addr < 2 ^ 40 → ∃ t, exec (.hostWrite 2 addr b) s = .next t
      ∧ (∀ a, memByte t a = if addr ≤ a ∧ a < addr + b.length then b.getD (a - addr) 0 else memByte s a)
      ∧ { t with mem := s.mem } = s)
    ∧ (∀ n (v : Word), n < 256 → ∃ t, exec (.hostWrite 0 (n / 128 * 2 ^ 24 + 0x100000 + 8 * (n % 128)) (bytesOfNat 8 v.toNat)) s
        = .next t ∧ RegIs s t (semPa n) v)
    ∧ (∀ i o, i < 2 → o < 2 ^ 24 → isRegister (ioPa i o) = true →
        let opens := o = 0 ∨ (0x100000 ≤ o ∧ o < 0x100400) ∨ (i = 0 ∧ 0x10000 ≤ o ∧ o < 0x18000)
        let asHost := { s with pkg := { s.pkg with writers := 1 :: s.pkg.writers } }
        (∀ v : Word, o % 8 = 0 → let f := exec (.hostWrite 0 (i * 2 ^ 24 + o) (bytesOfNat 8 v.toNat)) s
          (ownerOf s = 1 ∨ opens → f = exec (.registerWrite (ioPa i o) v) asHost) ∧ (¬ (ownerOf s = 1 ∨ opens) → f = .next s))
        ∧ ∀ b, ¬ (b.length = 8 ∧ o % 8 = 0) → exec (.hostWrite 0 (i * 2 ^ 24 + o) b) s = .next s)
    ∧ (∀ v : Word, ownerOf s = 1 →
        (∃ t, exec (.hostWrite 0 0x200008 (bytesOfNat 8 v.toNat)) s = .next t ∧ RegIs s t (ioPa 0 0x200008) v)
        ∧ ∃ t, exec (.hostWrite 0 0x200020 (bytesOfNat 8 v.toNat)) s = .next t ∧ RegIs s t (ioPa 0 0x200020)
          (BitVec.ofNat 64 ((rawReg s (ioPa 0 0x200020)).toNat / 2 ^ 16 * 2 ^ 16 + v.toNat % 2 ^ 16)))
    ∧ (∀ bar addr b, barPa bar addr = none → exec (.hostWrite bar addr b) s = .next s)
    ∧ (∀ bar addr len, barPa bar addr = none → ∃ t, exec (.hostRead bar addr len) s = .next t ∧ replied t [])
    ∧ (∀ addr len, inHbm addr len = true → addr < 2 ^ 40 → ∃ t, exec (.hostRead 2 addr len) s = .next t
        ∧ replied t ((List.range len).map fun k => memByte s (addr + k)))
    ∧ (∀ addr w op (a b : Word), w = 4 ∨ w = 8 → inHbm addr w = true → addr < 2 ^ 40 → addr % w = 0 →
        let old := gather (memByte s) addr w
        let new := match op with
          | .fetchAdd => (old + a.toNat) % 2 ^ (8 * w)
          | .swap => a.toNat
          | .cas => if old = a.toNat % 2 ^ (8 * w) then b.toNat else old
        ∃ t, exec (.hostAtomicop 2 addr op w a b) s = .next t ∧ replied { t with mem := s.mem } (bytesOfNat w old)
          ∧ gather (memByte t) addr w = new % 2 ^ (8 * w)
          ∧ ∀ q, ¬ (addr ≤ q ∧ q < addr + w) → memByte t q = memByte s q)
    ∧ (∀ addr w op a b, ¬ addr % w = 0 ∨ (¬ w = 4 ∧ ¬ w = 8) → ∃ t, exec (.hostAtomicop 2 addr op w a b) s = .next t
        ∧ replied t []))
  ∧ (∀ (s : State), let l := (rawReg s (ioPa 0 0x108)).toNat
    let own := (rawReg s (ioPa 0 0)).toNat
    let owner := own / 2 ^ 8 % 4
    let pend := own / 2 ^ 10 % 4
    let epoch := own / 2 ^ 32 % 2 ^ 32
    let b := fun (x : Bool) => if x then 1 else 0
    let word := fun (e p o : Nat) => BitVec.ofNat 64 (e % 2 ^ 32 * 2 ^ 32 + p * 2 ^ 10 + o * 2 ^ 8)
    let freed := word epoch pend 0
    (∀ p c, ∃ t, exec (.hostConfigWrite p c) s = .next t
      ∧ RegIs s t (ioPa 0 0x108) (BitVec.ofNat 64 (l % 4 + 4 * b p + 8 * b c)))
    ∧ (∀ c, ∃ t, exec (.hostLinkUp c) s = .next t
      ∧ RegIs s t (ioPa 0 0x108) (BitVec.ofNat 64 (1 + 2 * b c + l / 4 % 4 * 4)))
    ∧ (∃ t, exec .hostLinkDown s = .next t ∧ rawReg t (ioPa 0 0x108) = BitVec.ofNat 64 (l / 4 % 4 * 4)
      ∧ (owner = 1 → rawReg t (ioPa 0 0) = freed) ∧ (¬ owner = 1 → rawReg t (ioPa 0 0) = rawReg s (ioPa 0 0))
      ∧ { t with regs := s.regs } = s)
    ∧ (∀ m : BitVec 2,
      (¬ m = 0 → owner = 0 ∨ pend = m.toNat → ∃ t, exec (.ownctlClaim m) s = .next t
          ∧ RegIs s t (ioPa 0 0) (word (epoch + 1) 0 m.toNat))
      ∧ (m = 0 ∨ (¬ owner = 0 ∧ ¬ pend = m.toNat) → exec (.ownctlClaim m) s = .next s)
      ∧ (¬ m = 0 → owner = m.toNat → (∃ t, exec (.ownctlRelease m) s = .next t ∧ RegIs s t (ioPa 0 0) freed)
          ∧ ∀ g : BitVec 2, ∃ t, exec (.ownctlHand m g) s = .next t ∧ RegIs s t (ioPa 0 0) (word epoch g.toNat m.toNat))
      ∧ (m = 0 ∨ ¬ owner = m.toNat → exec (.ownctlRelease m) s = .next s ∧ ∀ g, exec (.ownctlHand m g) s = .next s))
    ∧ exec .bmcMessage s = .next { s with pkg := { s.pkg with bmcHeard := s.tick } }
    ∧ (owner = 2 → ∃ t, exec .bmcOwnerTimeout s = .next t ∧ RegIs s t (ioPa 0 0) freed)
    ∧ (¬ owner = 2 → exec .bmcOwnerTimeout s = .next s))
  ∧ (∀ (s : State), let pre := ioPa 0 0x200000; let ck := ioPa 0 0x200018
    let quiet := (∀ id, id < 8 → (s.hartAt (4096 + id)).run = .halted)
      ∧ ∀ h, h < 4096 → ¬ (s.hartAt h).run = .running ∧ (s.hartAt h).task = none
    let status := (rawReg s ck).toNat / 4 % 8
    let dir := (rawReg s ck).getLsbD 1
    let word := fun (st : Nat) (d : Bool) => BitVec.ofNat 64 (st * 4 + if d then 2 else 0)
    let ports := rawReg s (ioPa 0 0x200010)
    let own := (rawReg s (ioPa 0 0x200008)).toNat / 2 ^ 52 = ownPkg s
    let n := s.pkg.ckChunk
    let restore := s.pkg.ckDir
    let kept := s.pkg.held.filter fun x =>
      !(x.frame.kind == (if restore then 2 else 0) && s.pkg.ckParts.contains x.frame.daddr)
    let counters := fun (t : State) => ∀ a, ¬ a = ck →
      (∀ p, p < 64 → portUp s p = true → (ports.getLsbD p = true ∨ ∀ q, q < 64 → ports.getLsbD q = true → portUp s q = false) →
        ¬ a = diePa 0 (0x3108 + 16 * p)) → rawReg t a = rawReg s a
    let sent := fun (t : State) (base : List HeldFrame) (r : Bool) (k : Nat) =>
      t.pkg.held = base ++ (chunkFrames s r k).map fun f => ⟨f, false, (sendPort s).isNone⟩
    let goesOn := fun (t : State) => t.pkg.ckChunk = n + 1 ∧ counters t
      ∧ (n + 1 = 8 * (hbmBytes / 4096) → rawReg t ck = word 2 dir ∧ t.pkg.held = kept)
      ∧ (n + 1 < 8 * (hbmBytes / 4096) → ¬ own → rawReg t ck = rawReg s ck ∧ sent t kept restore (n + 1))
      ∧ (n + 1 < 8 * (hbmBytes / 4096) → own → rawReg t ck = word 4 dir ∧ t.pkg.held = kept)
    let mine := s.pkg.writers = []
    ((rawReg s pre).getLsbD 0 = true → mine → ∃ t, exec .devpreResume s = .next t ∧ RegIs s t pre 0)
    ∧ ((rawReg s pre).getLsbD 0 = false → mine → exec .devpreResume s = .next s)
    ∧ (mine → ∃ t, exec .devpreRequest s = .next t
        ∧ (quiet → rawReg t pre = 3) ∧ (¬ quiet → rawReg t pre = rawReg s pre ||| 1)
        ∧ (∀ id, id < 8 → (s.hartAt (4096 + id)).run = .running → (t.hartAt (4096 + id)).stopReq = true)
        ∧ (∀ h x, (h, x) ∈ s.harts → h < 4096 → x.task.isSome = true →
            0x0F0 ∈ extQueue t h ∨ 0x0F0 ∈ sget [] t.cores.extWait h)
        ∧ ∀ h, h < 4096 → t.hartAt h = s.hartAt h)
    ∧ (∀ r, mine → (status = 1 → exec (.ckctlGo r) s = .next s)
      ∧ (¬ status = 1 → (rawReg s pre).getLsbD 1 = true → ¬ ports = 0 → ∃ t, exec (.ckctlGo r) s = .next t
          ∧ t.pkg.ckChunk = 0 ∧ t.pkg.ckDir = r ∧ counters t ∧ t.mem = s.mem ∧ t.marks = s.marks
          ∧ (¬ own → rawReg t ck = word 1 r ∧ sent t s.pkg.held r 0
              ∧ t.pkg.ckParts = (chunkFrames s r 0).map fun f => f.daddr)
          ∧ (own → rawReg t ck = word 4 r ∧ t.pkg.held = s.pkg.held))
      ∧ (¬ status = 1 → (rawReg s pre).getLsbD 1 = false ∨ ports = 0 →
          ∃ t, exec (.ckctlGo r) s = .next t ∧ RegIs s t ck (word 3 r)))
    ∧ (¬ status = 1 → ∀ r, exec (.checkpointChunk r) s = .next s)
    ∧ (status = 1 → n < 8 * (hbmBytes / 4096) →
      (∃ t, exec (.checkpointChunk .refused) s = .next t ∧ RegIs s t ck (word 4 dir))
      ∧ (restore = false → (∃ t, exec (.checkpointChunk .committed) s = .next t ∧ goesOn t ∧ t.mem = s.mem)
          ∧ ∀ b l, exec (.checkpointChunk (.delivered b l)) s = .next s)
      ∧ (restore = true → exec (.checkpointChunk .committed) s = .next s)
      ∧ (∀ b, restore = true → b.length = 4096 → let pa := 2 ^ 37 * (n / (hbmBytes / 4096)) + 4096 * (n % (hbmBytes / 4096))
          ∃ t, exec (.checkpointChunk (.delivered b [])) s = .next t ∧ goesOn t
            ∧ ∀ a, memByte t a = if pa ≤ a ∧ a < pa + 4096 then b.getD (a - pa) 0 else memByte s a)))
  ∧ (∀ (s : State) (d w : Nat), let cap := ioPa 0 0x200020; let raw := rawReg s cap
    let limit := max 1000 (min 3600 (raw.toNat % 2 ^ 16))
    let throt := fun (b : Bool) => BitVec.ofNat 64 (raw.toNat % 2 ^ 16 + if b then 2 ^ 16 else 0)
    (limit < w → ∃ t, exec (.powerWindow w) s = .next t ∧ RegIs s t cap (throt true))
    ∧ (w ≤ limit → ∃ t, exec (.powerWindow w) s = .next t
        ∧ RegIs { s with dies := { s.dies with throttled := [] } } t cap (throt false))
    ∧ (∃ t, exec (.junctionThrottle d) s = .next t ∧ sget false t.dies.throttled d = true
        ∧ RegIs s { t with dies := s.dies } cap (throt true))
    ∧ (∃ t, exec (.junctionShutdown d) s = .next t ∧ t.pkg.power = .computeOff ∧ t.mem = s.mem ∧ ∀ h, t.hartAt h = s.hartAt h)
    ∧ ∃ t u v, exec .deviceReset s = .next t ∧ exec (.powerOnBoot true) s = .next u ∧ exec (.powerOnBoot false) s = .next v
        ∧ u.pkg.power = .on ∧ v.pkg.power = .heldInReset ∧ v.pkg.bmcReports = s.pkg.bmcReports + 1
        ∧ ∀ x ∈ [t, u, v], (∀ h, x.hartAt h = Hart.reset h) ∧ x.mem = s.mem ∧ x.vault = [] ∧ x.cores.cells = []
          ∧ x.dies = { Dies.reset with sparing := s.dies.sparing, spareUsed := s.dies.spareUsed } ∧ x.slots = [] ∧ x.marks.mem = s.marks.mem
          ∧ ∀ a, (∀ e, e < 8 → ¬ a = diePa e 0x320) → rawReg x a = regReset a)

/-! The fabric -/

/-- R419, R421 to R426, R431, R133, R383, R432: identities; frames that arrive are committed inside the windows and refused
outside, a release after the chunks of its peer that came before it and still wait or were refused; held frames go with COMMIT alone,
leave again on RETRY, counted on the port that carries them, and fail their transfer on codes 2 to 4; the expander undoes the compressor; the pod barriers at their home and at a package. The frames of the
pod barriers, what names a command hart in them, and that `bar.arr` consumes a completed record are the model's (log 52, 53, 91,
26). -/
def Obligations.FabricEvents : Prop :=
  (∀ (s : State) (id : BitVec 12), let w := (rawReg s (diePa 0 0x3000))
    ∃ t u, exec (.fabricIdAssign (.pkgid id)) s = .next t ∧ exec (.fabricIdAssign (.bhome id)) s = .next u
      ∧ RegIs s t (diePa 0 0x3000) (BitVec.ofNat 64 (w.toNat / 2 ^ 13 * 2 ^ 13 + 2 ^ 12 + id.toNat))
      ∧ rawReg u (diePa 0 0x3000) =
          BitVec.ofNat 64 (w.toNat / 2 ^ 29 * 2 ^ 29 + 2 ^ 28 + id.toNat * 2 ^ 16 + w.toNat % 2 ^ 16)
      ∧ (∀ b, podCopy u b = 0 ∧ homeBarrier u b = Barrier.reset) ∧ ∀ h, u.hartAt h = s.hartAt h)
  ∧ (∀ (s : State) (f : Frame), let n := f.bytes.length
    let mine := f.dpkg = ownPkg s ∨ f.dpkg = 4096
    let admits := fun (bit len : Nat) => (∃ w, w < 8 ∧ (rawReg s (diePa 0 (0x3040 + 16 * w))).getLsbD 0 = true
        ∧ (rawReg s (diePa 0 (0x3040 + 16 * w))).getLsbD bit = true
        ∧ (rawReg s (diePa 0 (0x3040 + 16 * w))).toNat / 2 ^ 12 % 2 ^ 40 * 4096 ≤ f.daddr
        ∧ f.daddr + len ≤ (rawReg s (diePa 0 (0x3048 + 16 * w))).toNat / 2 ^ 12 % 2 ^ 40 * 4096)
    let kept := if f ∈ s.pkg.owedIn then s.pkg.owedIn else s.pkg.owedIn ++ [f]
    let after := fun (a : FrameAnswer) => { s with pkg := { s.pkg with
      answers := s.pkg.answers ++ [(f.spkg, f.daddr, a)]
      owedIn := if a = .refuse 1 then kept else s.pkg.owedIn.erase f } }
    let waits := fun (u : State) => exec (.frameReceive f) s = .next { u with pkg := { u.pkg with owedIn := kept } }
    let answers := fun (a : FrameAnswer) => exec (.frameReceive f) s = .next (after a)
    let chunk := 1 ≤ n ∧ f.daddr % 4096 + n ≤ 4096
    let owed := f.rel = true ∧ ∃ x ∈ s.pkg.owedIn.takeWhile fun x => !decide (x = f), x.spkg = f.spkg
    let meant := mine ∧ (f.kind = 4 ∨ f.kind = 6 ∨ chunk)
    let live := meant ∧ ¬ owed
    let marked := fun (m : Nat → Bool) (line : Nat → Nat) (a : Nat) => m a = true ∨ ∃ i, i < n
      ∧ f.marks.getD (i / 128) false = true ∧ line i = a / 128
    let sends := fun (t : State) (r : Frame) => t.pkg.held = s.pkg.held ++ [⟨r, false, (sendPort s).isNone⟩] ∧ t.pkg.answers = (after .commit).pkg.answers
      ∧ t.pkg.owedIn = (after .commit).pkg.owedIn ∧ r.spkg = ownPkg s ∧ r.dpkg = f.spkg ∧ r.kind = 3 ∧ r.daddr = f.daddr
    (¬ meant → exec (.frameReceive f) s = .next s)
    ∧ (meant → owed → waits s)
    ∧ (live → f.kind = 0 → inHbm f.daddr n = true →
      (admits 2 n → ∃ t, exec (.frameReceive f) s = .next t
        ∧ (∀ a, memByte t a = if f.daddr ≤ a ∧ a < f.daddr + n then f.bytes.getD (a - f.daddr) 0 else memByte s a)
        ∧ (∀ a, a < 2 ^ 40 → (memMark t a = true ↔ marked (memMark s) (fun i => (f.daddr + i) / 128) a))
        ∧ { t with mem := s.mem, marks := s.marks } = after .commit)
      ∧ (¬ admits 2 n → answers (.refuse 2)))
    ∧ (∀ c o, live → f.kind = 0 → regionOf f.daddr = .vault c o → o + n ≤ 2 ^ 24 →
      let open_ := coreDead s c = false ∧ (rawReg s (ctlPa c 0x300)).getLsbD 9 = true ∧ admits 2 n
      (open_ → ∃ t, exec (.frameReceive f) s = .next t ∧ t.mem = s.mem
        ∧ (∀ g q, g < 512 → q < 2 ^ 24 → vaultByte t g q =
            if g = c ∧ o ≤ q ∧ q < o + n then f.bytes.getD (q - o) 0 else vaultByte s g q)
        ∧ (∀ q, o / 128 ≤ q / 128 → q / 128 ≤ (o + n - 1) / 128 → lineEmpty t c q = false)
        ∧ ∀ q, q < 2 ^ 24 → (vaultMark t c q = true ↔ marked (vaultMark s c) (fun i => (o + i) / 128) q))
      ∧ (¬ open_ → answers (.refuse 2)))
    ∧ (live → f.kind = 2 → inHbm f.daddr n = true →
      (admits 1 n → ∃ t r, exec (.frameReceive f) s = .next t ∧ sends t r ∧ t.mem = s.mem
        ∧ r.bytes = (List.range n).map (fun k => memByte s (f.daddr + k))
        ∧ r.marks = (List.range ((n + 127) / 128)).map fun i => markAny s (f.daddr + 128 * i) (min 128 (n - 128 * i)))
      ∧ (¬ admits 1 n → answers (.refuse 2)))
    ∧ (live → f.kind = 4 → f.atom = none → answers (.refuse 3))
    ∧ (∀ x, live → f.kind = 4 → f.atom = some x → inHbm f.daddr x.width = true →
      let old := gather (memByte s) f.daddr x.width
      let carried := (x.width = 4 ∨ x.width = 8) ∧ f.daddr % x.width = 0
      (admits 3 x.width → carried → ∃ t r, exec (.frameReceive f) s = .next t ∧ sends t r ∧ r.bytes = bytesOfNat x.width old
        ∧ gather (memByte t) f.daddr x.width = (match x.op with
            | .fetchAdd => old + x.a.toNat
            | .swap => x.a.toNat
            | .cas => if old = x.a.toNat % 2 ^ (8 * x.width) then x.b.toNat else old) % 2 ^ (8 * x.width)
        ∧ ∀ q, ¬ (f.daddr ≤ q ∧ q < f.daddr + x.width) → memByte t q = memByte s q)
      ∧ (admits 3 x.width → ¬ carried → answers (.refuse 3))
      ∧ (¬ admits 3 x.width → answers (.refuse 2)))
    ∧ (live → f.kind = 1 → let hit := (collsOf s f.comm).find? fun x => x.seq.toNat == f.seq
      (hit = none → waits s)
      ∧ (∀ x, hit = some x → x.st = .sending ∨ x.st = .done → answers .commit)
      ∧ (∀ x, hit = some x → x.takes = false → ¬ (x.st = .sending ∨ x.st = .done) → waits s)
      ∧ (∀ x, hit = some x → x.takes = true →
        (x.level = .m → inHbm f.daddr n = true → ∃ t, exec (.frameReceive f) s = .next t
          ∧ (∀ a, memByte t a = if f.daddr ≤ a ∧ a < f.daddr + n then f.bytes.getD (a - f.daddr) 0 else memByte s a)
          ∧ { t with mem := s.mem, marks := s.marks } = after .commit)
        ∧ (∀ u, collPas s x .write (pagesOf f.daddr n) = (u, .error none) → waits u)
        ∧ (∀ u pas, collPas s x .write (pagesOf f.daddr n) = (u, .ok pas) →
            (∃ p ∈ pas, ∃ k, k < p.2 ∧ byteReady u (p.1 + k) = false) → waits u)
        ∧ (∀ u page, collPas s x .write (pagesOf f.daddr n) = (u, .error (some page)) →
          ∃ t, exec (.frameReceive f) s = .next t ∧ t.pkg.answers = (after (.refuse 1)).pkg.answers ∧ t.mem = s.mem
            ∧ t.pkg.owedIn = kept
            ∧ t.pkg.refusedIn = s.pkg.refusedIn ++ [f]
            ∧ (x.st = .outstanding → collsOf t f.comm = (collsOf u f.comm).map fun y =>
                if y.seq = x.seq then { y with st := .failed 5 (BitVec.ofNat 64 page) } else y))))
    ∧ (live → f.kind = 3 → let n := s.pkg.ckChunk; let at' := ckPa n + (f.daddr - ckTierPa s n)
      let asked := ckStatus s = 1 ∧ s.pkg.ckDir = true ∧ f.daddr ∈ s.pkg.ckParts ∧ f.spkg = bits (ckdst s) 63 52
      (¬ asked → answers .commit)
      ∧ (asked → ckTierPa s n ≤ f.daddr → inHbm at' f.bytes.length = true → ∃ t, exec (.frameReceive f) s = .next t
        ∧ t.pkg.answers = (after .commit).pkg.answers
        ∧ (∀ a, memByte t a = if at' ≤ a ∧ a < at' + f.bytes.length then f.bytes.getD (a - at') 0 else memByte s a)
        ∧ (s.pkg.ckParts.erase f.daddr = [] → t.pkg.ckChunk = n + 1)
        ∧ (¬ s.pkg.ckParts.erase f.daddr = [] → t.pkg.ckChunk = n ∧ t.pkg.ckParts = s.pkg.ckParts.erase f.daddr)))
    ∧ (live → f.kind = 6 → let b := f.comm % 16; let op := f.comm / 16 % 4; let v := BitVec.ofNat 64 f.daddr
      let h := if f.seq < 4096 then f.seq else 4095 + f.seq / 4096
      let acts := fun (i : Instr) => exec (.frameReceive f) s = exec i (after .commit)
      (op = 0 → acts (.podBarrierHomeArrival f.spkg h b v)) ∧ (op = 1 → acts (.podBarrierHomeWithdraw f.spkg h b))
      ∧ (op = 3 → acts (.podBarrierCompletion b v))
      ∧ (op = 2 → podRecord s h b = none → answers .commit)
      ∧ (∀ p, op = 2 → podRecord s h b = some (.withdrawSent (some p)) →
          acts (.podBarrierReply h b (if p = v then .withdrawn else .tooLate)))
      ∧ (op = 2 → podRecord s h b = some .arrivalSent ∨ podRecord s h b = some (.withdrawSent none) →
          acts (.podBarrierReply h b (.joined v)))))
  ∧ (∀ (s : State) (i : Nat) (x : HeldFrame), s.pkg.held[i]? = some x → let f := x.frame
    let dropped := { s with pkg := { s.pkg with held := s.pkg.held.eraseIdx i } }
    let kept := fun (r : Bool) => { s with pkg := { s.pkg with held := s.pkg.held.set i { x with refused := r } } }
    let colls := fun (t u : State) (g : Coll → Coll) => collsOf t f.comm = (collsOf s f.comm).map g
      ∧ (∀ c, ¬ c = f.comm → collsOf t c = collsOf s c) ∧ { t with pkg := { t.pkg with colls := s.pkg.colls } } = u
    let save := f.kind = 0 ∧ s.pkg.ckDir = false ∧ ckStatus s = 1 ∧ f.daddr ∈ s.pkg.ckParts
    (¬ f.kind = 1 → ¬ save → exec (.frameAnswer i .commit) s = .next dropped)
    ∧ (save → ∃ t, exec (.frameAnswer i .commit) s = .next t ∧ t.mem = s.mem
        ∧ (s.pkg.ckParts.erase f.daddr = [] → t.pkg.ckChunk = s.pkg.ckChunk + 1)
        ∧ (¬ s.pkg.ckParts.erase f.daddr = [] → t = { dropped with pkg := { dropped.pkg with
            ckParts := s.pkg.ckParts.erase f.daddr } }))
    ∧ (f.kind = 1 → f.seq < 2 ^ 32 → let left := (s.pkg.held.eraseIdx i).any fun y =>
          y.frame.kind == 1 && y.frame.comm == f.comm && y.frame.seq == f.seq
        (left = true → exec (.frameAnswer i .commit) s = .next dropped)
        ∧ (left = false → ∃ t, exec (.frameAnswer i .commit) s = .next t ∧ colls t dropped fun y =>
            if y.seq.toNat = f.seq ∧ y.st = .sending then { y with st := .done } else y))
    ∧ (x.refused = false → exec (.frameAnswer i .retry) s = .next s)
    ∧ (x.refused = true → ∃ t, exec (.frameAnswer i .retry) s = .next t
        ∧ t.pkg.held = s.pkg.held.set i ⟨f, false, (sendPort s).isNone⟩
        ∧ { t with regs := s.regs, pkg := { t.pkg with held := s.pkg.held, portBytes := s.pkg.portBytes } } = s
        ∧ (framePort s f = none → t.regs = s.regs)
        ∧ ∀ n, framePort s f = some n → let pa := diePa 0 (0x3108 + 16 * n)
          let w := (rawReg s pa).toNat
          let b := sget 0 s.pkg.portBytes n + if f.kind = 2 ∨ f.kind = 6 then 0 else f.bytes.length
          portUp s n = true ∧ sget 0 t.pkg.portBytes n = b % 1024 ∧ RegIs s { t with pkg := s.pkg } pa (BitVec.ofNat 64
            ((w / 2 ^ 32 + ((frameImage f).length + 239) / 240) % 2 ^ 32 * 2 ^ 32 + (w % 2 ^ 32 + b / 1024) % 2 ^ 32)))
    ∧ (f.kind = 1 → exec (.frameAnswer i (.refuse 1)) s = .next (kept true))
    ∧ (∀ c, f.kind = 0 ∨ f.kind = 2 → (¬ ckStatus s = 1 → exec (.frameAnswer i (.refuse c)) s = .next (kept true))
        ∧ (ckStatus s = 1 → ∃ t, exec (.frameAnswer i (.refuse c)) s = .next t ∧ RegIs (kept true) t ckctlPa
            (BitVec.ofNat 64 (16 + if (rawReg s ckctlPa).getLsbD 1 then 2 else 0))))
    ∧ (∀ c, f.kind = 3 ∨ f.kind = 4 ∨ f.kind = 6 → exec (.frameAnswer i (.refuse c)) s = .next (kept true))
    ∧ (∀ c m y q, 2 ≤ c → c ≤ 4 → f.kind = 1 → commOf s f.comm = some m →
        (collsOf s f.comm).find? (fun y => (decide (y.st = .outstanding) || decide (y.st = .sending)) && y.seq.toNat == f.seq) = some y →
        q < m.nrank → rankPkg s m.rlist q = some f.dpkg → (∀ r, r < q → ¬ rankPkg s m.rlist r = some f.dpkg) →
        ∃ t, exec (.frameAnswer i (.refuse c)) s = .next t ∧ colls t (kept true) fun z =>
          if z.seq = y.seq then { z with st := .failed 4 (BitVec.ofNat 64 (q + c * 2 ^ 16)) } else z)
    ∧ ∃ t, exec (.fabricUnreachable f.dpkg) s = .next t ∧ t.mem = s.mem ∧ (∀ h, t.hartAt h = s.hartAt h)
        ∧ t.pkg.held = s.pkg.held.map (fun y => if y.frame.dpkg = f.dpkg then { y with refused := true } else y)
        ∧ ∀ c m q, commOf s c = some m → ((collsOf s c).map fun y => y.seq).Nodup → q < m.nrank → rankPkg s m.rlist q = some f.dpkg →
            (∀ r, r < q → ¬ rankPkg s m.rlist r = some f.dpkg) → collsOf t c = (collsOf s c).map fun y =>
              if y.st = .outstanding ∨ y.st = .sending then { y with st := .failed 4 (BitVec.ofNat 64 (q + 2 ^ 18)) } else y)
  ∧ (∀ f : Frame, f.spkg < 2 ^ 16 → f.dpkg < 2 ^ 16 → f.kind < 2 ^ 8 → f.daddr < 2 ^ 64 → f.comm < 2 ^ 16 → f.seq < 2 ^ 32 →
    f.atom = none → ¬ f.kind = 2 → ¬ f.kind = 6 → 1 ≤ f.bytes.length → f.bytes.length ≤ 4096 →
    f.marks.length = (f.bytes.length + 127) / 128 → expandFrame (frameImage f) = some f)
  ∧ (∀ (s : State) (i : Nat) (a : FrameAnswer), s.pkg.held[i]? = none → exec (.frameAnswer i a) s = .next s)
  ∧ (∀ (s : State) (pkg h b : Nat) (n : Word), let x := homeBarrier s b
    let e := if x.expected = 0 then n.toNat else x.expected
    let home := podRemote s = true ∧ barrierHome s = ownPkg s ∧ b < 16
    let mine := fun (m : Nat × Nat × Nat × Word) => m.1 == pkg && m.2.1 == h && m.2.2.1 == b && m.2.2.2 == x.phase
    let tells := fun (t : State) (dst op hart : Nat) (v : Word) => ∃ y ∈ t.pkg.held, y.refused = false
      ∧ y.frame = ⟨ownPkg s, dst, 6, false, v.toNat, b + 16 * op, if hart < 4096 then hart else 4096 * (hart - 4095), [], [], none⟩
    (¬ home → exec (.podBarrierHomeArrival pkg h b n) s = .next s ∧ exec (.podBarrierHomeWithdraw pkg h b) s = .next s)
    ∧ (home → ¬ x.arrived + 1 = e → ∃ t, exec (.podBarrierHomeArrival pkg h b n) s = .next t
        ∧ homeBarrier t b = ⟨x.phase, x.arrived + 1, e⟩ ∧ t.pkg.podMembers = s.pkg.podMembers ++ [(pkg, h, b, x.phase)]
        ∧ tells t pkg 2 h x.phase ∧ (∀ c, podCopy t c = podCopy s c) ∧ ∀ c, ¬ c = b → homeBarrier t c = homeBarrier s c)
    ∧ (home → x.arrived + 1 = e → ∃ t, exec (.podBarrierHomeArrival pkg h b n) s = .next t
        ∧ homeBarrier t b = ⟨x.phase + 1, 0, 0⟩ ∧ (∀ m ∈ t.pkg.podMembers, ¬ m.2.2.1 = b)
        ∧ tells t pkg 2 h x.phase ∧ tells t 4096 3 0 (x.phase + 1) ∧ podCopy t b = x.phase + 1
        ∧ ∀ c, ¬ c = b → homeBarrier t c = homeBarrier s c ∧ podCopy t c = podCopy s c)
    ∧ (∀ m, home → s.pkg.podMembers.find? mine = some m → ∃ t, exec (.podBarrierHomeWithdraw pkg h b) s = .next t
        ∧ homeBarrier t b = { x with arrived := x.arrived - 1 } ∧ t.pkg.podMembers = s.pkg.podMembers.erase m
        ∧ tells t pkg 2 h x.phase)
    ∧ (home → s.pkg.podMembers.find? mine = none → ∃ t, exec (.podBarrierHomeWithdraw pkg h b) s = .next t
        ∧ homeBarrier t b = x ∧ t.pkg.podMembers = s.pkg.podMembers ∧ tells t pkg 2 h x.phase))
  ∧ (∀ (s : State) (h b : Nat) (p : Word), let others := fun (t : State) => ∀ g, ¬ g = h → t.hartAt g = s.hartAt g
    let turns := fun (a : PodReply) (r : PodRecord) => ∃ t, exec (.podBarrierReply h b a) s = .next t ∧ others t
      ∧ podRecord t h b = some r ∧ ∀ c, ¬ c = b → podRecord t h c = podRecord s h c
    (podRecord s h b = none → ∀ a, exec (.podBarrierReply h b a) s = .next s)
    ∧ (podRecord s h b = some .arrivalSent → turns (.joined p) (.joined p))
    ∧ (podRecord s h b = some (.withdrawSent none) → turns (.joined p) (.withdrawSent (some p)))
    ∧ (∀ q, podRecord s h b = some (.withdrawSent q) → turns .withdrawn .withdrawn)
    ∧ (∀ q, podRecord s h b = some (.withdrawSent (some q)) → turns .tooLate (.completed q))
    ∧ (∃ t, exec (.podBarrierCompletion b p) s = .next t ∧ podCopy t b = p ∧ (∀ c, ¬ c = b → podCopy t c = podCopy s c)
        ∧ { t with pkg := { t.pkg with podCopies := s.pkg.podCopies } } = s)
    ∧ (∃ t : State, exec (.podBarrierRetry h b) s = .next t
        ∧ { t with regs := s.regs, pkg := { t.pkg with held := s.pkg.held, portBytes := s.pkg.portBytes } } = s
        ∧ t.pkg.held.length = s.pkg.held.length
        ∧ ∀ (i : Nat) (x : HeldFrame), s.pkg.held[i]? = some x → t.pkg.held[i]? = some (if x.frame.kind = 6 ∧ x.frame.comm = b
              ∧ x.frame.seq = (if h < 4096 then h else 4096 * (h - 4095)) ∧ x.refused = true
            then ⟨x.frame, false, (sendPort s).isNone⟩ else x)))
  ∧ (∀ (s : State) (rd ra rb : SReg), let b := (s.rS ra).toNat; let n := (s.rS rb).toNat
    let past := fun (p : Word) => 1 ≤ (podCopy s b - p).toNat ∧ (podCopy s b - p).toNat < 2 ^ 63
    let r := podRecord s s.cur b
    let cleared := fun (t : State) => podRecord t s.cur b = none ∧ (∀ c, ¬ c = b → podRecord t s.cur c = podRecord s s.cur c)
      ∧ t.hart.pc = s.hart.pc + 4 ∧ ∀ h, ¬ h = s.cur → t.hartAt h = s.hartAt h
    podRemote s = true → b < 16 →
    (past (s.rS rb) → Jumps (.barWt .pod ra rb) s (s.hart.pc + 4))
    ∧ (1 ≤ n → n ≤ scopeLimit .pod →
      (∀ p, r = some (.joined p) ∨ r = some (.completed p) →
        (∃ t, exec (.barArr .pod rd ra rb) s = .next t ∧ cleared t ∧ ScalarIs s t rd p)
        ∧ (past p → ∃ t, exec (.bar .pod ra rb) s = .next t ∧ cleared t ∧ ScalarIs s t 0 0)
        ∧ (¬ past p → WaitsAt (.bar .pod ra rb) s s (.bar .pod b p)))
      ∧ (r = none ∨ r = some .withdrawn → ∀ f ∈ [(Instr.bar .pod ra rb, Hold.bar .pod b 0), (.barArr .pod rd ra rb, .retry)],
          ∃ t y, exec f.1 s = .next t ∧ t.hart = { s.hart with hold := f.2, pod := t.hart.pod }
            ∧ podRecord t s.cur b = some .arrivalSent ∧ t.pkg.held = s.pkg.held ++ [y] ∧ y.refused = false
            ∧ y.frame = ⟨ownPkg s, barrierHome s, 6, false, n, b, if s.cur < 4096 then s.cur else 4096 * (s.cur - 4095), [], [], none⟩)))

/-! Traps of vector instructions -/

/-- R25, R36, R150, R157: a vector integer instruction raises ILLEGAL on a command hart and for an element width other
than `vew`, NOLEASE without a cluster; at its first element, POISON for a marked source, in the order A, B, accumulator, and FPX
for an enabled SATF, with `vsi` at that element. For a slide VALUE names the source element that is marked (log 87). -/
def Obligations.VectorTraps : Prop :=
  ∀ (s : State) (o : VOp), let e := s.vsi; let w := tyWidth o.ta
    let traps := fun (i : Instr) (c : Nat) => exec i s = .next (takeTrap s ⟨c, 0, instrBits i⟩)
    let marked := fun (r : VReg) (k : Nat) => elemMarked s r.toNat w k = true
    let poisoned := fun (i : Instr) (r : VReg) (k : Nat) => exec i s =
      .next (takeTrap (s.setVsi e) ⟨0x0A, 1, BitVec.ofNat 64 (r.toNat + k * 65536)⟩)
    let a := intOf o.ta (elemAt s o.va.toNat w e)
    let b := intOf o.ta (opndOf s o e)
    let binary : List (Instr × Int) := [(.vadd o, a + b), (.vsub o, a - b), (.vrsub o, b - a), (.vmul o, a * b),
      (.vmulh o, a * b / 2 ^ w), (.vdiv o, if b = 0 then -1 else a.tdiv b), (.vrem o, if b = 0 then a else a.tmod b),
      (.vmin o, min a b), (.vmax o, max a b), (.vmacc o, intOf o.ta (elemAt s o.vd.toNat w e) + a * b)]
    let bitwise := [Instr.vand o, .vor o, .vxor o, .vsll o, .vsrl o, .vsra o]
    let unary := [Instr.vabs o, .vclz o, .vpopc o]
    let copies := [Instr.vmv o, .vmerge o, .vid o, .vslide1Up o, .vslide1Dn o]
    (∀ i ∈ binary.map Prod.fst ++ bitwise ++ unary ++ copies,
      (isCommand s.cur = true → traps i 0x01)
      ∧ (isCommand s.cur = false → ¬ w = s.ew → traps i 0x01)
      ∧ (isCommand s.cur = false → w = s.ew → s.hart.grant = 0 → traps i 0x0C))
    ∧ (isCommand s.cur = false → w = s.ew → ¬ s.hart.grant = 0 → s.hart.updBusy = 0 → s.hart.drainBusy = 0 → Fresh s.hart →
      s.hart.stopAt = none → e < s.vl → (∀ row p, unlanded s (coreOf s.cur) row p = false) →
      (s.hart.active o.mask e = true →
        (marked o.va e → ∀ i ∈ binary.map Prod.fst ++ bitwise ++ unary, poisoned i o.va e)
        ∧ (∀ vb t u, o.src = .vr vb t u → o.mod0 = false →
          (¬ marked o.va e → marked vb e → ∀ i ∈ binary.map Prod.fst ++ bitwise, poisoned i vb e)
          ∧ (marked o.va e → poisoned (.vmv o) o.va e)
          ∧ (marked vb e → poisoned (.vmerge o) vb e)
          ∧ (¬ marked o.va e → ¬ marked vb e → marked o.vd e → poisoned (.vmacc o) o.vd e))
        ∧ (0 < e → marked o.va (e - 1) → poisoned (.vslide1Up o) o.va (e - 1))
        ∧ (e + 1 < s.vl → marked o.va (e + 1) → poisoned (.vslide1Dn o) o.va (e + 1))
        ∧ (¬ marked o.va e → (∀ vb t u, o.src = .vr vb t u → o.mod0 = false → ¬ marked vb e) → isFloat o.ta = false →
          ∀ p ∈ binary ++ [(.vabs o, (a.natAbs : Int))], (p.1 = .vmacc o → ¬ marked o.vd e) →
            let f := (fitInt o.ta o.mod1 p.2).2
            ¬ s.hart.trapping f = 0 → exec p.1 s =
              .next (takeTrap ((s.putHart (s.hart.setFlags f)).setVsi e) ⟨0x08, topFlag (s.hart.trapping f), 0⟩)))
      ∧ (s.hart.active o.mask e = false → marked o.va e → poisoned (.vmerge o) o.va e))

/-! Encoding -/

/-- R76 to R84: decoding the words of a well-formed instruction gives it back, every operand at every value its encoding
admits. -/
def Obligations.EncodeDecode : Prop :=
  ∀ (i : Instr) (ps : List Nat), i.wf = true → encode i = some ps → decodeParcels ps = .ok i

/-- Words that the spec writes out, of several families, decode to the instructions it gives them. -/
def Obligations.DecodeWords : Prop :=
  decodeParcels [0x04642800] = .ok (.add 3 4 5)
  ∧ decodeParcels [0x2C22803F] = .ok (.srai 1 2 63)
  ∧ decodeParcels [0x38C00005] = .ok (.beq 6 0 5)
  ∧ decodeParcels [0x70056000] = .ok (.sd 0 5 0)
  ∧ decodeParcels [0x64221920] = .ok (.fadd .fp32 (some .rtz) 1 2 3)
  ∧ decodeParcels [0x78042920] = .ok (.bar .quad 4 5)
  ∧ decodeParcels [0x74652100] = .ok (.amo .add false .relaxed .quad 3 5 4)
  ∧ decodeParcels [0x886A5808] = .ok (.lbind 3 10 11)
  ∧ decodeParcels [0x8C642800] = .ok (.semWaitGe 3 4 5)
  ∧ decodeParcels [0xC4310400, 0x00002800] =
      .ok (.vadd (VOp.mk 0 none 0 false false 3 4 .si32 (.vr 5 0 .si8)))
  ∧ decodeParcels [0xDC059000, 0x06308530] = .ok (.mmkF (SqOp.mk 0 .e4m3 .e4m3 4 5 6 0 11 none 0))
  ∧ decodeParcels [0xE8C10930, 0] = .ok (.sld (StOp.mk 0 3 8 9 12 0))
  ∧ decodeParcels [0xEC642800, 0] = .ok (.avpush (ExOp.mk 0 0 0 3 4 5 0))

/-! The step -/

/-- R76 to R78, R85: a running hart that waits for nothing, with no interrupt to take and no stop asked for, fetches at
its pc and runs the instruction decoded there, and `afterTurn` follows; what decodes to none raises ILLEGAL (R84). At M
the parcels are the bytes at the pc. An event that is due comes first (log 3). -/
def Obligations.StepRunsDecoded : Prop :=
  (∀ (s v : State) (ps : List Nat), let u := tickState s
    let after := fun (o : Host.Outcome State Fault Refusal) => match o with
      | .next t => Host.Outcome.next (afterTurn s.cur s.hart.stopAt.isSome t)
      | .fault x => .fault x
      | .refused x => .refused x
    u.agenda = [] → s.pkg.power = .on → s.hart.run = .running → s.hart.hold = .none ∨ s.hart.hold = .retry →
    s.hart.stopReq = false ∨ isCommand s.cur = false → s.hart.forced = false ∨ shootQueue s (coreOf s.cur) = [] →
    s.hart.stopAt.isSome = true ∨ irqNext u s.cur = none →
    fetchInstr (u.putHart { u.hart with hold := .none }) = .ok (v, ps) →
    (∀ i, decodeParcels ps = .ok i → step s = after (exec i (noteStarted v v.cur)))
    ∧ (∀ r, decodeParcels ps = .error r →
        step s = after (.next (takeTrap (noteStarted v v.cur) ⟨0x01, 0, illegalBits ps⟩))))
  ∧ (∀ s : State, let parcel := fun (k : Nat) => gather (memByte s) (s.hart.pc.toNat + 4 * k) 4
    let n := parcelCount (parcel 0)
    s.hart.level = .m → s.hart.pc.toNat < 2 ^ 40 → inHbm s.hart.pc.toNat (4 * n) = true →
    (∀ k, k < 4 * n → memMark s (s.hart.pc.toNat + k) = false) →
    fetchInstr s = .ok (s, (List.range n).map parcel))
  ∧ (∀ (s : State) (e : Event) (r : List Event), (tickState s).agenda = e :: r →
    step s = runEvent e { tickState s with agenda := r })

/-! Invariants and reset -/

/-- The memories keep their canonical form and turns go to harts of the package, in whatever state. -/
def Obligations.StepKeepsInv : Prop := ∀ s t : State, s.Inv → step s = .next t → t.Inv

/-- The invariant holds after reset. -/
def Obligations.ResetInv : Prop := State.reset.Inv

/-- What device reset leaves (R17, R29, R32, R33, R35, R37 to R39, R132, R215, R219, R221, R267, R355, R394): registers
and register files zero, `vew` 3, `lpart` all ones, level M on compute harts, command harts halted; the Vault zero, full
and without marks, every group landed; slots, tasks and samples empty, and barriers at phase 0. -/
def Obligations.ResetValues : Prop :=
  let s := State.reset
  (∀ h, h < 4096 → let x := s.hartAt h
    x.level = .m ∧ x.run = .running ∧ (∀ r, x.rS r = 0) ∧ (∀ r, x.rF r = 0) ∧ (∀ k, x.rM k = 0)
    ∧ x.conf = ⟨0, 3, 0, 0, 0, 0, 0, 0⟩ ∧ x.grant = 0 ∧ x.hwm = ⟨false, 0, 0⟩ ∧ x.prio = 0
    ∧ hstatWord x = 3 ∧ x.strap = ⟨0, 0, 0, 0, 0, 0⟩
    ∧ x.mtrap = ⟨Config.bootVector &&& 0xFFFFFFFFFFFFFFFC#64, 0, 0, 0, 0, 0⟩
    ∧ hipWord s h = 0 ∧ ∀ k, k < 16 → (slotAt s h k).state = .idle ∧ (slotAt s h k).status = 0)
  ∧ (∀ id, id < 8 → let x := s.hartAt (4096 + id)
    x.run = .halted ∧ x.pc = 0 ∧ (∀ r, x.rS r = 0) ∧ (∀ r, x.rF r = 0) ∧ x.strap = ⟨0, 0, 0, 0, 0, 0⟩
    ∧ x.mtrap = ⟨0, 0, 0, 0, 0, 0⟩ ∧ x.cq = 0 ∧ x.xq = 8)
  ∧ (∀ c, c < 512 → lpartOf s c = BitVec.allOnes 64
    ∧ (∀ r k, cell s c r k = 0 ∧ cellMark s c r k = false) ∧ (∀ r p, unlanded s c r p = false)
    ∧ ∀ q, vaultByte s c q = 0 ∧ lineEmpty s c q = false ∧ vaultMark s c q = false)
  ∧ (∀ d k, (taskAt s d k).state = .free ∧ (sampleAt s d k).state = .idle ∧ (pipeAt s d k).state = 0)
  ∧ ∀ k, barrierAt s k = ⟨0, 0, 0⟩
end

