-- ==== Sys2Proof/Laws/Sparse.lean ====
section
/-! SUPPORT. Laws of the sparse tables: reading after writing, and the canonical form, which every write keeps. -/

namespace Sys2Proof.Machine

variable {α : Type}

@[simp] theorem sget_nil (d : α) (i : Nat) : sget d [] i = d := rfl

theorem sget_cons (d : α) (k : Nat) (v : α) (m : Sparse α) (i : Nat) :
    sget d ((k, v) :: m) i = if i = k then v else sget d m i := rfl

/-- Reading after writing, at any key of any list. -/
theorem sget_sset [DecidableEq α] (d : α) (m : Sparse α) (i : Nat) (v : α) (j : Nat) :
    sget d (sset d m i v) j = if j = i then v else sget d m j := by
  induction m with
  | nil => simp only [sset]; split <;> simp_all [sget_cons]
  | cons p m ih =>
    obtain ⟨k, w⟩ := p
    simp only [sset]
    split
    · split <;> simp_all [sget_cons]
    · split
      · rw [sget_cons, ih, sget_cons]; (repeat' split) <;> simp_all
      · split
        · simp only [sget_cons]
        · rw [sget_cons, ih, sget_cons]; (repeat' split) <;> simp_all

@[simp] theorem sget_sset_same [DecidableEq α] (d : α) (m : Sparse α) (i : Nat) (v : α) :
    sget d (sset d m i v) i = v := by simp [sget_sset]

theorem sget_sset_ne [DecidableEq α] (d : α) (m : Sparse α) (i : Nat) (v : α) (j : Nat) (h : j ≠ i) :
    sget d (sset d m i v) j = sget d m j := by simp [sget_sset, h]

/-- Reading after writing with a listed value. -/
theorem sget_sput (d : α) (m : Sparse α) (i : Nat) (v : α) (j : Nat) :
    sget d (sput m i v) j = if j = i then v else sget d m j := by
  induction m with
  | nil => rfl
  | cons p m ih =>
    obtain ⟨k, w⟩ := p
    simp only [sput]
    split
    · simp only [sget_cons]; split <;> simp_all
    · split
      · simp only [sget_cons]
      · rw [sget_cons, ih, sget_cons]; (repeat' split) <;> simp_all

@[simp] theorem sget_sput_same (d : α) (m : Sparse α) (i : Nat) (v : α) : sget d (sput m i v) i = v := by
  simp [sget_sput]

theorem sget_sput_ne (d : α) (m : Sparse α) (i : Nat) (v : α) (j : Nat) (h : j ≠ i) :
    sget d (sput m i v) j = sget d m j := by simp [sget_sput, h]

/-- A lower bound that is lower still. -/
theorem swfFrom_mono [DecidableEq α] (d : Nat → α) (m : Sparse α) (a b : Nat) (h : a ≤ b) (w : swfFrom d b m = true) :
    swfFrom d a m = true := by
  cases m with
  | nil => rfl
  | cons p m =>
    simp only [swfFrom, Bool.and_eq_true, decide_eq_true_eq] at w ⊢
    exact ⟨⟨by omega, w.1.2⟩, w.2⟩

/-- Removing a key below every listed one changes nothing. -/
theorem sset_default_below [DecidableEq α] (d : α) (m : Sparse α) (i lo : Nat) (h : i < lo)
    (w : swfFrom (fun _ => d) lo m = true) : sset d m i d = m := by
  induction m generalizing lo with
  | nil => simp [sset]
  | cons p m ih =>
    obtain ⟨k, x⟩ := p
    simp only [swfFrom, Bool.and_eq_true, decide_eq_true_eq] at w
    have hne : i ≠ k := by omega
    simp only [sset, hne, if_false, if_true]
    rw [ih (k + 1) (by omega) w.2]

/-- A write keeps the canonical form. -/
theorem swfFrom_sset [DecidableEq α] (d : α) (m : Sparse α) (i : Nat) (v : α) (lo : Nat) (h : lo ≤ i)
    (w : swfFrom (fun _ => d) lo m = true) : swfFrom (fun _ => d) lo (sset d m i v) = true := by
  induction m generalizing lo with
  | nil => simp only [sset]; split <;> simp_all [swfFrom]
  | cons p m ih =>
    obtain ⟨k, x⟩ := p
    simp only [swfFrom, Bool.and_eq_true, decide_eq_true_eq, Bool.not_eq_true', decide_eq_false_iff_not] at w
    have tail : k < i → swfFrom (fun _ => d) (k + 1) (sset d m i v) = true := fun hk => ih _ hk w.2
    by_cases hik : i = k
    · subst hik
      by_cases hv : v = d
      · subst hv
        simp only [sset, if_true]
        rw [sset_default_below v m i (i + 1) (by omega) w.2]
        exact swfFrom_mono _ _ _ _ (by omega) w.2
      · simp_all [sset, swfFrom]
    · by_cases hv : v = d
      · subst hv
        simp only [sset, hik, if_false, if_true, swfFrom, Bool.and_eq_true, decide_eq_true_eq, Bool.not_eq_true',
          decide_eq_false_iff_not]
        refine ⟨w.1, ?_⟩
        by_cases hk : k < i
        · exact tail hk
        · rw [sset_default_below v m i (k + 1) (by omega) w.2]; exact w.2
      · by_cases hlt : i < k
        · simp_all [sset, swfFrom] <;> omega
        · simp only [sset, hik, hv, hlt, if_false, swfFrom, Bool.and_eq_true, decide_eq_true_eq, Bool.not_eq_true',
            decide_eq_false_iff_not]
          exact ⟨w.1, tail (by omega)⟩

/-- A write keeps the canonical form. -/
theorem swf_sset [DecidableEq α] (d : α) (m : Sparse α) (i : Nat) (v : α) (w : swf (fun _ => d) m = true) :
    swf (fun _ => d) (sset d m i v) = true := swfFrom_sset d m i v 0 (Nat.zero_le _) w

end Sys2Proof.Machine
end

