-- ==== Sys2Proof/Laws/State.lean ====
section
/-! SUPPORT. Laws of the state: what each update leaves alone, field by field, and what a register reads after a write. -/

namespace Sys2Proof.Machine

/-! State.setHart changes harts alone. -/

@[simp] theorem setHart_cur (s : State) (h : Nat) (x : Hart) : (s.setHart h x).cur = s.cur := rfl
@[simp] theorem setHart_turns (s : State) (h : Nat) (x : Hart) : (s.setHart h x).turns = s.turns := rfl
@[simp] theorem setHart_agenda (s : State) (h : Nat) (x : Hart) : (s.setHart h x).agenda = s.agenda := rfl
@[simp] theorem setHart_tick (s : State) (h : Nat) (x : Hart) : (s.setHart h x).tick = s.tick := rfl
@[simp] theorem setHart_clock (s : State) (h : Nat) (x : Hart) : (s.setHart h x).clock = s.clock := rfl
@[simp] theorem setHart_slots (s : State) (h : Nat) (x : Hart) : (s.setHart h x).slots = s.slots := rfl
@[simp] theorem setHart_mem (s : State) (h : Nat) (x : Hart) : (s.setHart h x).mem = s.mem := rfl
@[simp] theorem setHart_hostMem (s : State) (h : Nat) (x : Hart) : (s.setHart h x).hostMem = s.hostMem := rfl
@[simp] theorem setHart_vault (s : State) (h : Nat) (x : Hart) : (s.setHart h x).vault = s.vault := rfl
@[simp] theorem setHart_regs (s : State) (h : Nat) (x : Hart) : (s.setHart h x).regs = s.regs := rfl
@[simp] theorem setHart_marks (s : State) (h : Nat) (x : Hart) : (s.setHart h x).marks = s.marks := rfl
@[simp] theorem setHart_cores (s : State) (h : Nat) (x : Hart) : (s.setHart h x).cores = s.cores := rfl
@[simp] theorem setHart_dies (s : State) (h : Nat) (x : Hart) : (s.setHart h x).dies = s.dies := rfl
@[simp] theorem setHart_pkg (s : State) (h : Nat) (x : Hart) : (s.setHart h x).pkg = s.pkg := rfl

/-! State.putHart changes harts alone. -/

@[simp] theorem putHart_cur (s : State) (x : Hart) : (s.putHart x).cur = s.cur := rfl
@[simp] theorem putHart_turns (s : State) (x : Hart) : (s.putHart x).turns = s.turns := rfl
@[simp] theorem putHart_agenda (s : State) (x : Hart) : (s.putHart x).agenda = s.agenda := rfl
@[simp] theorem putHart_tick (s : State) (x : Hart) : (s.putHart x).tick = s.tick := rfl
@[simp] theorem putHart_clock (s : State) (x : Hart) : (s.putHart x).clock = s.clock := rfl
@[simp] theorem putHart_slots (s : State) (x : Hart) : (s.putHart x).slots = s.slots := rfl
@[simp] theorem putHart_mem (s : State) (x : Hart) : (s.putHart x).mem = s.mem := rfl
@[simp] theorem putHart_hostMem (s : State) (x : Hart) : (s.putHart x).hostMem = s.hostMem := rfl
@[simp] theorem putHart_vault (s : State) (x : Hart) : (s.putHart x).vault = s.vault := rfl
@[simp] theorem putHart_regs (s : State) (x : Hart) : (s.putHart x).regs = s.regs := rfl
@[simp] theorem putHart_marks (s : State) (x : Hart) : (s.putHart x).marks = s.marks := rfl
@[simp] theorem putHart_cores (s : State) (x : Hart) : (s.putHart x).cores = s.cores := rfl
@[simp] theorem putHart_dies (s : State) (x : Hart) : (s.putHart x).dies = s.dies := rfl
@[simp] theorem putHart_pkg (s : State) (x : Hart) : (s.putHart x).pkg = s.pkg := rfl

/-! State.wS changes harts alone. -/

@[simp] theorem wS_cur (s : State) (r : SReg) (v : Word) : (s.wS r v).cur = s.cur := rfl
@[simp] theorem wS_turns (s : State) (r : SReg) (v : Word) : (s.wS r v).turns = s.turns := rfl
@[simp] theorem wS_agenda (s : State) (r : SReg) (v : Word) : (s.wS r v).agenda = s.agenda := rfl
@[simp] theorem wS_tick (s : State) (r : SReg) (v : Word) : (s.wS r v).tick = s.tick := rfl
@[simp] theorem wS_clock (s : State) (r : SReg) (v : Word) : (s.wS r v).clock = s.clock := rfl
@[simp] theorem wS_slots (s : State) (r : SReg) (v : Word) : (s.wS r v).slots = s.slots := rfl
@[simp] theorem wS_mem (s : State) (r : SReg) (v : Word) : (s.wS r v).mem = s.mem := rfl
@[simp] theorem wS_hostMem (s : State) (r : SReg) (v : Word) : (s.wS r v).hostMem = s.hostMem := rfl
@[simp] theorem wS_vault (s : State) (r : SReg) (v : Word) : (s.wS r v).vault = s.vault := rfl
@[simp] theorem wS_regs (s : State) (r : SReg) (v : Word) : (s.wS r v).regs = s.regs := rfl
@[simp] theorem wS_marks (s : State) (r : SReg) (v : Word) : (s.wS r v).marks = s.marks := rfl
@[simp] theorem wS_cores (s : State) (r : SReg) (v : Word) : (s.wS r v).cores = s.cores := rfl
@[simp] theorem wS_dies (s : State) (r : SReg) (v : Word) : (s.wS r v).dies = s.dies := rfl
@[simp] theorem wS_pkg (s : State) (r : SReg) (v : Word) : (s.wS r v).pkg = s.pkg := rfl

/-! State.wF changes harts alone. -/

@[simp] theorem wF_cur (s : State) (r : SReg) (v : Word) : (s.wF r v).cur = s.cur := rfl
@[simp] theorem wF_turns (s : State) (r : SReg) (v : Word) : (s.wF r v).turns = s.turns := rfl
@[simp] theorem wF_agenda (s : State) (r : SReg) (v : Word) : (s.wF r v).agenda = s.agenda := rfl
@[simp] theorem wF_tick (s : State) (r : SReg) (v : Word) : (s.wF r v).tick = s.tick := rfl
@[simp] theorem wF_clock (s : State) (r : SReg) (v : Word) : (s.wF r v).clock = s.clock := rfl
@[simp] theorem wF_slots (s : State) (r : SReg) (v : Word) : (s.wF r v).slots = s.slots := rfl
@[simp] theorem wF_mem (s : State) (r : SReg) (v : Word) : (s.wF r v).mem = s.mem := rfl
@[simp] theorem wF_hostMem (s : State) (r : SReg) (v : Word) : (s.wF r v).hostMem = s.hostMem := rfl
@[simp] theorem wF_vault (s : State) (r : SReg) (v : Word) : (s.wF r v).vault = s.vault := rfl
@[simp] theorem wF_regs (s : State) (r : SReg) (v : Word) : (s.wF r v).regs = s.regs := rfl
@[simp] theorem wF_marks (s : State) (r : SReg) (v : Word) : (s.wF r v).marks = s.marks := rfl
@[simp] theorem wF_cores (s : State) (r : SReg) (v : Word) : (s.wF r v).cores = s.cores := rfl
@[simp] theorem wF_dies (s : State) (r : SReg) (v : Word) : (s.wF r v).dies = s.dies := rfl
@[simp] theorem wF_pkg (s : State) (r : SReg) (v : Word) : (s.wF r v).pkg = s.pkg := rfl

/-! State.adv changes harts alone. -/

@[simp] theorem adv_cur (s : State) (n : Nat) : (s.adv n).cur = s.cur := rfl
@[simp] theorem adv_turns (s : State) (n : Nat) : (s.adv n).turns = s.turns := rfl
@[simp] theorem adv_agenda (s : State) (n : Nat) : (s.adv n).agenda = s.agenda := rfl
@[simp] theorem adv_tick (s : State) (n : Nat) : (s.adv n).tick = s.tick := rfl
@[simp] theorem adv_clock (s : State) (n : Nat) : (s.adv n).clock = s.clock := rfl
@[simp] theorem adv_slots (s : State) (n : Nat) : (s.adv n).slots = s.slots := rfl
@[simp] theorem adv_mem (s : State) (n : Nat) : (s.adv n).mem = s.mem := rfl
@[simp] theorem adv_hostMem (s : State) (n : Nat) : (s.adv n).hostMem = s.hostMem := rfl
@[simp] theorem adv_vault (s : State) (n : Nat) : (s.adv n).vault = s.vault := rfl
@[simp] theorem adv_regs (s : State) (n : Nat) : (s.adv n).regs = s.regs := rfl
@[simp] theorem adv_marks (s : State) (n : Nat) : (s.adv n).marks = s.marks := rfl
@[simp] theorem adv_cores (s : State) (n : Nat) : (s.adv n).cores = s.cores := rfl
@[simp] theorem adv_dies (s : State) (n : Nat) : (s.adv n).dies = s.dies := rfl
@[simp] theorem adv_pkg (s : State) (n : Nat) : (s.adv n).pkg = s.pkg := rfl

/-! State.setPc changes harts alone. -/

@[simp] theorem setPc_cur (s : State) (v : Word) : (s.setPc v).cur = s.cur := rfl
@[simp] theorem setPc_turns (s : State) (v : Word) : (s.setPc v).turns = s.turns := rfl
@[simp] theorem setPc_agenda (s : State) (v : Word) : (s.setPc v).agenda = s.agenda := rfl
@[simp] theorem setPc_tick (s : State) (v : Word) : (s.setPc v).tick = s.tick := rfl
@[simp] theorem setPc_clock (s : State) (v : Word) : (s.setPc v).clock = s.clock := rfl
@[simp] theorem setPc_slots (s : State) (v : Word) : (s.setPc v).slots = s.slots := rfl
@[simp] theorem setPc_mem (s : State) (v : Word) : (s.setPc v).mem = s.mem := rfl
@[simp] theorem setPc_hostMem (s : State) (v : Word) : (s.setPc v).hostMem = s.hostMem := rfl
@[simp] theorem setPc_vault (s : State) (v : Word) : (s.setPc v).vault = s.vault := rfl
@[simp] theorem setPc_regs (s : State) (v : Word) : (s.setPc v).regs = s.regs := rfl
@[simp] theorem setPc_marks (s : State) (v : Word) : (s.setPc v).marks = s.marks := rfl
@[simp] theorem setPc_cores (s : State) (v : Word) : (s.setPc v).cores = s.cores := rfl
@[simp] theorem setPc_dies (s : State) (v : Word) : (s.setPc v).dies = s.dies := rfl
@[simp] theorem setPc_pkg (s : State) (v : Word) : (s.setPc v).pkg = s.pkg := rfl

/-! State.setConf changes harts alone. -/

@[simp] theorem setConf_cur (s : State) (c : VConf) : (s.setConf c).cur = s.cur := rfl
@[simp] theorem setConf_turns (s : State) (c : VConf) : (s.setConf c).turns = s.turns := rfl
@[simp] theorem setConf_agenda (s : State) (c : VConf) : (s.setConf c).agenda = s.agenda := rfl
@[simp] theorem setConf_tick (s : State) (c : VConf) : (s.setConf c).tick = s.tick := rfl
@[simp] theorem setConf_clock (s : State) (c : VConf) : (s.setConf c).clock = s.clock := rfl
@[simp] theorem setConf_slots (s : State) (c : VConf) : (s.setConf c).slots = s.slots := rfl
@[simp] theorem setConf_mem (s : State) (c : VConf) : (s.setConf c).mem = s.mem := rfl
@[simp] theorem setConf_hostMem (s : State) (c : VConf) : (s.setConf c).hostMem = s.hostMem := rfl
@[simp] theorem setConf_vault (s : State) (c : VConf) : (s.setConf c).vault = s.vault := rfl
@[simp] theorem setConf_regs (s : State) (c : VConf) : (s.setConf c).regs = s.regs := rfl
@[simp] theorem setConf_marks (s : State) (c : VConf) : (s.setConf c).marks = s.marks := rfl
@[simp] theorem setConf_cores (s : State) (c : VConf) : (s.setConf c).cores = s.cores := rfl
@[simp] theorem setConf_dies (s : State) (c : VConf) : (s.setConf c).dies = s.dies := rfl
@[simp] theorem setConf_pkg (s : State) (c : VConf) : (s.setConf c).pkg = s.pkg := rfl

/-! State.setVsi changes harts alone. -/

@[simp] theorem setVsi_cur (s : State) (k : Nat) : (s.setVsi k).cur = s.cur := rfl
@[simp] theorem setVsi_turns (s : State) (k : Nat) : (s.setVsi k).turns = s.turns := rfl
@[simp] theorem setVsi_agenda (s : State) (k : Nat) : (s.setVsi k).agenda = s.agenda := rfl
@[simp] theorem setVsi_tick (s : State) (k : Nat) : (s.setVsi k).tick = s.tick := rfl
@[simp] theorem setVsi_clock (s : State) (k : Nat) : (s.setVsi k).clock = s.clock := rfl
@[simp] theorem setVsi_slots (s : State) (k : Nat) : (s.setVsi k).slots = s.slots := rfl
@[simp] theorem setVsi_mem (s : State) (k : Nat) : (s.setVsi k).mem = s.mem := rfl
@[simp] theorem setVsi_hostMem (s : State) (k : Nat) : (s.setVsi k).hostMem = s.hostMem := rfl
@[simp] theorem setVsi_vault (s : State) (k : Nat) : (s.setVsi k).vault = s.vault := rfl
@[simp] theorem setVsi_regs (s : State) (k : Nat) : (s.setVsi k).regs = s.regs := rfl
@[simp] theorem setVsi_marks (s : State) (k : Nat) : (s.setVsi k).marks = s.marks := rfl
@[simp] theorem setVsi_cores (s : State) (k : Nat) : (s.setVsi k).cores = s.cores := rfl
@[simp] theorem setVsi_dies (s : State) (k : Nat) : (s.setVsi k).dies = s.dies := rfl
@[simp] theorem setVsi_pkg (s : State) (k : Nat) : (s.setVsi k).pkg = s.pkg := rfl

/-! State.setMbit changes harts alone. -/

@[simp] theorem setMbit_cur (s : State) (k e : Nat) (b : Bool) : (s.setMbit k e b).cur = s.cur := rfl
@[simp] theorem setMbit_turns (s : State) (k e : Nat) (b : Bool) : (s.setMbit k e b).turns = s.turns := rfl
@[simp] theorem setMbit_agenda (s : State) (k e : Nat) (b : Bool) : (s.setMbit k e b).agenda = s.agenda := rfl
@[simp] theorem setMbit_tick (s : State) (k e : Nat) (b : Bool) : (s.setMbit k e b).tick = s.tick := rfl
@[simp] theorem setMbit_clock (s : State) (k e : Nat) (b : Bool) : (s.setMbit k e b).clock = s.clock := rfl
@[simp] theorem setMbit_slots (s : State) (k e : Nat) (b : Bool) : (s.setMbit k e b).slots = s.slots := rfl
@[simp] theorem setMbit_mem (s : State) (k e : Nat) (b : Bool) : (s.setMbit k e b).mem = s.mem := rfl
@[simp] theorem setMbit_hostMem (s : State) (k e : Nat) (b : Bool) : (s.setMbit k e b).hostMem = s.hostMem := rfl
@[simp] theorem setMbit_vault (s : State) (k e : Nat) (b : Bool) : (s.setMbit k e b).vault = s.vault := rfl
@[simp] theorem setMbit_regs (s : State) (k e : Nat) (b : Bool) : (s.setMbit k e b).regs = s.regs := rfl
@[simp] theorem setMbit_marks (s : State) (k e : Nat) (b : Bool) : (s.setMbit k e b).marks = s.marks := rfl
@[simp] theorem setMbit_cores (s : State) (k e : Nat) (b : Bool) : (s.setMbit k e b).cores = s.cores := rfl
@[simp] theorem setMbit_dies (s : State) (k e : Nat) (b : Bool) : (s.setMbit k e b).dies = s.dies := rfl
@[simp] theorem setMbit_pkg (s : State) (k e : Nat) (b : Bool) : (s.setMbit k e b).pkg = s.pkg := rfl

/-! setMemByte changes mem alone. -/

@[simp] theorem setMemByte_cur (s : State) (pa : Nat) (b : Byte) : (setMemByte s pa b).cur = s.cur := rfl
@[simp] theorem setMemByte_turns (s : State) (pa : Nat) (b : Byte) : (setMemByte s pa b).turns = s.turns := rfl
@[simp] theorem setMemByte_agenda (s : State) (pa : Nat) (b : Byte) : (setMemByte s pa b).agenda = s.agenda := rfl
@[simp] theorem setMemByte_tick (s : State) (pa : Nat) (b : Byte) : (setMemByte s pa b).tick = s.tick := rfl
@[simp] theorem setMemByte_clock (s : State) (pa : Nat) (b : Byte) : (setMemByte s pa b).clock = s.clock := rfl
@[simp] theorem setMemByte_harts (s : State) (pa : Nat) (b : Byte) : (setMemByte s pa b).harts = s.harts := rfl
@[simp] theorem setMemByte_slots (s : State) (pa : Nat) (b : Byte) : (setMemByte s pa b).slots = s.slots := rfl
@[simp] theorem setMemByte_hostMem (s : State) (pa : Nat) (b : Byte) : (setMemByte s pa b).hostMem = s.hostMem := rfl
@[simp] theorem setMemByte_vault (s : State) (pa : Nat) (b : Byte) : (setMemByte s pa b).vault = s.vault := rfl
@[simp] theorem setMemByte_regs (s : State) (pa : Nat) (b : Byte) : (setMemByte s pa b).regs = s.regs := rfl
@[simp] theorem setMemByte_marks (s : State) (pa : Nat) (b : Byte) : (setMemByte s pa b).marks = s.marks := rfl
@[simp] theorem setMemByte_cores (s : State) (pa : Nat) (b : Byte) : (setMemByte s pa b).cores = s.cores := rfl
@[simp] theorem setMemByte_dies (s : State) (pa : Nat) (b : Byte) : (setMemByte s pa b).dies = s.dies := rfl
@[simp] theorem setMemByte_pkg (s : State) (pa : Nat) (b : Byte) : (setMemByte s pa b).pkg = s.pkg := rfl

/-! setHostByte changes hostMem alone. -/

@[simp] theorem setHostByte_cur (s : State) (a : Nat) (b : Byte) : (setHostByte s a b).cur = s.cur := rfl
@[simp] theorem setHostByte_turns (s : State) (a : Nat) (b : Byte) : (setHostByte s a b).turns = s.turns := rfl
@[simp] theorem setHostByte_agenda (s : State) (a : Nat) (b : Byte) : (setHostByte s a b).agenda = s.agenda := rfl
@[simp] theorem setHostByte_tick (s : State) (a : Nat) (b : Byte) : (setHostByte s a b).tick = s.tick := rfl
@[simp] theorem setHostByte_clock (s : State) (a : Nat) (b : Byte) : (setHostByte s a b).clock = s.clock := rfl
@[simp] theorem setHostByte_harts (s : State) (a : Nat) (b : Byte) : (setHostByte s a b).harts = s.harts := rfl
@[simp] theorem setHostByte_slots (s : State) (a : Nat) (b : Byte) : (setHostByte s a b).slots = s.slots := rfl
@[simp] theorem setHostByte_mem (s : State) (a : Nat) (b : Byte) : (setHostByte s a b).mem = s.mem := rfl
@[simp] theorem setHostByte_vault (s : State) (a : Nat) (b : Byte) : (setHostByte s a b).vault = s.vault := rfl
@[simp] theorem setHostByte_regs (s : State) (a : Nat) (b : Byte) : (setHostByte s a b).regs = s.regs := rfl
@[simp] theorem setHostByte_marks (s : State) (a : Nat) (b : Byte) : (setHostByte s a b).marks = s.marks := rfl
@[simp] theorem setHostByte_cores (s : State) (a : Nat) (b : Byte) : (setHostByte s a b).cores = s.cores := rfl
@[simp] theorem setHostByte_dies (s : State) (a : Nat) (b : Byte) : (setHostByte s a b).dies = s.dies := rfl
@[simp] theorem setHostByte_pkg (s : State) (a : Nat) (b : Byte) : (setHostByte s a b).pkg = s.pkg := rfl

/-! setVaultByte changes vault alone. -/

@[simp] theorem setVaultByte_cur (s : State) (c off : Nat) (b : Byte) : (setVaultByte s c off b).cur = s.cur := rfl
@[simp] theorem setVaultByte_turns (s : State) (c off : Nat) (b : Byte) : (setVaultByte s c off b).turns = s.turns := rfl
@[simp] theorem setVaultByte_agenda (s : State) (c off : Nat) (b : Byte) : (setVaultByte s c off b).agenda = s.agenda := rfl
@[simp] theorem setVaultByte_tick (s : State) (c off : Nat) (b : Byte) : (setVaultByte s c off b).tick = s.tick := rfl
@[simp] theorem setVaultByte_clock (s : State) (c off : Nat) (b : Byte) : (setVaultByte s c off b).clock = s.clock := rfl
@[simp] theorem setVaultByte_harts (s : State) (c off : Nat) (b : Byte) : (setVaultByte s c off b).harts = s.harts := rfl
@[simp] theorem setVaultByte_slots (s : State) (c off : Nat) (b : Byte) : (setVaultByte s c off b).slots = s.slots := rfl
@[simp] theorem setVaultByte_mem (s : State) (c off : Nat) (b : Byte) : (setVaultByte s c off b).mem = s.mem := rfl
@[simp] theorem setVaultByte_hostMem (s : State) (c off : Nat) (b : Byte) : (setVaultByte s c off b).hostMem = s.hostMem := rfl
@[simp] theorem setVaultByte_regs (s : State) (c off : Nat) (b : Byte) : (setVaultByte s c off b).regs = s.regs := rfl
@[simp] theorem setVaultByte_marks (s : State) (c off : Nat) (b : Byte) : (setVaultByte s c off b).marks = s.marks := rfl
@[simp] theorem setVaultByte_cores (s : State) (c off : Nat) (b : Byte) : (setVaultByte s c off b).cores = s.cores := rfl
@[simp] theorem setVaultByte_dies (s : State) (c off : Nat) (b : Byte) : (setVaultByte s c off b).dies = s.dies := rfl
@[simp] theorem setVaultByte_pkg (s : State) (c off : Nat) (b : Byte) : (setVaultByte s c off b).pkg = s.pkg := rfl

/-! setLineEmpty changes marks alone. -/

@[simp] theorem setLineEmpty_cur (s : State) (c off : Nat) (e : Bool) : (setLineEmpty s c off e).cur = s.cur := rfl
@[simp] theorem setLineEmpty_turns (s : State) (c off : Nat) (e : Bool) : (setLineEmpty s c off e).turns = s.turns := rfl
@[simp] theorem setLineEmpty_agenda (s : State) (c off : Nat) (e : Bool) : (setLineEmpty s c off e).agenda = s.agenda := rfl
@[simp] theorem setLineEmpty_tick (s : State) (c off : Nat) (e : Bool) : (setLineEmpty s c off e).tick = s.tick := rfl
@[simp] theorem setLineEmpty_clock (s : State) (c off : Nat) (e : Bool) : (setLineEmpty s c off e).clock = s.clock := rfl
@[simp] theorem setLineEmpty_harts (s : State) (c off : Nat) (e : Bool) : (setLineEmpty s c off e).harts = s.harts := rfl
@[simp] theorem setLineEmpty_slots (s : State) (c off : Nat) (e : Bool) : (setLineEmpty s c off e).slots = s.slots := rfl
@[simp] theorem setLineEmpty_mem (s : State) (c off : Nat) (e : Bool) : (setLineEmpty s c off e).mem = s.mem := rfl
@[simp] theorem setLineEmpty_hostMem (s : State) (c off : Nat) (e : Bool) : (setLineEmpty s c off e).hostMem = s.hostMem := rfl
@[simp] theorem setLineEmpty_vault (s : State) (c off : Nat) (e : Bool) : (setLineEmpty s c off e).vault = s.vault := rfl
@[simp] theorem setLineEmpty_regs (s : State) (c off : Nat) (e : Bool) : (setLineEmpty s c off e).regs = s.regs := rfl
@[simp] theorem setLineEmpty_cores (s : State) (c off : Nat) (e : Bool) : (setLineEmpty s c off e).cores = s.cores := rfl
@[simp] theorem setLineEmpty_dies (s : State) (c off : Nat) (e : Bool) : (setLineEmpty s c off e).dies = s.dies := rfl
@[simp] theorem setLineEmpty_pkg (s : State) (c off : Nat) (e : Bool) : (setLineEmpty s c off e).pkg = s.pkg := rfl

/-! setVaultMark changes marks alone. -/

@[simp] theorem setVaultMark_cur (s : State) (c off : Nat) (m : Bool) : (setVaultMark s c off m).cur = s.cur := rfl
@[simp] theorem setVaultMark_turns (s : State) (c off : Nat) (m : Bool) : (setVaultMark s c off m).turns = s.turns := rfl
@[simp] theorem setVaultMark_agenda (s : State) (c off : Nat) (m : Bool) : (setVaultMark s c off m).agenda = s.agenda := rfl
@[simp] theorem setVaultMark_tick (s : State) (c off : Nat) (m : Bool) : (setVaultMark s c off m).tick = s.tick := rfl
@[simp] theorem setVaultMark_clock (s : State) (c off : Nat) (m : Bool) : (setVaultMark s c off m).clock = s.clock := rfl
@[simp] theorem setVaultMark_harts (s : State) (c off : Nat) (m : Bool) : (setVaultMark s c off m).harts = s.harts := rfl
@[simp] theorem setVaultMark_slots (s : State) (c off : Nat) (m : Bool) : (setVaultMark s c off m).slots = s.slots := rfl
@[simp] theorem setVaultMark_mem (s : State) (c off : Nat) (m : Bool) : (setVaultMark s c off m).mem = s.mem := rfl
@[simp] theorem setVaultMark_hostMem (s : State) (c off : Nat) (m : Bool) : (setVaultMark s c off m).hostMem = s.hostMem := rfl
@[simp] theorem setVaultMark_vault (s : State) (c off : Nat) (m : Bool) : (setVaultMark s c off m).vault = s.vault := rfl
@[simp] theorem setVaultMark_regs (s : State) (c off : Nat) (m : Bool) : (setVaultMark s c off m).regs = s.regs := rfl
@[simp] theorem setVaultMark_cores (s : State) (c off : Nat) (m : Bool) : (setVaultMark s c off m).cores = s.cores := rfl
@[simp] theorem setVaultMark_dies (s : State) (c off : Nat) (m : Bool) : (setVaultMark s c off m).dies = s.dies := rfl
@[simp] theorem setVaultMark_pkg (s : State) (c off : Nat) (m : Bool) : (setVaultMark s c off m).pkg = s.pkg := rfl

/-! setMemMark changes marks alone. -/

@[simp] theorem setMemMark_cur (s : State) (pa : Nat) (m : Bool) : (setMemMark s pa m).cur = s.cur := rfl
@[simp] theorem setMemMark_turns (s : State) (pa : Nat) (m : Bool) : (setMemMark s pa m).turns = s.turns := rfl
@[simp] theorem setMemMark_agenda (s : State) (pa : Nat) (m : Bool) : (setMemMark s pa m).agenda = s.agenda := rfl
@[simp] theorem setMemMark_tick (s : State) (pa : Nat) (m : Bool) : (setMemMark s pa m).tick = s.tick := rfl
@[simp] theorem setMemMark_clock (s : State) (pa : Nat) (m : Bool) : (setMemMark s pa m).clock = s.clock := rfl
@[simp] theorem setMemMark_harts (s : State) (pa : Nat) (m : Bool) : (setMemMark s pa m).harts = s.harts := rfl
@[simp] theorem setMemMark_slots (s : State) (pa : Nat) (m : Bool) : (setMemMark s pa m).slots = s.slots := rfl
@[simp] theorem setMemMark_mem (s : State) (pa : Nat) (m : Bool) : (setMemMark s pa m).mem = s.mem := rfl
@[simp] theorem setMemMark_hostMem (s : State) (pa : Nat) (m : Bool) : (setMemMark s pa m).hostMem = s.hostMem := rfl
@[simp] theorem setMemMark_vault (s : State) (pa : Nat) (m : Bool) : (setMemMark s pa m).vault = s.vault := rfl
@[simp] theorem setMemMark_regs (s : State) (pa : Nat) (m : Bool) : (setMemMark s pa m).regs = s.regs := rfl
@[simp] theorem setMemMark_cores (s : State) (pa : Nat) (m : Bool) : (setMemMark s pa m).cores = s.cores := rfl
@[simp] theorem setMemMark_dies (s : State) (pa : Nat) (m : Bool) : (setMemMark s pa m).dies = s.dies := rfl
@[simp] theorem setMemMark_pkg (s : State) (pa : Nat) (m : Bool) : (setMemMark s pa m).pkg = s.pkg := rfl

/-! setHostMark changes marks alone. -/

@[simp] theorem setHostMark_cur (s : State) (a : Nat) (m : Bool) : (setHostMark s a m).cur = s.cur := rfl
@[simp] theorem setHostMark_turns (s : State) (a : Nat) (m : Bool) : (setHostMark s a m).turns = s.turns := rfl
@[simp] theorem setHostMark_agenda (s : State) (a : Nat) (m : Bool) : (setHostMark s a m).agenda = s.agenda := rfl
@[simp] theorem setHostMark_tick (s : State) (a : Nat) (m : Bool) : (setHostMark s a m).tick = s.tick := rfl
@[simp] theorem setHostMark_clock (s : State) (a : Nat) (m : Bool) : (setHostMark s a m).clock = s.clock := rfl
@[simp] theorem setHostMark_harts (s : State) (a : Nat) (m : Bool) : (setHostMark s a m).harts = s.harts := rfl
@[simp] theorem setHostMark_slots (s : State) (a : Nat) (m : Bool) : (setHostMark s a m).slots = s.slots := rfl
@[simp] theorem setHostMark_mem (s : State) (a : Nat) (m : Bool) : (setHostMark s a m).mem = s.mem := rfl
@[simp] theorem setHostMark_hostMem (s : State) (a : Nat) (m : Bool) : (setHostMark s a m).hostMem = s.hostMem := rfl
@[simp] theorem setHostMark_vault (s : State) (a : Nat) (m : Bool) : (setHostMark s a m).vault = s.vault := rfl
@[simp] theorem setHostMark_regs (s : State) (a : Nat) (m : Bool) : (setHostMark s a m).regs = s.regs := rfl
@[simp] theorem setHostMark_cores (s : State) (a : Nat) (m : Bool) : (setHostMark s a m).cores = s.cores := rfl
@[simp] theorem setHostMark_dies (s : State) (a : Nat) (m : Bool) : (setHostMark s a m).dies = s.dies := rfl
@[simp] theorem setHostMark_pkg (s : State) (a : Nat) (m : Bool) : (setHostMark s a m).pkg = s.pkg := rfl

/-! setCell changes cores alone. -/

@[simp] theorem setCell_cur (s : State) (c row col : Nat) (v : Word) : (setCell s c row col v).cur = s.cur := rfl
@[simp] theorem setCell_turns (s : State) (c row col : Nat) (v : Word) : (setCell s c row col v).turns = s.turns := rfl
@[simp] theorem setCell_agenda (s : State) (c row col : Nat) (v : Word) : (setCell s c row col v).agenda = s.agenda := rfl
@[simp] theorem setCell_tick (s : State) (c row col : Nat) (v : Word) : (setCell s c row col v).tick = s.tick := rfl
@[simp] theorem setCell_clock (s : State) (c row col : Nat) (v : Word) : (setCell s c row col v).clock = s.clock := rfl
@[simp] theorem setCell_harts (s : State) (c row col : Nat) (v : Word) : (setCell s c row col v).harts = s.harts := rfl
@[simp] theorem setCell_slots (s : State) (c row col : Nat) (v : Word) : (setCell s c row col v).slots = s.slots := rfl
@[simp] theorem setCell_mem (s : State) (c row col : Nat) (v : Word) : (setCell s c row col v).mem = s.mem := rfl
@[simp] theorem setCell_hostMem (s : State) (c row col : Nat) (v : Word) : (setCell s c row col v).hostMem = s.hostMem := rfl
@[simp] theorem setCell_vault (s : State) (c row col : Nat) (v : Word) : (setCell s c row col v).vault = s.vault := rfl
@[simp] theorem setCell_regs (s : State) (c row col : Nat) (v : Word) : (setCell s c row col v).regs = s.regs := rfl
@[simp] theorem setCell_marks (s : State) (c row col : Nat) (v : Word) : (setCell s c row col v).marks = s.marks := rfl
@[simp] theorem setCell_dies (s : State) (c row col : Nat) (v : Word) : (setCell s c row col v).dies = s.dies := rfl
@[simp] theorem setCell_pkg (s : State) (c row col : Nat) (v : Word) : (setCell s c row col v).pkg = s.pkg := rfl

/-! setCellMark changes marks alone. -/

@[simp] theorem setCellMark_cur (s : State) (c row col : Nat) (m : Bool) : (setCellMark s c row col m).cur = s.cur := rfl
@[simp] theorem setCellMark_turns (s : State) (c row col : Nat) (m : Bool) : (setCellMark s c row col m).turns = s.turns := rfl
@[simp] theorem setCellMark_agenda (s : State) (c row col : Nat) (m : Bool) : (setCellMark s c row col m).agenda = s.agenda := rfl
@[simp] theorem setCellMark_tick (s : State) (c row col : Nat) (m : Bool) : (setCellMark s c row col m).tick = s.tick := rfl
@[simp] theorem setCellMark_clock (s : State) (c row col : Nat) (m : Bool) : (setCellMark s c row col m).clock = s.clock := rfl
@[simp] theorem setCellMark_harts (s : State) (c row col : Nat) (m : Bool) : (setCellMark s c row col m).harts = s.harts := rfl
@[simp] theorem setCellMark_slots (s : State) (c row col : Nat) (m : Bool) : (setCellMark s c row col m).slots = s.slots := rfl
@[simp] theorem setCellMark_mem (s : State) (c row col : Nat) (m : Bool) : (setCellMark s c row col m).mem = s.mem := rfl
@[simp] theorem setCellMark_hostMem (s : State) (c row col : Nat) (m : Bool) : (setCellMark s c row col m).hostMem = s.hostMem := rfl
@[simp] theorem setCellMark_vault (s : State) (c row col : Nat) (m : Bool) : (setCellMark s c row col m).vault = s.vault := rfl
@[simp] theorem setCellMark_regs (s : State) (c row col : Nat) (m : Bool) : (setCellMark s c row col m).regs = s.regs := rfl
@[simp] theorem setCellMark_cores (s : State) (c row col : Nat) (m : Bool) : (setCellMark s c row col m).cores = s.cores := rfl
@[simp] theorem setCellMark_dies (s : State) (c row col : Nat) (m : Bool) : (setCellMark s c row col m).dies = s.dies := rfl
@[simp] theorem setCellMark_pkg (s : State) (c row col : Nat) (m : Bool) : (setCellMark s c row col m).pkg = s.pkg := rfl

/-! setUnlanded changes marks alone. -/

@[simp] theorem setUnlanded_cur (s : State) (c row p : Nat) (u : Bool) : (setUnlanded s c row p u).cur = s.cur := rfl
@[simp] theorem setUnlanded_turns (s : State) (c row p : Nat) (u : Bool) : (setUnlanded s c row p u).turns = s.turns := rfl
@[simp] theorem setUnlanded_agenda (s : State) (c row p : Nat) (u : Bool) : (setUnlanded s c row p u).agenda = s.agenda := rfl
@[simp] theorem setUnlanded_tick (s : State) (c row p : Nat) (u : Bool) : (setUnlanded s c row p u).tick = s.tick := rfl
@[simp] theorem setUnlanded_clock (s : State) (c row p : Nat) (u : Bool) : (setUnlanded s c row p u).clock = s.clock := rfl
@[simp] theorem setUnlanded_harts (s : State) (c row p : Nat) (u : Bool) : (setUnlanded s c row p u).harts = s.harts := rfl
@[simp] theorem setUnlanded_slots (s : State) (c row p : Nat) (u : Bool) : (setUnlanded s c row p u).slots = s.slots := rfl
@[simp] theorem setUnlanded_mem (s : State) (c row p : Nat) (u : Bool) : (setUnlanded s c row p u).mem = s.mem := rfl
@[simp] theorem setUnlanded_hostMem (s : State) (c row p : Nat) (u : Bool) : (setUnlanded s c row p u).hostMem = s.hostMem := rfl
@[simp] theorem setUnlanded_vault (s : State) (c row p : Nat) (u : Bool) : (setUnlanded s c row p u).vault = s.vault := rfl
@[simp] theorem setUnlanded_regs (s : State) (c row p : Nat) (u : Bool) : (setUnlanded s c row p u).regs = s.regs := rfl
@[simp] theorem setUnlanded_cores (s : State) (c row p : Nat) (u : Bool) : (setUnlanded s c row p u).cores = s.cores := rfl
@[simp] theorem setUnlanded_dies (s : State) (c row p : Nat) (u : Bool) : (setUnlanded s c row p u).dies = s.dies := rfl
@[simp] theorem setUnlanded_pkg (s : State) (c row p : Nat) (u : Bool) : (setUnlanded s c row p u).pkg = s.pkg := rfl

/-! setReg changes regs alone. -/

@[simp] theorem setReg_cur (s : State) (pa : Nat) (v : Word) : (setReg s pa v).cur = s.cur := rfl
@[simp] theorem setReg_turns (s : State) (pa : Nat) (v : Word) : (setReg s pa v).turns = s.turns := rfl
@[simp] theorem setReg_agenda (s : State) (pa : Nat) (v : Word) : (setReg s pa v).agenda = s.agenda := rfl
@[simp] theorem setReg_tick (s : State) (pa : Nat) (v : Word) : (setReg s pa v).tick = s.tick := rfl
@[simp] theorem setReg_clock (s : State) (pa : Nat) (v : Word) : (setReg s pa v).clock = s.clock := rfl
@[simp] theorem setReg_harts (s : State) (pa : Nat) (v : Word) : (setReg s pa v).harts = s.harts := rfl
@[simp] theorem setReg_slots (s : State) (pa : Nat) (v : Word) : (setReg s pa v).slots = s.slots := rfl
@[simp] theorem setReg_mem (s : State) (pa : Nat) (v : Word) : (setReg s pa v).mem = s.mem := rfl
@[simp] theorem setReg_hostMem (s : State) (pa : Nat) (v : Word) : (setReg s pa v).hostMem = s.hostMem := rfl
@[simp] theorem setReg_vault (s : State) (pa : Nat) (v : Word) : (setReg s pa v).vault = s.vault := rfl
@[simp] theorem setReg_marks (s : State) (pa : Nat) (v : Word) : (setReg s pa v).marks = s.marks := rfl
@[simp] theorem setReg_cores (s : State) (pa : Nat) (v : Word) : (setReg s pa v).cores = s.cores := rfl
@[simp] theorem setReg_dies (s : State) (pa : Nat) (v : Word) : (setReg s pa v).dies = s.dies := rfl
@[simp] theorem setReg_pkg (s : State) (pa : Nat) (v : Word) : (setReg s pa v).pkg = s.pkg := rfl

/-! setTlb changes cores alone. -/

@[simp] theorem setTlb_cur (s : State) (k : Nat) (l : List TlbEntry) : (setTlb s k l).cur = s.cur := rfl
@[simp] theorem setTlb_turns (s : State) (k : Nat) (l : List TlbEntry) : (setTlb s k l).turns = s.turns := rfl
@[simp] theorem setTlb_agenda (s : State) (k : Nat) (l : List TlbEntry) : (setTlb s k l).agenda = s.agenda := rfl
@[simp] theorem setTlb_tick (s : State) (k : Nat) (l : List TlbEntry) : (setTlb s k l).tick = s.tick := rfl
@[simp] theorem setTlb_clock (s : State) (k : Nat) (l : List TlbEntry) : (setTlb s k l).clock = s.clock := rfl
@[simp] theorem setTlb_harts (s : State) (k : Nat) (l : List TlbEntry) : (setTlb s k l).harts = s.harts := rfl
@[simp] theorem setTlb_slots (s : State) (k : Nat) (l : List TlbEntry) : (setTlb s k l).slots = s.slots := rfl
@[simp] theorem setTlb_mem (s : State) (k : Nat) (l : List TlbEntry) : (setTlb s k l).mem = s.mem := rfl
@[simp] theorem setTlb_hostMem (s : State) (k : Nat) (l : List TlbEntry) : (setTlb s k l).hostMem = s.hostMem := rfl
@[simp] theorem setTlb_vault (s : State) (k : Nat) (l : List TlbEntry) : (setTlb s k l).vault = s.vault := rfl
@[simp] theorem setTlb_regs (s : State) (k : Nat) (l : List TlbEntry) : (setTlb s k l).regs = s.regs := rfl
@[simp] theorem setTlb_marks (s : State) (k : Nat) (l : List TlbEntry) : (setTlb s k l).marks = s.marks := rfl
@[simp] theorem setTlb_dies (s : State) (k : Nat) (l : List TlbEntry) : (setTlb s k l).dies = s.dies := rfl
@[simp] theorem setTlb_pkg (s : State) (k : Nat) (l : List TlbEntry) : (setTlb s k l).pkg = s.pkg := rfl

/-! setPipe changes dies alone. -/

@[simp] theorem setPipe_cur (s : State) (d k : Nat) (p : Pipe) : (setPipe s d k p).cur = s.cur := rfl
@[simp] theorem setPipe_turns (s : State) (d k : Nat) (p : Pipe) : (setPipe s d k p).turns = s.turns := rfl
@[simp] theorem setPipe_agenda (s : State) (d k : Nat) (p : Pipe) : (setPipe s d k p).agenda = s.agenda := rfl
@[simp] theorem setPipe_tick (s : State) (d k : Nat) (p : Pipe) : (setPipe s d k p).tick = s.tick := rfl
@[simp] theorem setPipe_clock (s : State) (d k : Nat) (p : Pipe) : (setPipe s d k p).clock = s.clock := rfl
@[simp] theorem setPipe_harts (s : State) (d k : Nat) (p : Pipe) : (setPipe s d k p).harts = s.harts := rfl
@[simp] theorem setPipe_slots (s : State) (d k : Nat) (p : Pipe) : (setPipe s d k p).slots = s.slots := rfl
@[simp] theorem setPipe_mem (s : State) (d k : Nat) (p : Pipe) : (setPipe s d k p).mem = s.mem := rfl
@[simp] theorem setPipe_hostMem (s : State) (d k : Nat) (p : Pipe) : (setPipe s d k p).hostMem = s.hostMem := rfl
@[simp] theorem setPipe_vault (s : State) (d k : Nat) (p : Pipe) : (setPipe s d k p).vault = s.vault := rfl
@[simp] theorem setPipe_regs (s : State) (d k : Nat) (p : Pipe) : (setPipe s d k p).regs = s.regs := rfl
@[simp] theorem setPipe_marks (s : State) (d k : Nat) (p : Pipe) : (setPipe s d k p).marks = s.marks := rfl
@[simp] theorem setPipe_cores (s : State) (d k : Nat) (p : Pipe) : (setPipe s d k p).cores = s.cores := rfl
@[simp] theorem setPipe_pkg (s : State) (d k : Nat) (p : Pipe) : (setPipe s d k p).pkg = s.pkg := rfl

/-! setQueue changes pkg alone. -/

@[simp] theorem setQueue_cur (s : State) (io q : Nat) (x : Queue) : (setQueue s io q x).cur = s.cur := rfl
@[simp] theorem setQueue_turns (s : State) (io q : Nat) (x : Queue) : (setQueue s io q x).turns = s.turns := rfl
@[simp] theorem setQueue_agenda (s : State) (io q : Nat) (x : Queue) : (setQueue s io q x).agenda = s.agenda := rfl
@[simp] theorem setQueue_tick (s : State) (io q : Nat) (x : Queue) : (setQueue s io q x).tick = s.tick := rfl
@[simp] theorem setQueue_clock (s : State) (io q : Nat) (x : Queue) : (setQueue s io q x).clock = s.clock := rfl
@[simp] theorem setQueue_harts (s : State) (io q : Nat) (x : Queue) : (setQueue s io q x).harts = s.harts := rfl
@[simp] theorem setQueue_slots (s : State) (io q : Nat) (x : Queue) : (setQueue s io q x).slots = s.slots := rfl
@[simp] theorem setQueue_mem (s : State) (io q : Nat) (x : Queue) : (setQueue s io q x).mem = s.mem := rfl
@[simp] theorem setQueue_hostMem (s : State) (io q : Nat) (x : Queue) : (setQueue s io q x).hostMem = s.hostMem := rfl
@[simp] theorem setQueue_vault (s : State) (io q : Nat) (x : Queue) : (setQueue s io q x).vault = s.vault := rfl
@[simp] theorem setQueue_regs (s : State) (io q : Nat) (x : Queue) : (setQueue s io q x).regs = s.regs := rfl
@[simp] theorem setQueue_marks (s : State) (io q : Nat) (x : Queue) : (setQueue s io q x).marks = s.marks := rfl
@[simp] theorem setQueue_cores (s : State) (io q : Nat) (x : Queue) : (setQueue s io q x).cores = s.cores := rfl
@[simp] theorem setQueue_dies (s : State) (io q : Nat) (x : Queue) : (setQueue s io q x).dies = s.dies := rfl

/-! setBarrier changes pkg alone. -/

@[simp] theorem setBarrier_cur (s : State) (k : Nat) (b : Barrier) : (setBarrier s k b).cur = s.cur := rfl
@[simp] theorem setBarrier_turns (s : State) (k : Nat) (b : Barrier) : (setBarrier s k b).turns = s.turns := rfl
@[simp] theorem setBarrier_agenda (s : State) (k : Nat) (b : Barrier) : (setBarrier s k b).agenda = s.agenda := rfl
@[simp] theorem setBarrier_tick (s : State) (k : Nat) (b : Barrier) : (setBarrier s k b).tick = s.tick := rfl
@[simp] theorem setBarrier_clock (s : State) (k : Nat) (b : Barrier) : (setBarrier s k b).clock = s.clock := rfl
@[simp] theorem setBarrier_harts (s : State) (k : Nat) (b : Barrier) : (setBarrier s k b).harts = s.harts := rfl
@[simp] theorem setBarrier_slots (s : State) (k : Nat) (b : Barrier) : (setBarrier s k b).slots = s.slots := rfl
@[simp] theorem setBarrier_mem (s : State) (k : Nat) (b : Barrier) : (setBarrier s k b).mem = s.mem := rfl
@[simp] theorem setBarrier_hostMem (s : State) (k : Nat) (b : Barrier) : (setBarrier s k b).hostMem = s.hostMem := rfl
@[simp] theorem setBarrier_vault (s : State) (k : Nat) (b : Barrier) : (setBarrier s k b).vault = s.vault := rfl
@[simp] theorem setBarrier_regs (s : State) (k : Nat) (b : Barrier) : (setBarrier s k b).regs = s.regs := rfl
@[simp] theorem setBarrier_marks (s : State) (k : Nat) (b : Barrier) : (setBarrier s k b).marks = s.marks := rfl
@[simp] theorem setBarrier_cores (s : State) (k : Nat) (b : Barrier) : (setBarrier s k b).cores = s.cores := rfl
@[simp] theorem setBarrier_dies (s : State) (k : Nat) (b : Barrier) : (setBarrier s k b).dies = s.dies := rfl

/-! setLpart changes cores alone. -/

@[simp] theorem setLpart_cur (s : State) (c : Nat) (v : Word) : (setLpart s c v).cur = s.cur := rfl
@[simp] theorem setLpart_turns (s : State) (c : Nat) (v : Word) : (setLpart s c v).turns = s.turns := rfl
@[simp] theorem setLpart_agenda (s : State) (c : Nat) (v : Word) : (setLpart s c v).agenda = s.agenda := rfl
@[simp] theorem setLpart_tick (s : State) (c : Nat) (v : Word) : (setLpart s c v).tick = s.tick := rfl
@[simp] theorem setLpart_clock (s : State) (c : Nat) (v : Word) : (setLpart s c v).clock = s.clock := rfl
@[simp] theorem setLpart_harts (s : State) (c : Nat) (v : Word) : (setLpart s c v).harts = s.harts := rfl
@[simp] theorem setLpart_slots (s : State) (c : Nat) (v : Word) : (setLpart s c v).slots = s.slots := rfl
@[simp] theorem setLpart_mem (s : State) (c : Nat) (v : Word) : (setLpart s c v).mem = s.mem := rfl
@[simp] theorem setLpart_hostMem (s : State) (c : Nat) (v : Word) : (setLpart s c v).hostMem = s.hostMem := rfl
@[simp] theorem setLpart_vault (s : State) (c : Nat) (v : Word) : (setLpart s c v).vault = s.vault := rfl
@[simp] theorem setLpart_regs (s : State) (c : Nat) (v : Word) : (setLpart s c v).regs = s.regs := rfl
@[simp] theorem setLpart_marks (s : State) (c : Nat) (v : Word) : (setLpart s c v).marks = s.marks := rfl
@[simp] theorem setLpart_dies (s : State) (c : Nat) (v : Word) : (setLpart s c v).dies = s.dies := rfl
@[simp] theorem setLpart_pkg (s : State) (c : Nat) (v : Word) : (setLpart s c v).pkg = s.pkg := rfl

/-! Harts -/

@[simp] theorem hartAt_setHart_same (s : State) (h : Nat) (x : Hart) : (s.setHart h x).hartAt h = x := by
  simp [State.hartAt, State.setHart]

theorem hartAt_setHart_ne (s : State) (h k : Nat) (x : Hart) (e : k ≠ h) : (s.setHart h x).hartAt k = s.hartAt k := by
  simp [State.hartAt, State.setHart, sget_sput_ne, e]

theorem hartAt_setHart (s : State) (h k : Nat) (x : Hart) :
    (s.setHart h x).hartAt k = if k = h then x else s.hartAt k := by
  simp only [State.hartAt, State.setHart, sget_sput]

@[simp] theorem hart_putHart (s : State) (x : Hart) : (s.putHart x).hart = x := hartAt_setHart_same s s.cur x

@[simp] theorem hartAt_cur_putHart (s : State) (x : Hart) : (s.putHart x).hartAt s.cur = x := hartAt_setHart_same s s.cur x

theorem hartAt_putHart_ne (s : State) (k : Nat) (x : Hart) (e : k ≠ s.cur) : (s.putHart x).hartAt k = s.hartAt k :=
  hartAt_setHart_ne s s.cur k x e

@[simp] theorem sput_sput {α : Type} (m : Sparse α) (i : Nat) (v w : α) : sput (sput m i v) i w = sput m i w := by
  induction m with
  | nil => simp [sput]
  | cons p m ih =>
    obtain ⟨k, x⟩ := p
    simp only [sput]
    split
    · rename_i e; subst e; simp [sput]
    · split
      · simp [sput]
      · rename_i h1 h2; simp [sput, h1, h2, ih]

@[simp] theorem putHart_putHart (s : State) (x y : Hart) : (s.putHart x).putHart y = s.putHart y := by
  simp [State.putHart, State.setHart]

@[simp] theorem hart_wS (s : State) (r : SReg) (v : Word) : (s.wS r v).hart = s.hart.wS r v := hart_putHart s _
@[simp] theorem hart_wF (s : State) (r : SReg) (v : Word) : (s.wF r v).hart = s.hart.wF r v := hart_putHart s _
@[simp] theorem hart_adv (s : State) (n : Nat) : (s.adv n).hart = s.hart.adv n := hart_putHart s _
@[simp] theorem hart_setPc (s : State) (v : Word) : (s.setPc v).hart = { s.hart with pc := v } := hart_putHart s _
@[simp] theorem hart_setConf (s : State) (c : VConf) : (s.setConf c).hart = { s.hart with conf := c } := hart_putHart s _
@[simp] theorem hart_setVsi (s : State) (k : Nat) :
    (s.setVsi k).hart = { s.hart with conf := { s.hart.conf with vsi := BitVec.ofNat 13 k } } := hart_putHart s _
@[simp] theorem hart_setMbit (s : State) (k e : Nat) (b : Bool) :
    (s.setMbit k e b).hart = s.hart.wM k (if b then s.hart.rM k ||| BitVec.ofNat 1024 (pow2 e)
      else s.hart.rM k &&& ~~~ BitVec.ofNat 1024 (pow2 e)) := hart_putHart s _

/-! endBegun changes harts alone. -/

@[simp] theorem endBegun_cur (s : State) : (endBegun s).cur = s.cur := rfl
@[simp] theorem endBegun_turns (s : State) : (endBegun s).turns = s.turns := rfl
@[simp] theorem endBegun_agenda (s : State) : (endBegun s).agenda = s.agenda := rfl
@[simp] theorem endBegun_tick (s : State) : (endBegun s).tick = s.tick := rfl
@[simp] theorem endBegun_clock (s : State) : (endBegun s).clock = s.clock := rfl
@[simp] theorem endBegun_slots (s : State) : (endBegun s).slots = s.slots := rfl
@[simp] theorem endBegun_mem (s : State) : (endBegun s).mem = s.mem := rfl
@[simp] theorem endBegun_hostMem (s : State) : (endBegun s).hostMem = s.hostMem := rfl
@[simp] theorem endBegun_vault (s : State) : (endBegun s).vault = s.vault := rfl
@[simp] theorem endBegun_regs (s : State) : (endBegun s).regs = s.regs := rfl
@[simp] theorem endBegun_marks (s : State) : (endBegun s).marks = s.marks := rfl
@[simp] theorem endBegun_cores (s : State) : (endBegun s).cores = s.cores := rfl
@[simp] theorem endBegun_dies (s : State) : (endBegun s).dies = s.dies := rfl
@[simp] theorem endBegun_pkg (s : State) : (endBegun s).pkg = s.pkg := rfl

/-! endExchange changes harts alone. -/

@[simp] theorem endExchange_cur (s : State) : (endExchange s).cur = s.cur := rfl
@[simp] theorem endExchange_turns (s : State) : (endExchange s).turns = s.turns := rfl
@[simp] theorem endExchange_agenda (s : State) : (endExchange s).agenda = s.agenda := rfl
@[simp] theorem endExchange_tick (s : State) : (endExchange s).tick = s.tick := rfl
@[simp] theorem endExchange_clock (s : State) : (endExchange s).clock = s.clock := rfl
@[simp] theorem endExchange_slots (s : State) : (endExchange s).slots = s.slots := rfl
@[simp] theorem endExchange_mem (s : State) : (endExchange s).mem = s.mem := rfl
@[simp] theorem endExchange_hostMem (s : State) : (endExchange s).hostMem = s.hostMem := rfl
@[simp] theorem endExchange_vault (s : State) : (endExchange s).vault = s.vault := rfl
@[simp] theorem endExchange_regs (s : State) : (endExchange s).regs = s.regs := rfl
@[simp] theorem endExchange_marks (s : State) : (endExchange s).marks = s.marks := rfl
@[simp] theorem endExchange_cores (s : State) : (endExchange s).cores = s.cores := rfl
@[simp] theorem endExchange_dies (s : State) : (endExchange s).dies = s.dies := rfl
@[simp] theorem endExchange_pkg (s : State) : (endExchange s).pkg = s.pkg := rfl

/-! takeSpare changes dies alone. -/

@[simp] theorem takeSpare_cur (s : State) (u : SparableUnit) : (takeSpare s u).cur = s.cur := rfl
@[simp] theorem takeSpare_turns (s : State) (u : SparableUnit) : (takeSpare s u).turns = s.turns := rfl
@[simp] theorem takeSpare_agenda (s : State) (u : SparableUnit) : (takeSpare s u).agenda = s.agenda := rfl
@[simp] theorem takeSpare_tick (s : State) (u : SparableUnit) : (takeSpare s u).tick = s.tick := rfl
@[simp] theorem takeSpare_clock (s : State) (u : SparableUnit) : (takeSpare s u).clock = s.clock := rfl
@[simp] theorem takeSpare_slots (s : State) (u : SparableUnit) : (takeSpare s u).slots = s.slots := rfl
@[simp] theorem takeSpare_harts (s : State) (u : SparableUnit) : (takeSpare s u).harts = s.harts := rfl
@[simp] theorem takeSpare_mem (s : State) (u : SparableUnit) : (takeSpare s u).mem = s.mem := rfl
@[simp] theorem takeSpare_hostMem (s : State) (u : SparableUnit) : (takeSpare s u).hostMem = s.hostMem := rfl
@[simp] theorem takeSpare_vault (s : State) (u : SparableUnit) : (takeSpare s u).vault = s.vault := rfl
@[simp] theorem takeSpare_regs (s : State) (u : SparableUnit) : (takeSpare s u).regs = s.regs := rfl
@[simp] theorem takeSpare_marks (s : State) (u : SparableUnit) : (takeSpare s u).marks = s.marks := rfl
@[simp] theorem takeSpare_cores (s : State) (u : SparableUnit) : (takeSpare s u).cores = s.cores := rfl
@[simp] theorem takeSpare_pkg (s : State) (u : SparableUnit) : (takeSpare s u).pkg = s.pkg := rfl

/-! endSparing changes dies alone. -/

@[simp] theorem endSparing_cur (s : State) (u : SparableUnit) : (endSparing s u).cur = s.cur := rfl
@[simp] theorem endSparing_turns (s : State) (u : SparableUnit) : (endSparing s u).turns = s.turns := rfl
@[simp] theorem endSparing_agenda (s : State) (u : SparableUnit) : (endSparing s u).agenda = s.agenda := rfl
@[simp] theorem endSparing_tick (s : State) (u : SparableUnit) : (endSparing s u).tick = s.tick := rfl
@[simp] theorem endSparing_clock (s : State) (u : SparableUnit) : (endSparing s u).clock = s.clock := rfl
@[simp] theorem endSparing_slots (s : State) (u : SparableUnit) : (endSparing s u).slots = s.slots := rfl
@[simp] theorem endSparing_harts (s : State) (u : SparableUnit) : (endSparing s u).harts = s.harts := rfl
@[simp] theorem endSparing_mem (s : State) (u : SparableUnit) : (endSparing s u).mem = s.mem := rfl
@[simp] theorem endSparing_hostMem (s : State) (u : SparableUnit) : (endSparing s u).hostMem = s.hostMem := rfl
@[simp] theorem endSparing_vault (s : State) (u : SparableUnit) : (endSparing s u).vault = s.vault := rfl
@[simp] theorem endSparing_regs (s : State) (u : SparableUnit) : (endSparing s u).regs = s.regs := rfl
@[simp] theorem endSparing_marks (s : State) (u : SparableUnit) : (endSparing s u).marks = s.marks := rfl
@[simp] theorem endSparing_cores (s : State) (u : SparableUnit) : (endSparing s u).cores = s.cores := rfl
@[simp] theorem endSparing_pkg (s : State) (u : SparableUnit) : (endSparing s u).pkg = s.pkg := rfl

/-! dropWriter changes pkg alone. -/

@[simp] theorem dropWriter_cur (s : State) : (dropWriter s).cur = s.cur := rfl
@[simp] theorem dropWriter_turns (s : State) : (dropWriter s).turns = s.turns := rfl
@[simp] theorem dropWriter_agenda (s : State) : (dropWriter s).agenda = s.agenda := rfl
@[simp] theorem dropWriter_tick (s : State) : (dropWriter s).tick = s.tick := rfl
@[simp] theorem dropWriter_clock (s : State) : (dropWriter s).clock = s.clock := rfl
@[simp] theorem dropWriter_slots (s : State) : (dropWriter s).slots = s.slots := rfl
@[simp] theorem dropWriter_harts (s : State) : (dropWriter s).harts = s.harts := rfl
@[simp] theorem dropWriter_mem (s : State) : (dropWriter s).mem = s.mem := rfl
@[simp] theorem dropWriter_hostMem (s : State) : (dropWriter s).hostMem = s.hostMem := rfl
@[simp] theorem dropWriter_vault (s : State) : (dropWriter s).vault = s.vault := rfl
@[simp] theorem dropWriter_regs (s : State) : (dropWriter s).regs = s.regs := rfl
@[simp] theorem dropWriter_marks (s : State) : (dropWriter s).marks = s.marks := rfl
@[simp] theorem dropWriter_cores (s : State) : (dropWriter s).cores = s.cores := rfl
@[simp] theorem dropWriter_dies (s : State) : (dropWriter s).dies = s.dies := rfl

/-! Both end what a stalled execution or a packet left, and nothing else of the hart. -/

@[simp] theorem hart_endBegun (s : State) : (endBegun s).hart = { s.hart with begun := none, kept := 0 } := hart_putHart s _
@[simp] theorem hart_endExchange (s : State) : (endExchange s).hart = { s.hart with exch := none } := hart_putHart s _

/-! Registers -/

/-- `s0` reads zero (R18). -/
@[simp] theorem Hart.rS_zero (x : Hart) : x.rS 0 = 0 := rfl

/-- Reading a scalar register after a write: `s0` keeps reading zero. -/
theorem Hart.rS_wS (x : Hart) (r q : SReg) (v : Word) : (x.wS r v).rS q = if q = r ∧ ¬ r = 0 then v else x.rS q := by
  unfold Hart.wS Hart.rS
  by_cases hr : r = 0
  · simp [hr]
  · by_cases hq : q = 0
    · subst hq; simp only [if_true]; rw [if_neg (fun h => hr h.1.symm)]
    · simp only [hr, hq, if_false, sget_sset, not_false_eq_true, and_true]
      by_cases e : q = r
      · simp [e]
      · have : ¬ q.toNat = r.toNat := fun h => e (BitVec.eq_of_toNat_eq h)
        simp [e, this]

theorem Hart.rF_wF (x : Hart) (r q : SReg) (v : Word) : (x.wF r v).rF q = if q = r then v else x.rF q := by
  unfold Hart.wF Hart.rF
  simp only [sget_sset]
  by_cases e : q = r
  · simp [e]
  · have : ¬ q.toNat = r.toNat := fun h => e (BitVec.eq_of_toNat_eq h)
    simp [e, this]

theorem Hart.rM_wM (x : Hart) (k j : Nat) (v : BitVec 1024) : (x.wM k v).rM j = if j = k then v else x.rM j := by
  simp [Hart.wM, Hart.rM, sget_sset]

@[simp] theorem Hart.rS_wF (x : Hart) (r q : SReg) (v : Word) : (x.wF r v).rS q = x.rS q := rfl
@[simp] theorem Hart.rF_wS (x : Hart) (r q : SReg) (v : Word) : (x.wS r v).rF q = x.rF q := by
  unfold Hart.wS; split <;> rfl
@[simp] theorem Hart.rM_wS (x : Hart) (r : SReg) (k : Nat) (v : Word) : (x.wS r v).rM k = x.rM k := by
  unfold Hart.wS; split <;> rfl
@[simp] theorem Hart.rM_wF (x : Hart) (r : SReg) (k : Nat) (v : Word) : (x.wF r v).rM k = x.rM k := rfl
@[simp] theorem Hart.rS_adv (x : Hart) (n : Nat) (q : SReg) : (x.adv n).rS q = x.rS q := rfl
@[simp] theorem Hart.rF_adv (x : Hart) (n : Nat) (q : SReg) : (x.adv n).rF q = x.rF q := rfl
@[simp] theorem Hart.rM_adv (x : Hart) (n k : Nat) : (x.adv n).rM k = x.rM k := rfl
@[simp] theorem Hart.pc_adv (x : Hart) (n : Nat) : (x.adv n).pc = x.pc + wordOf n := rfl

/-- A write of a scalar register changes `sregs` alone. -/
theorem Hart.wS_eq (x : Hart) (r : SReg) (v : Word) : x.wS r v = { x with sregs := (x.wS r v).sregs } := by
  unfold Hart.wS; split <;> rfl

@[simp] theorem rS_wS (s : State) (r q : SReg) (v : Word) :
    (s.wS r v).rS q = if q = r ∧ ¬ r = 0 then v else s.rS q := by
  simp only [State.rS, hart_wS, Hart.rS_wS]
@[simp] theorem rF_wS (s : State) (r q : SReg) (v : Word) : (s.wS r v).rF q = s.rF q := by simp [State.rF]
@[simp] theorem rS_wF (s : State) (r q : SReg) (v : Word) : (s.wF r v).rS q = s.rS q := by simp [State.rS]
@[simp] theorem rF_wF (s : State) (r q : SReg) (v : Word) : (s.wF r v).rF q = if q = r then v else s.rF q := by
  simp only [State.rF, hart_wF, Hart.rF_wF]
@[simp] theorem rS_adv (s : State) (n : Nat) (q : SReg) : (s.adv n).rS q = s.rS q := by simp [State.rS]
@[simp] theorem rF_adv (s : State) (n : Nat) (q : SReg) : (s.adv n).rF q = s.rF q := by simp [State.rF]

end Sys2Proof.Machine
end

