-- ==== Sys2Proof/Laws/Effects.lean ====
section
/-! SUPPORT. Laws of computations that may stop: how they chain, and when each check passes or raises its cause. -/

namespace Sys2Proof.Machine

open Host (Outcome)

@[simp] theorem ok_bind {α β : Type} (a : α) (f : α → Eff β) : ((Except.ok a : Eff α) >>= f) = f a := rfl
@[simp] theorem error_bind {α β : Type} (e : Stop) (f : α → Eff β) : ((Except.error e : Eff α) >>= f) = .error e := rfl
@[simp] theorem need_true (s : State) (t : TrapInfo) : need true s t = .ok () := rfl
@[simp] theorem need_false (s : State) (t : TrapInfo) : need false s t = .error (.trap s t) := rfl
@[simp] theorem raise_eq {α : Type} (s : State) (t : TrapInfo) : (raise s t : Eff α) = .error (.trap s t) := rfl
@[simp] theorem waitFor_eq {α : Type} (s : State) (h : Hold) : (waitFor s h : Eff α) = .error (.wait s h) := rfl
@[simp] theorem done_eq (s : State) (n : Nat) : done s n = .ok (s.adv n) := rfl
@[simp] theorem finish_ok (s : State) : finish (.ok s) = .next s := rfl
@[simp] theorem finish_trap (s : State) (t : TrapInfo) : finish (.error (.trap s t)) = .next (takeTrap s t) := rfl
@[simp] theorem finish_wait (s : State) (h : Hold) :
    finish (.error (.wait s h)) = .next (s.putHart { s.hart with hold := h }) := rfl

/-- A computation on the current hart always answers a next state. -/
theorem finish_next (r : Eff State) : ∃ t, finish r = .next t := by
  cases r with
  | ok s => exact ⟨s, rfl⟩
  | error e => cases e <;> exact ⟨_, rfl⟩

/-- A computation that completes did so through both parts. -/
theorem bind_eq_ok {α β : Type} {x : Eff α} {f : α → Eff β} {b : β} (h : (x >>= f) = .ok b) :
    ∃ a, x = .ok a ∧ f a = .ok b := by
  cases x with
  | ok a => exact ⟨a, rfl, h⟩
  | error e => cases h

theorem computeOnly_ok {s : State} (i : Instr) (h : isCommand s.cur = false) : computeOnly s i = .ok () := by
  simp [computeOnly, h]

theorem computeOnly_trap {s : State} (i : Instr) (h : isCommand s.cur = true) :
    computeOnly s i = .error (.trap s (tIllegal (instrBits i))) := by
  simp [computeOnly, h]

theorem commandOnly_ok {s : State} (i : Instr) (h : isCommand s.cur = true) : commandOnly s i = .ok () := by
  simp [commandOnly, h]

theorem commandOnly_trap {s : State} (i : Instr) (h : isCommand s.cur = false) :
    commandOnly s i = .error (.trap s (tIllegal (instrBits i))) := by
  simp [commandOnly, h]

theorem needS_ok {s : State} (i : Instr) (h : ¬ s.hart.level = .u) : needS s i = .ok () := by simp [needS, h]

theorem needS_trap {s : State} (i : Instr) (h : s.hart.level = .u) :
    needS s i = .error (.trap s (tPriv (instrBits i))) := by simp [needS, h]

theorem aligned_ok {s : State} {va : Word} {n : Nat} (h : va.toNat % n = 0) : aligned s va n = .ok () := by
  simp [aligned, h]

theorem aligned_trap {s : State} {va : Word} {n : Nat} (h : ¬ va.toNat % n = 0) :
    aligned s va n = .error (.trap s (tMisalign va)) := by simp [aligned, h]

/-- A register write leaves the pc, the scalar registers and every other hart. -/
theorem csrWrite_frame (s : State) (n : Nat) (v : Word) :
    (csrWrite s n v).hart.pc = s.hart.pc ∧ (csrWrite s n v).hart.sregs = s.hart.sregs ∧ (csrWrite s n v).cur = s.cur := by
  unfold csrWrite
  split <;> simp [setLpart, State.hart, State.hartAt, State.putHart, State.setHart, State.setConf, Hart.clampVl,
    writeHstat]
  split <;> simp

end Sys2Proof.Machine
end

