-- ==== Sys2Proof/Laws/ErrorLog.lean ====
section
/-! SUPPORT. What logging an error leaves alone: every hart, all memory, its marks, and the cores but for the
sources that their harts are notified of. -/

namespace Sys2Proof.Machine

/-- What an entry of the error log leaves alone. -/
def KeepsData (s t : State) : Prop :=
  t.cur = s.cur ∧ t.turns = s.turns ∧ t.tick = s.tick ∧ t.clock = s.clock ∧ t.harts = s.harts ∧ t.slots = s.slots
    ∧ t.mem = s.mem ∧ t.hostMem = s.hostMem ∧ t.vault = s.vault ∧ t.marks = s.marks
    ∧ { t.cores with extQ := s.cores.extQ, extWait := s.cores.extWait } = s.cores

theorem KeepsData.refl (s : State) : KeepsData s s := by simp [KeepsData]

theorem KeepsData.trans {s t u : State} (h : KeepsData s t) (k : KeepsData t u) : KeepsData s u := by
  obtain ⟨h1, h2, h3, h4, h5, h6, h7, h8, h9, h10, h11⟩ := h
  obtain ⟨k1, k2, k3, k4, k5, k6, k7, k8, k9, k10, k11⟩ := k
  refine ⟨k1.trans h1, k2.trans h2, k3.trans h3, k4.trans h4, k5.trans h5, k6.trans h6, k7.trans h7, k8.trans h8,
    k9.trans h9, k10.trans h10, ?_⟩
  rw [← h11, ← k11]

theorem keepsData_setReg (s : State) (pa : Nat) (v : Word) : KeepsData s (setReg s pa v) := by simp [KeepsData]

theorem keepsData_setRegs {α : Type} (f : α → Nat) (g : α → Word) (l : List α) :
    ∀ s : State, KeepsData s (l.foldl (fun s p => setReg s (f p) (g p)) s) := by
  induction l with
  | nil => exact KeepsData.refl
  | cons a l ih => exact fun s => (keepsData_setReg s _ _).trans (ih _)

theorem keepsData_extPush (s : State) (h src : Nat) : KeepsData s (extPush s h src) := by
  by_cases q : (extQueue s h).length < 16 <;> simp [extPush, q, KeepsData]

theorem keepsData_errNotify (s : State) (d src : Nat) : KeepsData s (errNotify s d src) := by
  unfold errNotify
  dsimp only
  split
  · exact keepsData_extPush _ _ _
  · exact KeepsData.refl s

theorem keepsData_writeLog (s : State) (d : Nat) (r : ErrRecord) : KeepsData s (writeLog s d r).1 := by
  unfold writeLog
  dsimp only
  have h := fun v => (keepsData_setRegs (fun p : Nat × Nat => logPa d (bits (rawReg s (diePa d 0x310)) 7 0) + 8 * p.1)
    (fun p => wordOf p.2) (enumList (recordWords s d r)) s).trans (keepsData_setReg _ (diePa d 0x310) v)
  split
  · exact h _
  · exact (h _).trans (keepsData_errNotify _ _ _)

theorem keepsData_startSparing (s : State) (u : SparableUnit) : KeepsData s (startSparing s u) := by
  unfold startSparing
  split <;> simp [KeepsData]

theorem keepsData_countError (s : State) (d : Nat) (k : ErrUnit) (u : Nat) : KeepsData s (countError s d k u).1 := by
  simp [countError, KeepsData]

/-- An error that is logged changes registers, the tracked units, pending sparing and queues of notifications alone. -/
theorem keepsData_logError (s : State) (e : ErrorReport) (soft marked : Bool) : KeepsData s (logError s e soft marked).1 := by
  have h := fun r => (keepsData_countError s e.die (errUnitKey e).1 (errUnitKey e).2).trans (keepsData_writeLog _ e.die r)
  unfold logError
  dsimp only
  generalize (if (countError s e.die (errUnitKey e).1 (errUnitKey e).2).2.2 = true then unitOf e else none) = o
  cases o with
  | none => exact h _
  | some u => exact (h _).trans (keepsData_startSparing _ _)

end Sys2Proof.Machine
end

