-- ==== Sys2Proof/Laws/Frames.lean ====
section
/-! SUPPORT. What the shared operations on a hart leave alone: bytes of memory, other harts, and the rest of the state. -/

namespace Sys2Proof.Machine

open Host (Outcome)

/-- What a register reads as depends on the harts by their run states alone (CHCTL, R396). -/
theorem regRead_congr {s t : State} (w : { t with harts := s.harts } = s) (h : ∀ k, (t.hartAt k).run = (s.hartAt k).run)
    (pa : Nat) : regRead t pa = regRead s pa := by
  have e : s = { t with harts := s.harts } := w.symm
  unfold regRead
  have hr : ∀ p, rawReg t p = rawReg s p := fun p => by rw [e]; rfl
  have hx : ∀ k, extQueue t k = extQueue s k := fun k => by rw [e]; rfl
  have hp : ∀ d k, pipeAt t d k = pipeAt s d k := fun d k => by rw [e]; rfl
  have hq : ∀ i k, queueAt t i k = queueAt s i k := fun i k => by rw [e]; rfl
  have hm : ∀ k, msixWord t k = msixWord s k := fun k => by rw [e]; rfl
  simp only [hr, hx, hp, hq, hm, h]

theorem viewOf_congr {s t : State} (w : { t with harts := s.harts } = s) (pa : Nat) : viewOf t pa = viewOf s pa := by
  rw [← w]; rfl

/-- Which hart holds a cluster depends on the grants alone. -/
theorem holderOf_congr {s t : State} (g : ∀ k, (t.hartAt k).grant = (s.hartAt k).grant) (c p : Nat) :
    holderOf t c p = holderOf s c p := by
  unfold holderOf; simp only [g]

/-- The bytes that memory shows depend on the harts by their run states and grants alone. -/
theorem peekByte_congr {s t : State} (w : { t with harts := s.harts } = s) (h : ∀ k, (t.hartAt k).run = (s.hartAt k).run)
    (g : ∀ k, (t.hartAt k).grant = (s.hartAt k).grant) (pa : Nat) : peekByte t pa = peekByte s pa := by
  have e : s = { t with harts := s.harts } := w.symm
  unfold peekByte
  have h1 : ∀ p, memByte t p = memByte s p := fun p => by rw [e]; rfl
  have h2 : ∀ c o, vaultByte t c o = vaultByte s c o := fun c o => by rw [e]; rfl
  have h3 : ∀ c r j, cell t c r j = cell s c r j := fun c r j => by rw [e]; rfl
  have h4 : ∀ i o, hostByte t (hostAddr t i o) = hostByte s (hostAddr s i o) := fun i o => by rw [e]; rfl
  have h5 : ∀ a o, viewByte t a o = viewByte s a o := fun a o => by rw [e]; rfl
  simp only [h1, h2, h3, h4, h5, holderOf_congr g, viewOf_congr w, regRead_congr w h]

/-- Replacing the current hart by one in the same run state, with the same grant, changes that hart alone. -/
theorem onlyHart_putHart (s : State) (x : Hart) (h : x.run = s.hart.run) (g : x.grant = s.hart.grant) :
    OnlyHart s (s.putHart x) := by
  have w : { s.putHart x with harts := s.harts } = s := rfl
  have same : ∀ {α : Type} (f : Hart → α), f x = f s.hart → ∀ k, f ((s.putHart x).hartAt k) = f (s.hartAt k) := by
    intro α f e k
    by_cases c : k = s.cur
    · subst c; rw [hartAt_cur_putHart]; exact e
    · rw [hartAt_putHart_ne s k x c]
  exact ⟨w, fun k e => hartAt_putHart_ne s k x e, peekByte_congr w (same Hart.run h) (same Hart.grant g)⟩

/-- A register-only instruction writes `rd`, advances the pc, and leaves the rest. -/
theorem putS_eq (s : State) (rd : SReg) (v : Word) : putS s rd v = .next (s.putHart ((s.hart.wS rd v).adv 4)) := by
  simp [putS, State.adv, State.wS]

theorem puts_of_putS {i : Instr} {s : State} {rd : SReg} {v : Word} (h : exec i s = putS s rd v) : Puts i s rd v := by
  rw [putS_eq] at h
  refine ⟨_, h, ?_, ?_, onlyHart_putHart _ _ ?_ ?_, ?_⟩
  · rw [hart_putHart, Hart.pc_adv, Hart.wS_eq]; rfl
  · intro r
    simp only [State.rS, hart_putHart, Hart.rS_adv, Hart.rS_wS]
    by_cases e : r = rd
    · subst e; rfl
    · simp [e]
  · rw [Hart.wS_eq]; rfl
  · rw [Hart.wS_eq]; rfl
  · rw [hart_putHart, Hart.wS_eq]; rfl

/-- Moving the pc alone. -/
theorem jumps_of_setPc {i : Instr} {s : State} {pc : Word} (h : exec i s = .next (s.setPc pc)) : Jumps i s pc :=
  ⟨_, h, hart_setPc s pc, onlyHart_putHart _ _ rfl rfl⟩

/-- An instruction that completes by writing `rd` and advancing the pc. -/
theorem completes_of {i : Instr} {s u : State} {rd : SReg} {v : Word} (h : exec i s = .next ((u.wS rd v).adv 4))
    (p : u.hart.pc = s.hart.pc) : Completes i s u rd v := by
  have e : (u.wS rd v).adv 4 = u.putHart ((u.hart.wS rd v).adv 4) := by simp [State.adv, State.wS]
  rw [e] at h
  refine ⟨_, h, ?_, ?_, onlyHart_putHart _ _ ?_ ?_, ?_⟩
  · rw [hart_putHart, Hart.pc_adv, Hart.wS_eq, ← p]; rfl
  · intro r
    simp only [State.rS, hart_putHart, Hart.rS_adv, Hart.rS_wS]
    by_cases e : r = rd
    · subst e; rfl
    · simp [e]
  · rw [Hart.wS_eq]; rfl
  · rw [Hart.wS_eq]; rfl
  · rw [hart_putHart, Hart.wS_eq]; rfl

/-- An instruction that completes by advancing the pc. -/
theorem advances_of {i : Instr} {s u : State} (h : exec i s = .next (u.adv 4)) (p : u.hart.pc = s.hart.pc) :
    Advances i s u :=
  ⟨_, h, by rw [← p, hart_adv]; rfl, onlyHart_putHart _ _ rfl rfl⟩

/-- An instruction that waits. -/
theorem waitsAt_of {i : Instr} {s u : State} {w : Hold} (h : exec i s = .next (u.putHart { u.hart with hold := w })) :
    WaitsAt i s u w :=
  ⟨_, h, hart_putHart _ _, onlyHart_putHart _ _ rfl rfl⟩

theorem adv_eq_setPc (s : State) (n : Nat) : s.adv n = s.setPc (s.hart.pc + wordOf n) := rfl

end Sys2Proof.Machine
end

