-- ==== Sys2Proof/Laws/Word.lean ====
section
/-! SUPPORT. What proofs use of the word helpers. -/

namespace Sys2Proof

/-- `pow2` is the power that proofs compute with. -/
theorem pow2_eq (k : Nat) : pow2 k = 2 ^ k := rfl

theorem pow2_pos (k : Nat) : 0 < pow2 k := Nat.pow_pos (by decide)

end Sys2Proof
end

