-- ==== Sys2Proof/Laws/Memory.lean ====
section
/-! SUPPORT. What the memory operations do: the bytes they read and write, and the canonical form they keep. -/

namespace Sys2Proof.Machine

/-! The canonical form -/

/-- `t`'s memories are in canonical form if `s`'s are, and turns go where they went. -/
structure Keeps (s t : State) : Prop where
  mem : Memory.wf s.mem = true → Memory.wf t.mem = true
  hostMem : Memory.wf s.hostMem = true → Memory.wf t.hostMem = true
  vault : Memory.wf s.vault = true → Memory.wf t.vault = true
  cur : t.cur = s.cur
  turns : t.turns = s.turns

theorem Keeps.refl (s : State) : Keeps s s := ⟨id, id, id, rfl, rfl⟩

theorem Keeps.trans {s t u : State} (a : Keeps s t) (b : Keeps t u) : Keeps s u :=
  ⟨b.mem ∘ a.mem, b.hostMem ∘ a.hostMem, b.vault ∘ a.vault, b.cur.trans a.cur, b.turns.trans a.turns⟩

/-- A state that has the same memories and schedule. -/
theorem Keeps.of_eq {s t : State} (m : t.mem = s.mem) (h : t.hostMem = s.hostMem) (v : t.vault = s.vault)
    (c : t.cur = s.cur) (r : t.turns = s.turns) : Keeps s t :=
  ⟨fun w => m ▸ w, fun w => h ▸ w, fun w => v ▸ w, c, r⟩

/-- The invariant goes along. -/
theorem Keeps.inv {s t : State} (k : Keeps s t) (h : s.Inv) : t.Inv := by
  obtain ⟨m, r⟩ := h
  simp only [State.memoriesWf, Bool.and_eq_true] at m
  refine ⟨?_, ?_⟩
  · simp only [State.memoriesWf, Bool.and_eq_true]
    exact ⟨⟨k.mem m.1.1, k.hostMem m.1.2⟩, k.vault m.2⟩
  · simpa only [State.scheduleWf, k.cur, k.turns] using r

/-- A loop over a list keeps what each of its steps keeps. -/
theorem Keeps.foldl {κ : Type} (f : State → κ → State) (h : ∀ s k, Keeps s (f s k)) (l : List κ) (s : State) :
    Keeps s (l.foldl f s) := by
  induction l generalizing s with
  | nil => exact .refl s
  | cons k l ih => exact (h s k).trans (ih _)

theorem keeps_setMemByte (s : State) (pa : Nat) (b : Byte) : Keeps s (setMemByte s pa b) :=
  ⟨swf_sset _ _ _ _, id, id, rfl, rfl⟩

theorem keeps_setHostByte (s : State) (a : Nat) (b : Byte) : Keeps s (setHostByte s a b) :=
  ⟨id, swf_sset _ _ _ _, id, rfl, rfl⟩

theorem keeps_setVaultByte (s : State) (c o : Nat) (b : Byte) : Keeps s (setVaultByte s c o b) :=
  ⟨id, id, swf_sset _ _ _ _, rfl, rfl⟩

theorem keeps_setLineEmpty (s : State) (c o : Nat) (e : Bool) : Keeps s (setLineEmpty s c o e) := .of_eq rfl rfl rfl rfl rfl
theorem keeps_setMemMark (s : State) (a : Nat) (m : Bool) : Keeps s (setMemMark s a m) := .of_eq rfl rfl rfl rfl rfl
theorem keeps_setHostMark (s : State) (a : Nat) (m : Bool) : Keeps s (setHostMark s a m) := .of_eq rfl rfl rfl rfl rfl
theorem keeps_setVaultMark (s : State) (c o : Nat) (m : Bool) : Keeps s (setVaultMark s c o m) := .of_eq rfl rfl rfl rfl rfl
theorem keeps_setCell (s : State) (c r k : Nat) (v : Word) : Keeps s (setCell s c r k v) := .of_eq rfl rfl rfl rfl rfl
theorem keeps_setCellMark (s : State) (c r k : Nat) (m : Bool) : Keeps s (setCellMark s c r k m) := .of_eq rfl rfl rfl rfl rfl

theorem keeps_setPackedAt (s : State) (base w x v : Nat) : Keeps s (setPackedAt s base w x v) := by
  unfold setPackedAt
  dsimp only
  split
  · exact keeps_setMemByte _ _ _
  · exact (keeps_setMemByte _ _ _).trans (keeps_setMemByte _ _ _)

theorem keeps_setViewByte (s : State) (a : Aperture) (o : Nat) (b : Byte) : Keeps s (setViewByte s a o b) := by
  unfold setViewByte
  split
  · exact keeps_setPackedAt _ _ _ _ _
  · exact keeps_setMemByte _ _ _

theorem keeps_pokeCell (s : State) (c r j k : Nat) (b : Byte) : Keeps s (pokeCell s c r j k b) := by
  unfold pokeCell
  split
  · exact .refl s
  · exact .of_eq rfl rfl rfl rfl rfl

theorem keeps_pokeByte (s : State) (pa : Nat) (b : Byte) : Keeps s (pokeByte s pa b) := by
  unfold pokeByte
  split
  · exact keeps_setMemByte _ _ _
  · exact (keeps_setVaultByte _ _ _ _).trans (keeps_setLineEmpty _ _ _ _)
  · exact keeps_pokeCell _ _ _ _ _ _
  · exact keeps_setHostByte _ _ _
  · split
    · exact keeps_setViewByte _ _ _ _
    · exact .refl s
  · exact .refl s

theorem keeps_pokeBytes (s : State) (pa : Nat) (l : List Byte) : Keeps s (pokeBytes s pa l) := by
  induction l generalizing s pa with
  | nil => exact .refl s
  | cons b l ih => exact (keeps_pokeByte s pa b).trans (ih _ _)

theorem keeps_poke (s : State) (pa n v : Nat) : Keeps s (poke s pa n v) := keeps_pokeBytes _ _ _

theorem keeps_setMarkAt (s : State) (pa : Nat) (m : Bool) : Keeps s (setMarkAt s pa m) := by
  unfold setMarkAt
  split
  · exact keeps_setMemMark _ _ _
  · exact keeps_setVaultMark _ _ _ _
  · exact keeps_setCellMark _ _ _ _ _
  · exact keeps_setHostMark _ _ _
  · split
    · exact Keeps.foldl _ (fun t b => keeps_setMemMark t b m) _ _
    · exact .refl s
  · exact .refl s

/-! Bytes -/

theorem memByte_setMemByte (s : State) (pa : Nat) (b : Byte) (a : Nat) :
    memByte (setMemByte s pa b) a = if a = pa then b else memByte s a := sget_sset _ _ _ _ _

theorem hostByte_setHostByte (s : State) (pa : Nat) (b : Byte) (a : Nat) :
    hostByte (setHostByte s pa b) a = if a = pa then b else hostByte s a := sget_sset _ _ _ _ _

theorem vaultByte_setVaultByte (s : State) (c o : Nat) (b : Byte) (d p : Nat) :
    vaultByte (setVaultByte s c o b) d p = if vaultKey d p = vaultKey c o then b else vaultByte s d p :=
  sget_sset _ _ _ _ _

theorem vaultKey_eq {c o d p : Nat} (ho : o < 2 ^ 24) (hp : p < 2 ^ 24) : vaultKey d p = vaultKey c o ↔ d = c ∧ p = o := by
  simp only [vaultKey, pow2_eq]
  omega

theorem inHbm_iff (pa n : Nat) : inHbm pa n = true ↔ pa / 2 ^ 37 < 8 ∧ pa + n ≤ 2 ^ 37 * (pa / 2 ^ 37) + 72000000000 := by
  unfold inHbm
  rw [Bool.and_eq_true, decide_eq_true_iff, decide_eq_true_iff]
  rfl

/-- A range of HBM is HBM byte by byte. -/
theorem regionOf_inHbm {pa n : Nat} (h : inHbm pa n = true) (k : Nat) (hk : k < n) :
    regionOf (pa + k) = .hbm (pa / 2 ^ 37) := by
  rw [inHbm_iff] at h
  have e : (pa + k) / 2 ^ 37 = pa / 2 ^ 37 := by omega
  unfold regionOf
  have p : plazaBase = 4222124650659840 := rfl
  have b : hbmBytes = 72000000000 := rfl
  have q : pow2 37 = 137438953472 := rfl
  rw [p, b, q, if_pos (by omega), if_pos (by omega)]
  exact congrArg Region.hbm e

theorem pokeByte_hbm (s : State) {pa n : Nat} (h : inHbm pa n = true) (hn : 0 < n) (b : Byte) :
    pokeByte s pa b = setMemByte s pa b := by
  have r := regionOf_inHbm h 0 hn
  simp only [Nat.add_zero] at r
  unfold pokeByte
  rw [r]

theorem inHbm_tail {pa n : Nat} (h : inHbm pa (n + 1) = true) (hn : 0 < n) : inHbm (pa + 1) n = true := by
  rw [inHbm_iff] at h ⊢
  omega

/-- Bytes written to HBM stand there, and every other byte is as before. -/
theorem memByte_pokeBytes (s : State) (pa : Nat) (l : List Byte) (h : inHbm pa l.length = true) (a : Nat) :
    memByte (pokeBytes s pa l) a = if pa ≤ a ∧ a < pa + l.length then l.getD (a - pa) 0 else memByte s a := by
  induction l generalizing s pa with
  | nil => simp [pokeBytes]
  | cons b l ih =>
    rw [pokeBytes, pokeByte_hbm s h (by simp)]
    cases l with
    | nil =>
      simp only [pokeBytes, memByte_setMemByte, List.length_cons, List.length_nil]
      by_cases e : a = pa
      · subst e; simp
      · rw [if_neg e, if_neg (by omega)]
    | cons c l =>
      rw [ih _ _ (inHbm_tail h (by simp)), memByte_setMemByte]
      simp only [List.length_cons]
      by_cases e : a = pa
      · subst e; rw [if_neg (by omega), if_pos rfl, if_pos (by omega)]; simp
      · by_cases g : pa + 1 ≤ a ∧ a < pa + 1 + (l.length + 1)
        · rw [if_pos g, if_pos (by omega)]
          obtain ⟨k, rfl⟩ : ∃ k, a = pa + 1 + k := ⟨a - (pa + 1), by omega⟩
          have e1 : pa + 1 + k - (pa + 1) = k := by omega
          have e2 : pa + 1 + k - pa = k + 1 := by omega
          rw [e1, e2, List.getD_cons_succ]
        · rw [if_neg g, if_neg e, if_neg (by omega)]

/-- Bytes written to HBM change `mem` alone. -/
theorem pokeBytes_hbm_world (s : State) (pa : Nat) (l : List Byte) (h : inHbm pa l.length = true) :
    { pokeBytes s pa l with mem := s.mem } = s := by
  induction l generalizing s pa with
  | nil => rfl
  | cons b l ih =>
    rw [pokeBytes, pokeByte_hbm s h (by simp)]
    cases l with
    | nil => rfl
    | cons c l =>
      have w := ih (setMemByte s pa b) (pa + 1) (inHbm_tail h (by simp))
      exact congrArg (fun t : State => { t with mem := s.mem }) w

/-! Numbers and their bytes -/

theorem length_bytesOfNat (n v : Nat) : (bytesOfNat n v).length = n := by
  induction n generalizing v with
  | zero => rfl
  | succ n ih => simp [bytesOfNat, ih]

theorem getD_bytesOfNat (n v k : Nat) (h : k < n) : (bytesOfNat n v).getD k 0 = BitVec.ofNat 8 (v / 2 ^ (8 * k)) := by
  induction n generalizing v k with
  | zero => omega
  | succ n ih =>
    cases k with
    | zero => simp [bytesOfNat]
    | succ k =>
      rw [bytesOfNat, List.getD_cons_succ, ih _ _ (by omega), Nat.div_div_eq_div_mul]
      congr 2
      rw [show 8 * (k + 1) = 8 + 8 * k by omega, Nat.pow_add]

theorem gather_lt (f : Nat → Byte) (k n : Nat) : gather f k n < 2 ^ (8 * n) := by
  induction n generalizing k with
  | zero => simp [gather]
  | succ n ih =>
    have := ih (k + 1)
    have := (f k).isLt
    rw [gather, show 8 * (n + 1) = 8 + 8 * n by omega, Nat.pow_add]
    omega

/-- Byte `j` of gathered bytes. -/
theorem gather_byte (f : Nat → Byte) (k n j : Nat) (h : j < n) : BitVec.ofNat 8 (gather f k n / 2 ^ (8 * j)) = f (k + j) := by
  induction n generalizing k j with
  | zero => omega
  | succ n ih =>
    have b := (f k).isLt
    cases j with
    | zero =>
      apply BitVec.eq_of_toNat_eq
      simp only [gather, Nat.mul_zero, Nat.pow_zero, Nat.div_one, BitVec.toNat_ofNat, Nat.add_zero]
      omega
    | succ j =>
      rw [gather, show 8 * (j + 1) = 8 + 8 * j by omega, Nat.pow_add, ← Nat.div_div_eq_div_mul,
        show ((f k).toNat + 256 * gather f (k + 1) n) / 2 ^ 8 = gather f (k + 1) n by omega, ih _ _ (by omega)]
      congr 1
      omega

end Sys2Proof.Machine
end

