-- ==== Sys2Proof/Laws/PerInstr.lean ====
section
/-! SUPPORT. Statements about every instruction as syntax, one lemma per constructor. -/

namespace Sys2Proof.Laws

open Sys2Proof

/-- Every parcel that an instruction is encoded in is a 32-bit word (R76). -/
def Parcels.Statement (i : Instr) : Prop := ∀ ps, encode i = some ps → ∀ p ∈ ps, p < 2 ^ 32

/-! What the lemmas rest on -/

theorem fmtA_fits (m : Nat) (rd ra rb : SReg) (f : Nat) (hm : m < 64) (hf : f < 2048) : fmtA m rd ra rb f < 2 ^ 32 := by
  have := rd.isLt
  have := ra.isLt
  have := rb.isLt
  simp only [fmtA, pow2_eq]
  omega

theorem fmtI_fits (m : Nat) (rd ra : SReg) (imm : Nat) (hm : m < 64) (hi : imm < 65536) : fmtI m rd ra imm < 2 ^ 32 := by
  have := rd.isLt
  have := ra.isLt
  simp only [fmtI, pow2_eq]
  omega

theorem rmsCode_lt (r : Option RMode) : rmsCode r < 8 := by
  cases r with
  | none => decide
  | some r => cases r <;> decide

theorem ffmtCode_lt (f : FFmt) : ffmtCode f < 4 := by cases f <;> decide
theorem scopeCode_lt (s : Scope) : scopeCode s < 5 := by cases s <;> decide
theorem ordCode_lt (o : AccOrd) : ordCode o < 4 := by cases o <;> decide
theorem amoCode_lt (o : AmoOp) : amoCode o < 9 := by cases o <;> decide
theorem condCode_lt (c : WaitCond) : condCode c < 6 := by cases c <;> decide
theorem cvtCode_lt (t : CvtTy) : cvtCode t < 32 := by cases t <;> decide

/-- A one-parcel instruction. -/
theorem parcels_one {i : Instr} {w : Nat} (h : encode i = some [w]) (hw : w < 2 ^ 32) : Parcels.Statement i := by
  intro ps e p m
  simp only [h, Option.some.injEq] at e
  subst e
  simp only [List.mem_singleton] at m
  exact m ▸ hw

theorem wordParcels_fit (w p : Nat) (m : p ∈ wordParcels w) : p < 2 ^ 32 := by
  simp only [wordParcels, pow2_eq, List.mem_cons, List.not_mem_nil, or_false] at m
  omega

/-- A two-parcel instruction. -/
theorem parcels_two {i : Instr} {w : Nat} (h : encode i = some (wordParcels w)) : Parcels.Statement i := by
  intro ps e p m
  simp only [h, Option.some.injEq] at e
  subst e
  exact wordParcels_fit w p m

/-- An event, which no bits encode. -/
theorem parcels_event {i : Instr} (h : encode i = none) : Parcels.Statement i := by
  intro ps e
  simp only [h] at e
  contradiction

/-! The lemmas -/

theorem Parcels.add (rd ra rb : SReg) : Parcels.Statement (.add rd ra rb) :=
  parcels_one rfl (fmtA_fits _ _ _ _ _ (by decide) (by decide))
theorem Parcels.sub (rd ra rb : SReg) : Parcels.Statement (.sub rd ra rb) :=
  parcels_one rfl (fmtA_fits _ _ _ _ _ (by decide) (by decide))
theorem Parcels.and (rd ra rb : SReg) : Parcels.Statement (.and rd ra rb) :=
  parcels_one rfl (fmtA_fits _ _ _ _ _ (by decide) (by decide))
theorem Parcels.or (rd ra rb : SReg) : Parcels.Statement (.or rd ra rb) :=
  parcels_one rfl (fmtA_fits _ _ _ _ _ (by decide) (by decide))
theorem Parcels.xor (rd ra rb : SReg) : Parcels.Statement (.xor rd ra rb) :=
  parcels_one rfl (fmtA_fits _ _ _ _ _ (by decide) (by decide))
theorem Parcels.sll (rd ra rb : SReg) : Parcels.Statement (.sll rd ra rb) :=
  parcels_one rfl (fmtA_fits _ _ _ _ _ (by decide) (by decide))
theorem Parcels.srl (rd ra rb : SReg) : Parcels.Statement (.srl rd ra rb) :=
  parcels_one rfl (fmtA_fits _ _ _ _ _ (by decide) (by decide))
theorem Parcels.sra (rd ra rb : SReg) : Parcels.Statement (.sra rd ra rb) :=
  parcels_one rfl (fmtA_fits _ _ _ _ _ (by decide) (by decide))
theorem Parcels.slt (rd ra rb : SReg) : Parcels.Statement (.slt rd ra rb) :=
  parcels_one rfl (fmtA_fits _ _ _ _ _ (by decide) (by decide))
theorem Parcels.sltu (rd ra rb : SReg) : Parcels.Statement (.sltu rd ra rb) :=
  parcels_one rfl (fmtA_fits _ _ _ _ _ (by decide) (by decide))
theorem Parcels.min (rd ra rb : SReg) : Parcels.Statement (.min rd ra rb) :=
  parcels_one rfl (fmtA_fits _ _ _ _ _ (by decide) (by decide))
theorem Parcels.max (rd ra rb : SReg) : Parcels.Statement (.max rd ra rb) :=
  parcels_one rfl (fmtA_fits _ _ _ _ _ (by decide) (by decide))
theorem Parcels.minu (rd ra rb : SReg) : Parcels.Statement (.minu rd ra rb) :=
  parcels_one rfl (fmtA_fits _ _ _ _ _ (by decide) (by decide))
theorem Parcels.maxu (rd ra rb : SReg) : Parcels.Statement (.maxu rd ra rb) :=
  parcels_one rfl (fmtA_fits _ _ _ _ _ (by decide) (by decide))
theorem Parcels.mul (rd ra rb : SReg) : Parcels.Statement (.mul rd ra rb) :=
  parcels_one rfl (fmtA_fits _ _ _ _ _ (by decide) (by decide))
theorem Parcels.mulh (rd ra rb : SReg) : Parcels.Statement (.mulh rd ra rb) :=
  parcels_one rfl (fmtA_fits _ _ _ _ _ (by decide) (by decide))
theorem Parcels.mulhu (rd ra rb : SReg) : Parcels.Statement (.mulhu rd ra rb) :=
  parcels_one rfl (fmtA_fits _ _ _ _ _ (by decide) (by decide))
theorem Parcels.mulhsu (rd ra rb : SReg) : Parcels.Statement (.mulhsu rd ra rb) :=
  parcels_one rfl (fmtA_fits _ _ _ _ _ (by decide) (by decide))
theorem Parcels.div (rd ra rb : SReg) : Parcels.Statement (.div rd ra rb) :=
  parcels_one rfl (fmtA_fits _ _ _ _ _ (by decide) (by decide))
theorem Parcels.divu (rd ra rb : SReg) : Parcels.Statement (.divu rd ra rb) :=
  parcels_one rfl (fmtA_fits _ _ _ _ _ (by decide) (by decide))
theorem Parcels.rem (rd ra rb : SReg) : Parcels.Statement (.rem rd ra rb) :=
  parcels_one rfl (fmtA_fits _ _ _ _ _ (by decide) (by decide))
theorem Parcels.remu (rd ra rb : SReg) : Parcels.Statement (.remu rd ra rb) :=
  parcels_one rfl (fmtA_fits _ _ _ _ _ (by decide) (by decide))
theorem Parcels.clz (rd ra : SReg) : Parcels.Statement (.clz rd ra) :=
  parcels_one rfl (fmtA_fits _ _ _ _ _ (by decide) (by decide))
theorem Parcels.ctz (rd ra : SReg) : Parcels.Statement (.ctz rd ra) :=
  parcels_one rfl (fmtA_fits _ _ _ _ _ (by decide) (by decide))
theorem Parcels.popc (rd ra : SReg) : Parcels.Statement (.popc rd ra) :=
  parcels_one rfl (fmtA_fits _ _ _ _ _ (by decide) (by decide))
theorem Parcels.brev (rd ra : SReg) : Parcels.Statement (.brev rd ra) :=
  parcels_one rfl (fmtA_fits _ _ _ _ _ (by decide) (by decide))
theorem Parcels.bswap (rd ra : SReg) : Parcels.Statement (.bswap rd ra) :=
  parcels_one rfl (fmtA_fits _ _ _ _ _ (by decide) (by decide))
theorem Parcels.rotl (rd ra rb : SReg) : Parcels.Statement (.rotl rd ra rb) :=
  parcels_one rfl (fmtA_fits _ _ _ _ _ (by decide) (by decide))
theorem Parcels.rotr (rd ra rb : SReg) : Parcels.Statement (.rotr rd ra rb) :=
  parcels_one rfl (fmtA_fits _ _ _ _ _ (by decide) (by decide))
theorem Parcels.addx (rd ra rb : SReg) (k : BitVec 3) : Parcels.Statement (.addx rd ra rb k) :=
  parcels_one rfl (fmtA_fits _ _ _ _ _ (by decide) (by have := k.isLt; omega))
theorem Parcels.subx (rd ra rb : SReg) (k : BitVec 3) : Parcels.Statement (.subx rd ra rb k) :=
  parcels_one rfl (fmtA_fits _ _ _ _ _ (by decide) (by have := k.isLt; omega))
theorem Parcels.addi (rd ra : SReg) (imm : BitVec 16) : Parcels.Statement (.addi rd ra imm) :=
  parcels_one rfl (fmtI_fits _ _ _ _ (by decide) (by have := imm.isLt; omega))
theorem Parcels.andi (rd ra : SReg) (imm : BitVec 16) : Parcels.Statement (.andi rd ra imm) :=
  parcels_one rfl (fmtI_fits _ _ _ _ (by decide) (by have := imm.isLt; omega))
theorem Parcels.ori (rd ra : SReg) (imm : BitVec 16) : Parcels.Statement (.ori rd ra imm) :=
  parcels_one rfl (fmtI_fits _ _ _ _ (by decide) (by have := imm.isLt; omega))
theorem Parcels.xori (rd ra : SReg) (imm : BitVec 16) : Parcels.Statement (.xori rd ra imm) :=
  parcels_one rfl (fmtI_fits _ _ _ _ (by decide) (by have := imm.isLt; omega))
theorem Parcels.slti (rd ra : SReg) (imm : BitVec 16) : Parcels.Statement (.slti rd ra imm) :=
  parcels_one rfl (fmtI_fits _ _ _ _ (by decide) (by have := imm.isLt; omega))
theorem Parcels.sltiu (rd ra : SReg) (imm : BitVec 16) : Parcels.Statement (.sltiu rd ra imm) :=
  parcels_one rfl (fmtI_fits _ _ _ _ (by decide) (by have := imm.isLt; omega))
theorem Parcels.slli (rd ra : SReg) (sh : BitVec 6) : Parcels.Statement (.slli rd ra sh) :=
  parcels_one rfl (fmtI_fits _ _ _ _ (by decide) (by have := sh.isLt; omega))
theorem Parcels.srli (rd ra : SReg) (sh : BitVec 6) : Parcels.Statement (.srli rd ra sh) :=
  parcels_one rfl (fmtI_fits _ _ _ _ (by decide) (by have := sh.isLt; omega))
theorem Parcels.srai (rd ra : SReg) (sh : BitVec 6) : Parcels.Statement (.srai rd ra sh) :=
  parcels_one rfl (fmtI_fits _ _ _ _ (by decide) (by have := sh.isLt; omega))
theorem Parcels.lui (rd : SReg) (imm : BitVec 16) : Parcels.Statement (.lui rd imm) :=
  parcels_one rfl (fmtI_fits _ _ _ _ (by decide) (by have := imm.isLt; omega))
theorem Parcels.auipc (rd : SReg) (imm : BitVec 16) : Parcels.Statement (.auipc rd imm) :=
  parcels_one rfl (fmtI_fits _ _ _ _ (by decide) (by have := imm.isLt; omega))
theorem Parcels.beq (ra rb : SReg) (off : BitVec 16) : Parcels.Statement (.beq ra rb off) :=
  parcels_one rfl (fmtI_fits _ _ _ _ (by decide) (by have := off.isLt; omega))
theorem Parcels.bne (ra rb : SReg) (off : BitVec 16) : Parcels.Statement (.bne ra rb off) :=
  parcels_one rfl (fmtI_fits _ _ _ _ (by decide) (by have := off.isLt; omega))
theorem Parcels.blt (ra rb : SReg) (off : BitVec 16) : Parcels.Statement (.blt ra rb off) :=
  parcels_one rfl (fmtI_fits _ _ _ _ (by decide) (by have := off.isLt; omega))
theorem Parcels.bge (ra rb : SReg) (off : BitVec 16) : Parcels.Statement (.bge ra rb off) :=
  parcels_one rfl (fmtI_fits _ _ _ _ (by decide) (by have := off.isLt; omega))
theorem Parcels.bltu (ra rb : SReg) (off : BitVec 16) : Parcels.Statement (.bltu ra rb off) :=
  parcels_one rfl (fmtI_fits _ _ _ _ (by decide) (by have := off.isLt; omega))
theorem Parcels.bgeu (ra rb : SReg) (off : BitVec 16) : Parcels.Statement (.bgeu ra rb off) :=
  parcels_one rfl (fmtI_fits _ _ _ _ (by decide) (by have := off.isLt; omega))
theorem Parcels.j (off : BitVec 26) : Parcels.Statement (.j off) :=
  parcels_one rfl (by have := off.isLt; simp only [pow2_eq]; omega)
theorem Parcels.jal (off : BitVec 26) : Parcels.Statement (.jal off) :=
  parcels_one rfl (by have := off.isLt; simp only [pow2_eq]; omega)
theorem Parcels.jalr (rd ra : SReg) (imm : BitVec 16) : Parcels.Statement (.jalr rd ra imm) :=
  parcels_one rfl (fmtI_fits _ _ _ _ (by decide) (by have := imm.isLt; omega))
theorem Parcels.strip (ra : SReg) (ps : BitVec 5) (off : BitVec 16) : Parcels.Statement (.strip ra ps off) :=
  parcels_one rfl (fmtI_fits _ _ _ _ (by decide) (by have := off.isLt; omega))
theorem Parcels.fadd (fmt : FFmt) (rms : Option RMode) (rd ra rb : SReg) : Parcels.Statement (.fadd fmt rms rd ra rb) :=
  parcels_one rfl (fmtA_fits _ _ _ _ _ (by decide) (by have := ffmtCode_lt fmt; have := rmsCode_lt rms; omega))
theorem Parcels.fsub (fmt : FFmt) (rms : Option RMode) (rd ra rb : SReg) : Parcels.Statement (.fsub fmt rms rd ra rb) :=
  parcels_one rfl (fmtA_fits _ _ _ _ _ (by decide) (by have := ffmtCode_lt fmt; have := rmsCode_lt rms; omega))
theorem Parcels.fmul (fmt : FFmt) (rms : Option RMode) (rd ra rb : SReg) : Parcels.Statement (.fmul fmt rms rd ra rb) :=
  parcels_one rfl (fmtA_fits _ _ _ _ _ (by decide) (by have := ffmtCode_lt fmt; have := rmsCode_lt rms; omega))
theorem Parcels.fdiv (fmt : FFmt) (rms : Option RMode) (rd ra rb : SReg) : Parcels.Statement (.fdiv fmt rms rd ra rb) :=
  parcels_one rfl (fmtA_fits _ _ _ _ _ (by decide) (by have := ffmtCode_lt fmt; have := rmsCode_lt rms; omega))
theorem Parcels.fsqrt (fmt : FFmt) (rms : Option RMode) (rd ra : SReg) : Parcels.Statement (.fsqrt fmt rms rd ra) :=
  parcels_one rfl (fmtA_fits _ _ _ _ _ (by decide) (by have := ffmtCode_lt fmt; have := rmsCode_lt rms; omega))
theorem Parcels.fmin (fmt : FFmt) (rd ra rb : SReg) : Parcels.Statement (.fmin fmt rd ra rb) :=
  parcels_one rfl (fmtA_fits _ _ _ _ _ (by decide) (by have := ffmtCode_lt fmt; omega))
theorem Parcels.fmax (fmt : FFmt) (rd ra rb : SReg) : Parcels.Statement (.fmax fmt rd ra rb) :=
  parcels_one rfl (fmtA_fits _ _ _ _ _ (by decide) (by have := ffmtCode_lt fmt; omega))
theorem Parcels.fmadd (fmt : FFmt) (rms : Option RMode) (rd ra rb : SReg) : Parcels.Statement (.fmadd fmt rms rd ra rb) :=
  parcels_one rfl (fmtA_fits _ _ _ _ _ (by decide) (by have := ffmtCode_lt fmt; have := rmsCode_lt rms; omega))
theorem Parcels.fnmsub (fmt : FFmt) (rms : Option RMode) (rd ra rb : SReg) : Parcels.Statement (.fnmsub fmt rms rd ra rb) :=
  parcels_one rfl (fmtA_fits _ _ _ _ _ (by decide) (by have := ffmtCode_lt fmt; have := rmsCode_lt rms; omega))
theorem Parcels.fcvt (dst src : CvtTy) (sat : Bool) (rms : Option RMode) (rd ra : SReg) : Parcels.Statement (.fcvt dst src sat rms rd ra) :=
  parcels_one rfl (fmtI_fits _ _ _ _ (by decide) (by have := cvtCode_lt dst; have := cvtCode_lt src; have := rmsCode_lt rms; cases sat <;> simp <;> omega))
theorem Parcels.fmvFs (rd ra : SReg) : Parcels.Statement (.fmvFs rd ra) :=
  parcels_one rfl (fmtA_fits _ _ _ _ _ (by decide) (by decide))
theorem Parcels.fmvSf (rd ra : SReg) : Parcels.Statement (.fmvSf rd ra) :=
  parcels_one rfl (fmtA_fits _ _ _ _ _ (by decide) (by decide))
theorem Parcels.fmvFf (rd ra : SReg) : Parcels.Statement (.fmvFf rd ra) :=
  parcels_one rfl (fmtA_fits _ _ _ _ _ (by decide) (by decide))
theorem Parcels.fsgn (fmt : FFmt) (rd ra rb : SReg) : Parcels.Statement (.fsgn fmt rd ra rb) :=
  parcels_one rfl (fmtA_fits _ _ _ _ _ (by decide) (by have := ffmtCode_lt fmt; omega))
theorem Parcels.fsgnN (fmt : FFmt) (rd ra rb : SReg) : Parcels.Statement (.fsgnN fmt rd ra rb) :=
  parcels_one rfl (fmtA_fits _ _ _ _ _ (by decide) (by have := ffmtCode_lt fmt; omega))
theorem Parcels.fsgnX (fmt : FFmt) (rd ra rb : SReg) : Parcels.Statement (.fsgnX fmt rd ra rb) :=
  parcels_one rfl (fmtA_fits _ _ _ _ _ (by decide) (by have := ffmtCode_lt fmt; omega))
theorem Parcels.feq (fmt : FFmt) (rd ra rb : SReg) : Parcels.Statement (.feq fmt rd ra rb) :=
  parcels_one rfl (fmtA_fits _ _ _ _ _ (by decide) (by have := ffmtCode_lt fmt; omega))
theorem Parcels.flt (fmt : FFmt) (rd ra rb : SReg) : Parcels.Statement (.flt fmt rd ra rb) :=
  parcels_one rfl (fmtA_fits _ _ _ _ _ (by decide) (by have := ffmtCode_lt fmt; omega))
theorem Parcels.fle (fmt : FFmt) (rd ra rb : SReg) : Parcels.Statement (.fle fmt rd ra rb) :=
  parcels_one rfl (fmtA_fits _ _ _ _ _ (by decide) (by have := ffmtCode_lt fmt; omega))
theorem Parcels.fclass (fmt : FFmt) (rd ra : SReg) : Parcels.Statement (.fclass fmt rd ra) :=
  parcels_one rfl (fmtA_fits _ _ _ _ _ (by decide) (by have := ffmtCode_lt fmt; omega))
theorem Parcels.lb (rd ra : SReg) (off : BitVec 13) : Parcels.Statement (.lb rd ra off) :=
  parcels_one rfl (fmtI_fits _ _ _ _ (by decide) (by have := off.isLt; omega))
theorem Parcels.lbu (rd ra : SReg) (off : BitVec 13) : Parcels.Statement (.lbu rd ra off) :=
  parcels_one rfl (fmtI_fits _ _ _ _ (by decide) (by have := off.isLt; omega))
theorem Parcels.lh (rd ra : SReg) (off : BitVec 13) : Parcels.Statement (.lh rd ra off) :=
  parcels_one rfl (fmtI_fits _ _ _ _ (by decide) (by have := off.isLt; omega))
theorem Parcels.lhu (rd ra : SReg) (off : BitVec 13) : Parcels.Statement (.lhu rd ra off) :=
  parcels_one rfl (fmtI_fits _ _ _ _ (by decide) (by have := off.isLt; omega))
theorem Parcels.lw (rd ra : SReg) (off : BitVec 13) : Parcels.Statement (.lw rd ra off) :=
  parcels_one rfl (fmtI_fits _ _ _ _ (by decide) (by have := off.isLt; omega))
theorem Parcels.lwu (rd ra : SReg) (off : BitVec 13) : Parcels.Statement (.lwu rd ra off) :=
  parcels_one rfl (fmtI_fits _ _ _ _ (by decide) (by have := off.isLt; omega))
theorem Parcels.ld (rd ra : SReg) (off : BitVec 13) : Parcels.Statement (.ld rd ra off) :=
  parcels_one rfl (fmtI_fits _ _ _ _ (by decide) (by have := off.isLt; omega))
theorem Parcels.fld (rd ra : SReg) (off : BitVec 13) : Parcels.Statement (.fld rd ra off) :=
  parcels_one rfl (fmtI_fits _ _ _ _ (by decide) (by have := off.isLt; omega))
theorem Parcels.sb (rd ra : SReg) (off : BitVec 13) : Parcels.Statement (.sb rd ra off) :=
  parcels_one rfl (fmtI_fits _ _ _ _ (by decide) (by have := off.isLt; omega))
theorem Parcels.sh (rd ra : SReg) (off : BitVec 13) : Parcels.Statement (.sh rd ra off) :=
  parcels_one rfl (fmtI_fits _ _ _ _ (by decide) (by have := off.isLt; omega))
theorem Parcels.sw (rd ra : SReg) (off : BitVec 13) : Parcels.Statement (.sw rd ra off) :=
  parcels_one rfl (fmtI_fits _ _ _ _ (by decide) (by have := off.isLt; omega))
theorem Parcels.sd (rd ra : SReg) (off : BitVec 13) : Parcels.Statement (.sd rd ra off) :=
  parcels_one rfl (fmtI_fits _ _ _ _ (by decide) (by have := off.isLt; omega))
theorem Parcels.fsd (rd ra : SReg) (off : BitVec 13) : Parcels.Statement (.fsd rd ra off) :=
  parcels_one rfl (fmtI_fits _ _ _ _ (by decide) (by have := off.isLt; omega))
theorem Parcels.amo (op : AmoOp) (wide : Bool) (ord : AccOrd) (sc : Scope) (rd ra rb : SReg) : Parcels.Statement (.amo op wide ord sc rd ra rb) :=
  parcels_one rfl (fmtA_fits _ _ _ _ _ (by decide) (by have := amoCode_lt op; have := ordCode_lt ord; have := scopeCode_lt sc; cases wide <;> simp <;> omega))
theorem Parcels.cas (wide : Bool) (ord : AccOrd) (sc : Scope) (rd ra rb : SReg) : Parcels.Statement (.cas wide ord sc rd ra rb) :=
  parcels_one rfl (fmtA_fits _ _ _ _ _ (by decide) (by have := ordCode_lt ord; have := scopeCode_lt sc; cases wide <;> simp <;> omega))
theorem Parcels.ldAcq (wide : Bool) (sc : Scope) (rd ra : SReg) : Parcels.Statement (.ldAcq wide sc rd ra) :=
  parcels_one rfl (fmtA_fits _ _ _ _ _ (by decide) (by have := scopeCode_lt sc; cases wide <;> simp <;> omega))
theorem Parcels.stRel (wide : Bool) (sc : Scope) (ra rb : SReg) : Parcels.Statement (.stRel wide sc ra rb) :=
  parcels_one rfl (fmtA_fits _ _ _ _ _ (by decide) (by have := scopeCode_lt sc; cases wide <;> simp <;> omega))
theorem Parcels.fence (sc : Scope) : Parcels.Statement (.fence sc) :=
  parcels_one rfl (fmtA_fits _ _ _ _ _ (by decide) (by have := scopeCode_lt sc; omega))
theorem Parcels.fenceAcq (sc : Scope) : Parcels.Statement (.fenceAcq sc) :=
  parcels_one rfl (fmtA_fits _ _ _ _ _ (by decide) (by have := scopeCode_lt sc; omega))
theorem Parcels.fenceRel (sc : Scope) : Parcels.Statement (.fenceRel sc) :=
  parcels_one rfl (fmtA_fits _ _ _ _ _ (by decide) (by have := scopeCode_lt sc; omega))
theorem Parcels.fenceI : Parcels.Statement .fenceI := parcels_one rfl (fmtA_fits _ _ _ _ _ (by decide) (by decide))
theorem Parcels.bar (sc : Scope) (ra rb : SReg) : Parcels.Statement (.bar sc ra rb) :=
  parcels_one rfl (fmtA_fits _ _ _ _ _ (by decide) (by have := scopeCode_lt sc; omega))
theorem Parcels.barArr (sc : Scope) (rd ra rb : SReg) : Parcels.Statement (.barArr sc rd ra rb) :=
  parcels_one rfl (fmtA_fits _ _ _ _ _ (by decide) (by have := scopeCode_lt sc; omega))
theorem Parcels.barWt (sc : Scope) (ra rb : SReg) : Parcels.Statement (.barWt sc ra rb) :=
  parcels_one rfl (fmtA_fits _ _ _ _ _ (by decide) (by have := scopeCode_lt sc; omega))
theorem Parcels.vwait (c : WaitCond) (sc : Scope) (rd ra rb : SReg) : Parcels.Statement (.vwait c sc rd ra rb) :=
  parcels_one rfl (fmtA_fits _ _ _ _ _ (by decide) (by have := condCode_lt c; have := scopeCode_lt sc; omega))
theorem Parcels.qpoint : Parcels.Statement .qpoint := parcels_one rfl (fmtA_fits _ _ _ _ _ (by decide) (by decide))
theorem Parcels.pause : Parcels.Statement .pause := parcels_one rfl (fmtA_fits _ _ _ _ _ (by decide) (by decide))
theorem Parcels.eret : Parcels.Statement .eret := parcels_one rfl (fmtA_fits _ _ _ _ _ (by decide) (by decide))
theorem Parcels.wfi : Parcels.Statement .wfi := parcels_one rfl (fmtA_fits _ _ _ _ _ (by decide) (by decide))
theorem Parcels.ctxsave (ra : SReg) : Parcels.Statement (.ctxsave ra) :=
  parcels_one rfl (fmtA_fits _ _ _ _ _ (by decide) (by decide))
theorem Parcels.ctxrest (ra : SReg) : Parcels.Statement (.ctxrest ra) :=
  parcels_one rfl (fmtA_fits _ _ _ _ _ (by decide) (by decide))
theorem Parcels.xlinvVa (ra rb : SReg) : Parcels.Statement (.xlinvVa ra rb) :=
  parcels_one rfl (fmtA_fits _ _ _ _ _ (by decide) (by decide))
theorem Parcels.xlinvAs (rb : SReg) : Parcels.Statement (.xlinvAs rb) :=
  parcels_one rfl (fmtA_fits _ _ _ _ _ (by decide) (by decide))
theorem Parcels.xlinvAll : Parcels.Statement .xlinvAll := parcels_one rfl (fmtA_fits _ _ _ _ _ (by decide) (by decide))
theorem Parcels.shoot (ra : SReg) : Parcels.Statement (.shoot ra) :=
  parcels_one rfl (fmtA_fits _ _ _ _ _ (by decide) (by decide))
theorem Parcels.csrr (rd : SReg) (csr : BitVec 12) : Parcels.Statement (.csrr rd csr) :=
  parcels_one rfl (fmtI_fits _ _ _ _ (by decide) (by have := csr.isLt; omega))
theorem Parcels.csrw (rd ra : SReg) (csr : BitVec 12) : Parcels.Statement (.csrw rd ra csr) :=
  parcels_one rfl (fmtI_fits _ _ _ _ (by decide) (by have := csr.isLt; omega))
theorem Parcels.csrs (rd ra : SReg) (csr : BitVec 12) : Parcels.Statement (.csrs rd ra csr) :=
  parcels_one rfl (fmtI_fits _ _ _ _ (by decide) (by have := csr.isLt; omega))
theorem Parcels.csrc (rd ra : SReg) (csr : BitVec 12) : Parcels.Statement (.csrc rd ra csr) :=
  parcels_one rfl (fmtI_fits _ _ _ _ (by decide) (by have := csr.isLt; omega))
theorem Parcels.trap (imm : BitVec 16) : Parcels.Statement (.trap imm) :=
  parcels_one rfl (fmtI_fits _ _ _ _ (by decide) (by have := imm.isLt; omega))
theorem Parcels.tspawnCore (rd ra : SReg) : Parcels.Statement (.tspawnCore rd ra) :=
  parcels_one rfl (fmtA_fits _ _ _ _ _ (by decide) (by decide))
theorem Parcels.tspawnDie (rd ra : SReg) : Parcels.Statement (.tspawnDie rd ra) :=
  parcels_one rfl (fmtA_fits _ _ _ _ _ (by decide) (by decide))
theorem Parcels.tspawnSwap (rd ra : SReg) : Parcels.Statement (.tspawnSwap rd ra) :=
  parcels_one rfl (fmtA_fits _ _ _ _ _ (by decide) (by decide))
theorem Parcels.texit (ra : SReg) : Parcels.Statement (.texit ra) :=
  parcels_one rfl (fmtA_fits _ _ _ _ _ (by decide) (by decide))
theorem Parcels.lreq (rd ra rb : SReg) : Parcels.Statement (.lreq rd ra rb) :=
  parcels_one rfl (fmtA_fits _ _ _ _ _ (by decide) (by decide))
theorem Parcels.lrel (rd ra : SReg) : Parcels.Statement (.lrel rd ra) :=
  parcels_one rfl (fmtA_fits _ _ _ _ _ (by decide) (by decide))
theorem Parcels.vgrant (rd ra : SReg) : Parcels.Statement (.vgrant rd ra) :=
  parcels_one rfl (fmtA_fits _ _ _ _ _ (by decide) (by decide))
theorem Parcels.lpub (ra : SReg) : Parcels.Statement (.lpub ra) :=
  parcels_one rfl (fmtA_fits _ _ _ _ _ (by decide) (by decide))
theorem Parcels.lbind (rd ra rb : SReg) : Parcels.Statement (.lbind rd ra rb) :=
  parcels_one rfl (fmtA_fits _ _ _ _ _ (by decide) (by decide))
theorem Parcels.tyield (rd : SReg) : Parcels.Statement (.tyield rd) :=
  parcels_one rfl (fmtA_fits _ _ _ _ _ (by decide) (by decide))
theorem Parcels.semWaitGe (rd ra rb : SReg) : Parcels.Statement (.semWaitGe rd ra rb) :=
  parcels_one rfl (fmtA_fits _ _ _ _ _ (by decide) (by decide))
theorem Parcels.semSig (rd ra rb : SReg) : Parcels.Statement (.semSig rd ra rb) :=
  parcels_one rfl (fmtA_fits _ _ _ _ _ (by decide) (by decide))
theorem Parcels.semSigAdd (rd ra rb : SReg) : Parcels.Statement (.semSigAdd rd ra rb) :=
  parcels_one rfl (fmtA_fits _ _ _ _ _ (by decide) (by decide))
theorem Parcels.launch (rd ra : SReg) : Parcels.Statement (.launch rd ra) :=
  parcels_one rfl (fmtA_fits _ _ _ _ _ (by decide) (by decide))
theorem Parcels.copy (rd ra : SReg) : Parcels.Statement (.copy rd ra) :=
  parcels_one rfl (fmtA_fits _ _ _ _ _ (by decide) (by decide))
theorem Parcels.irq (ra : SReg) : Parcels.Statement (.irq ra) :=
  parcels_one rfl (fmtA_fits _ _ _ _ _ (by decide) (by decide))
theorem Parcels.irqHart (ra rb : SReg) : Parcels.Statement (.irqHart ra rb) :=
  parcels_one rfl (fmtA_fits _ _ _ _ _ (by decide) (by decide))
theorem Parcels.qsel (rd ra : SReg) : Parcels.Statement (.qsel rd ra) :=
  parcels_one rfl (fmtA_fits _ _ _ _ _ (by decide) (by decide))
theorem Parcels.convoy (n : BitVec 3) (units : BitVec 18) (slots : List Word) :
    Parcels.Statement (.convoy n units slots) := by
  intro ps e p m
  simp only [encode, Option.some.injEq] at e
  subst e
  simp only [List.mem_cons, List.mem_flatten, List.mem_map] at m
  rcases m with rfl | ⟨l, ⟨w, _, rfl⟩, m⟩
  · have := n.isLt
    have := units.isLt
    simp only [pow2_eq]
    omega
  · exact wordParcels_fit _ _ m
theorem Parcels.vadd (o : VOp) : Parcels.Statement (.vadd o) := parcels_two rfl
theorem Parcels.vsub (o : VOp) : Parcels.Statement (.vsub o) := parcels_two rfl
theorem Parcels.vrsub (o : VOp) : Parcels.Statement (.vrsub o) := parcels_two rfl
theorem Parcels.vmul (o : VOp) : Parcels.Statement (.vmul o) := parcels_two rfl
theorem Parcels.vmulh (o : VOp) : Parcels.Statement (.vmulh o) := parcels_two rfl
theorem Parcels.vdiv (o : VOp) : Parcels.Statement (.vdiv o) := parcels_two rfl
theorem Parcels.vrem (o : VOp) : Parcels.Statement (.vrem o) := parcels_two rfl
theorem Parcels.vmin (o : VOp) : Parcels.Statement (.vmin o) := parcels_two rfl
theorem Parcels.vmax (o : VOp) : Parcels.Statement (.vmax o) := parcels_two rfl
theorem Parcels.vand (o : VOp) : Parcels.Statement (.vand o) := parcels_two rfl
theorem Parcels.vor (o : VOp) : Parcels.Statement (.vor o) := parcels_two rfl
theorem Parcels.vxor (o : VOp) : Parcels.Statement (.vxor o) := parcels_two rfl
theorem Parcels.vsll (o : VOp) : Parcels.Statement (.vsll o) := parcels_two rfl
theorem Parcels.vsrl (o : VOp) : Parcels.Statement (.vsrl o) := parcels_two rfl
theorem Parcels.vsra (o : VOp) : Parcels.Statement (.vsra o) := parcels_two rfl
theorem Parcels.vmacc (o : VOp) : Parcels.Statement (.vmacc o) := parcels_two rfl
theorem Parcels.vabs (o : VOp) : Parcels.Statement (.vabs o) := parcels_two rfl
theorem Parcels.vclz (o : VOp) : Parcels.Statement (.vclz o) := parcels_two rfl
theorem Parcels.vpopc (o : VOp) : Parcels.Statement (.vpopc o) := parcels_two rfl
theorem Parcels.vmv (o : VOp) : Parcels.Statement (.vmv o) := parcels_two rfl
theorem Parcels.vmerge (o : VOp) : Parcels.Statement (.vmerge o) := parcels_two rfl
theorem Parcels.vid (o : VOp) : Parcels.Statement (.vid o) := parcels_two rfl
theorem Parcels.vslide1Up (o : VOp) : Parcels.Statement (.vslide1Up o) := parcels_two rfl
theorem Parcels.vslide1Dn (o : VOp) : Parcels.Statement (.vslide1Dn o) := parcels_two rfl
theorem Parcels.vfadd (o : VOp) : Parcels.Statement (.vfadd o) := parcels_two rfl
theorem Parcels.vfsub (o : VOp) : Parcels.Statement (.vfsub o) := parcels_two rfl
theorem Parcels.vfmul (o : VOp) : Parcels.Statement (.vfmul o) := parcels_two rfl
theorem Parcels.vfdiv (o : VOp) : Parcels.Statement (.vfdiv o) := parcels_two rfl
theorem Parcels.vfsqrt (o : VOp) : Parcels.Statement (.vfsqrt o) := parcels_two rfl
theorem Parcels.vfmin (o : VOp) : Parcels.Statement (.vfmin o) := parcels_two rfl
theorem Parcels.vfmax (o : VOp) : Parcels.Statement (.vfmax o) := parcels_two rfl
theorem Parcels.vfmadd (o : VOp) : Parcels.Statement (.vfmadd o) := parcels_two rfl
theorem Parcels.vfnmsub (o : VOp) : Parcels.Statement (.vfnmsub o) := parcels_two rfl
theorem Parcels.vfsgn (o : VOp) : Parcels.Statement (.vfsgn o) := parcels_two rfl
theorem Parcels.vfsgnN (o : VOp) : Parcels.Statement (.vfsgnN o) := parcels_two rfl
theorem Parcels.vfsgnX (o : VOp) : Parcels.Statement (.vfsgnX o) := parcels_two rfl
theorem Parcels.vfclass (o : VOp) : Parcels.Statement (.vfclass o) := parcels_two rfl
theorem Parcels.vcvt (o : VOp) : Parcels.Statement (.vcvt o) := parcels_two rfl
theorem Parcels.vcmp (c : CmpOp) (o : VOp) : Parcels.Statement (.vcmp c o) := parcels_two rfl
theorem Parcels.vfcmp (c : CmpOp) (o : VOp) : Parcels.Statement (.vfcmp c o) := parcels_two rfl
theorem Parcels.mand (o : VOp) : Parcels.Statement (.mand o) := parcels_two rfl
theorem Parcels.mor (o : VOp) : Parcels.Statement (.mor o) := parcels_two rfl
theorem Parcels.mxor (o : VOp) : Parcels.Statement (.mxor o) := parcels_two rfl
theorem Parcels.mandn (o : VOp) : Parcels.Statement (.mandn o) := parcels_two rfl
theorem Parcels.mpopc (o : VOp) : Parcels.Statement (.mpopc o) := parcels_two rfl
theorem Parcels.mfirst (o : VOp) : Parcels.Statement (.mfirst o) := parcels_two rfl
theorem Parcels.mfill (o : VOp) : Parcels.Statement (.mfill o) := parcels_two rfl
theorem Parcels.miota (o : VOp) : Parcels.Statement (.miota o) := parcels_two rfl
theorem Parcels.vslideup (o : VOp) : Parcels.Statement (.vslideup o) := parcels_two rfl
theorem Parcels.vslidedn (o : VOp) : Parcels.Statement (.vslidedn o) := parcels_two rfl
theorem Parcels.vrgather (o : VOp) : Parcels.Statement (.vrgather o) := parcels_two rfl
theorem Parcels.vcompress (o : VOp) : Parcels.Statement (.vcompress o) := parcels_two rfl
theorem Parcels.vext (o : VOp) : Parcels.Statement (.vext o) := parcels_two rfl
theorem Parcels.vins (o : VOp) : Parcels.Statement (.vins o) := parcels_two rfl
theorem Parcels.vredsum (o : VOp) : Parcels.Statement (.vredsum o) := parcels_two rfl
theorem Parcels.vredmax (o : VOp) : Parcels.Statement (.vredmax o) := parcels_two rfl
theorem Parcels.vredmin (o : VOp) : Parcels.Statement (.vredmin o) := parcels_two rfl
theorem Parcels.vredand (o : VOp) : Parcels.Statement (.vredand o) := parcels_two rfl
theorem Parcels.vredor (o : VOp) : Parcels.Statement (.vredor o) := parcels_two rfl
theorem Parcels.vredbs (o : VOp) : Parcels.Statement (.vredbs o) := parcels_two rfl
theorem Parcels.vexp2 (o : VOp) : Parcels.Statement (.vexp2 o) := parcels_two rfl
theorem Parcels.vlog2 (o : VOp) : Parcels.Statement (.vlog2 o) := parcels_two rfl
theorem Parcels.vpenny (o : VOp) : Parcels.Statement (.vpenny o) := parcels_two rfl
theorem Parcels.vrsqrt (o : VOp) : Parcels.Statement (.vrsqrt o) := parcels_two rfl
theorem Parcels.vrecip (o : VOp) : Parcels.Statement (.vrecip o) := parcels_two rfl
theorem Parcels.vtanh (o : VOp) : Parcels.Statement (.vtanh o) := parcels_two rfl
theorem Parcels.vld (o : VOp) : Parcels.Statement (.vld o) := parcels_two rfl
theorem Parcels.vst (o : VOp) : Parcels.Statement (.vst o) := parcels_two rfl
theorem Parcels.vlds (o : VOp) : Parcels.Statement (.vlds o) := parcels_two rfl
theorem Parcels.vsts (o : VOp) : Parcels.Statement (.vsts o) := parcels_two rfl
theorem Parcels.vldx (o : VOp) : Parcels.Statement (.vldx o) := parcels_two rfl
theorem Parcels.vstx (o : VOp) : Parcels.Statement (.vstx o) := parcels_two rfl
theorem Parcels.vldseg (o : VOp) : Parcels.Statement (.vldseg o) := parcels_two rfl
theorem Parcels.vstseg (o : VOp) : Parcels.Statement (.vstseg o) := parcels_two rfl
theorem Parcels.mop (o : SqOp) : Parcels.Statement (.mop o) := parcels_two rfl
theorem Parcels.mmkO (o : SqOp) : Parcels.Statement (.mmkO o) := parcels_two rfl
theorem Parcels.mmkF (o : SqOp) : Parcels.Statement (.mmkF o) := parcels_two rfl
theorem Parcels.mmksO (o : SqOp) : Parcels.Statement (.mmksO o) := parcels_two rfl
theorem Parcels.mmksF (o : SqOp) : Parcels.Statement (.mmksF o) := parcels_two rfl
theorem Parcels.mzero (o : SqOp) : Parcels.Statement (.mzero o) := parcels_two rfl
theorem Parcels.mcolGet (o : SqOp) : Parcels.Statement (.mcolGet o) := parcels_two rfl
theorem Parcels.mcolPut (o : SqOp) : Parcels.Statement (.mcolPut o) := parcels_two rfl
theorem Parcels.mdiagGet (o : SqOp) : Parcels.Statement (.mdiagGet o) := parcels_two rfl
theorem Parcels.mdiagPut (o : SqOp) : Parcels.Statement (.mdiagPut o) := parcels_two rfl
theorem Parcels.mdrain (o : SqOp) : Parcels.Statement (.mdrain o) := parcels_two rfl
theorem Parcels.akvmask (o : VOp) : Parcels.Statement (.akvmask o) := parcels_two rfl
theorem Parcels.asmax (o : VOp) : Parcels.Statement (.asmax o) := parcels_two rfl
theorem Parcels.apexp (o : VOp) : Parcels.Statement (.apexp o) := parcels_two rfl
theorem Parcels.apv (o : VOp) : Parcels.Statement (.apv o) := parcels_two rfl
theorem Parcels.afin (o : VOp) : Parcels.Statement (.afin o) := parcels_two rfl
theorem Parcels.amode (o : VOp) : Parcels.Statement (.amode o) := parcels_two rfl
theorem Parcels.sld (o : StOp) : Parcels.Statement (.sld o) := parcels_two rfl
theorem Parcels.sst (o : StOp) : Parcels.Statement (.sst o) := parcels_two rfl
theorem Parcels.sldv (o : StOp) : Parcels.Statement (.sldv o) := parcels_two rfl
theorem Parcels.sgather (o : StOp) : Parcels.Statement (.sgather o) := parcels_two rfl
theorem Parcels.sscatter (o : StOp) : Parcels.Statement (.sscatter o) := parcels_two rfl
theorem Parcels.spaged (o : StOp) : Parcels.Statement (.spaged o) := parcels_two rfl
theorem Parcels.sbar (o : StOp) : Parcels.Statement (.sbar o) := parcels_two rfl
theorem Parcels.swp (o : StOp) : Parcels.Statement (.swp o) := parcels_two rfl
theorem Parcels.sres (o : StOp) : Parcels.Statement (.sres o) := parcels_two rfl
theorem Parcels.sresLoad (o : StOp) : Parcels.Statement (.sresLoad o) := parcels_two rfl
theorem Parcels.sfill (o : StOp) : Parcels.Statement (.sfill o) := parcels_two rfl
theorem Parcels.sfillM (o : StOp) : Parcels.Statement (.sfillM o) := parcels_two rfl
theorem Parcels.scancel (o : StOp) : Parcels.Statement (.scancel o) := parcels_two rfl
theorem Parcels.sstat (o : StOp) : Parcels.Statement (.sstat o) := parcels_two rfl
theorem Parcels.sstatSave (o : StOp) : Parcels.Statement (.sstatSave o) := parcels_two rfl
theorem Parcels.avpush (o : ExOp) : Parcels.Statement (.avpush o) := parcels_two rfl
theorem Parcels.avpop (o : ExOp) : Parcels.Statement (.avpop o) := parcels_two rfl
theorem Parcels.avpushTry (o : ExOp) : Parcels.Statement (.avpushTry o) := parcels_two rfl
theorem Parcels.avpopTry (o : ExOp) : Parcels.Statement (.avpopTry o) := parcels_two rfl
theorem Parcels.avstat (o : ExOp) : Parcels.Statement (.avstat o) := parcels_two rfl
theorem Parcels.avstamp (o : ExOp) : Parcels.Statement (.avstamp o) := parcels_two rfl
theorem Parcels.asmeth (o : ExOp) : Parcels.Statement (.asmeth o) := parcels_two rfl
theorem Parcels.assamp (o : ExOp) : Parcels.Statement (.assamp o) := parcels_two rfl
theorem Parcels.asstart (o : ExOp) : Parcels.Statement (.asstart o) := parcels_two rfl
theorem Parcels.asdrain (o : ExOp) : Parcels.Statement (.asdrain o) := parcels_two rfl
theorem Parcels.asabort (o : ExOp) : Parcels.Statement (.asabort o) := parcels_two rfl
theorem Parcels.asstat (o : ExOp) : Parcels.Statement (.asstat o) := parcels_two rfl
theorem Parcels.collAred (op : CollOp) (o : ExOp) : Parcels.Statement (.collAred op o) := parcels_two rfl
theorem Parcels.collAgat (o : ExOp) : Parcels.Statement (.collAgat o) := parcels_two rfl
theorem Parcels.collRsct (op : CollOp) (o : ExOp) : Parcels.Statement (.collRsct op o) := parcels_two rfl
theorem Parcels.collBcast (o : ExOp) : Parcels.Statement (.collBcast o) := parcels_two rfl
theorem Parcels.collWait (o : ExOp) : Parcels.Statement (.collWait o) := parcels_two rfl
theorem Parcels.deviceReset : Parcels.Statement .deviceReset := parcels_event rfl
theorem Parcels.powerOnBoot (signatureGood : Bool) : Parcels.Statement (.powerOnBoot signatureGood) := parcels_event rfl
theorem Parcels.interruptTake (hart : Nat) (stop : Option Nat) : Parcels.Statement (.interruptTake hart stop) :=
  parcels_event rfl
theorem Parcels.vaultLineWaitEnd (hart : Nat) : Parcels.Statement (.vaultLineWaitEnd hart) := parcels_event rfl
theorem Parcels.landedWaitEnd (hart : Nat) : Parcels.Statement (.landedWaitEnd hart) := parcels_event rfl
theorem Parcels.rowReleaseWaitEnd (hart : Nat) : Parcels.Statement (.rowReleaseWaitEnd hart) := parcels_event rfl
theorem Parcels.squareUpdateComplete (hart : Nat) : Parcels.Statement (.squareUpdateComplete hart) := parcels_event rfl
theorem Parcels.drainRowShift (hart : Nat) : Parcels.Statement (.drainRowShift hart) := parcels_event rfl
theorem Parcels.streamWindowStart (hart slot : Nat) : Parcels.Statement (.streamWindowStart hart slot) :=
  parcels_event rfl
theorem Parcels.streamElementPerform (hart slot : Nat) : Parcels.Statement (.streamElementPerform hart slot) :=
  parcels_event rfl
theorem Parcels.streamFaultStop (hart slot : Nat) : Parcels.Statement (.streamFaultStop hart slot) := parcels_event rfl
theorem Parcels.boundaryCommit (hart : Nat) : Parcels.Statement (.boundaryCommit hart) := parcels_event rfl
theorem Parcels.clusterZeroDone (core cluster : Nat) : Parcels.Statement (.clusterZeroDone core cluster) :=
  parcels_event rfl
theorem Parcels.dispatchPlace (die : Nat) : Parcels.Statement (.dispatchPlace die) := parcels_event rfl
theorem Parcels.dispatchOffer (die : Nat) : Parcels.Statement (.dispatchOffer die) := parcels_event rfl
theorem Parcels.barWaitEnd (hart : Nat) : Parcels.Statement (.barWaitEnd hart) := parcels_event rfl
theorem Parcels.vwaitReread (hart : Nat) : Parcels.Statement (.vwaitReread hart) := parcels_event rfl
theorem Parcels.pauseExpire (hart : Nat) : Parcels.Statement (.pauseExpire hart) := parcels_event rfl
theorem Parcels.wfiWake (hart : Nat) : Parcels.Statement (.wfiWake hart) := parcels_event rfl
theorem Parcels.quadPacketServe (p : QuadPacket) : Parcels.Statement (.quadPacketServe p) := parcels_event rfl
theorem Parcels.quadResponseArrive (r : QuadResponse) : Parcels.Statement (.quadResponseArrive r) := parcels_event rfl
theorem Parcels.qbctlAbort (quad : Nat) (bits : BitVec 16) : Parcels.Statement (.qbctlAbort quad bits) :=
  parcels_event rfl
theorem Parcels.qbctlAbortedClear (quad : Nat) (bits : BitVec 16) : Parcels.Statement (.qbctlAbortedClear quad bits) :=
  parcels_event rfl
theorem Parcels.shootdownApply (core : Nat) : Parcels.Statement (.shootdownApply core) := parcels_event rfl
theorem Parcels.watchdogForce (core part : Nat) : Parcels.Statement (.watchdogForce core part) := parcels_event rfl
theorem Parcels.migrationStart (die : Nat) : Parcels.Statement (.migrationStart die) := parcels_event rfl
theorem Parcels.migrationLineCopy (die : Nat) (err : CopyError) : Parcels.Statement (.migrationLineCopy die err) :=
  parcels_event rfl
theorem Parcels.errorDetect (e : ErrorReport) : Parcels.Statement (.errorDetect e) := parcels_event rfl
theorem Parcels.scrubRead (line : Nat) (found : ScrubResult) : Parcels.Statement (.scrubRead line found) :=
  parcels_event rfl
theorem Parcels.spareApply (u : SparableUnit) : Parcels.Statement (.spareApply u) := parcels_event rfl
theorem Parcels.coreFailure (core : Nat) : Parcels.Statement (.coreFailure core) := parcels_event rfl
theorem Parcels.plctlStart (die slot : Nat) : Parcels.Statement (.plctlStart die slot) := parcels_event rfl
theorem Parcels.plctlStop (die slot : Nat) : Parcels.Statement (.plctlStop die slot) := parcels_event rfl
theorem Parcels.poolCoreJoin (core : Nat) : Parcels.Statement (.poolCoreJoin core) := parcels_event rfl
theorem Parcels.balancerInterval (die slot : Nat) : Parcels.Statement (.balancerInterval die slot) := parcels_event rfl
theorem Parcels.pipelineStopComplete (die slot : Nat) : Parcels.Statement (.pipelineStopComplete die slot) :=
  parcels_event rfl
theorem Parcels.avenueWaitEnd (hart : Nat) : Parcels.Statement (.avenueWaitEnd hart) := parcels_event rfl
theorem Parcels.pldlAck (die slot : Nat) (bits : BitVec 16) : Parcels.Statement (.pldlAck die slot bits) :=
  parcels_event rfl
theorem Parcels.assayerDerivPop (die : Nat) : Parcels.Statement (.assayerDerivPop die) := parcels_event rfl
theorem Parcels.assayerRequestPush (die : Nat) : Parcels.Statement (.assayerRequestPush die) := parcels_event rfl
theorem Parcels.assayerCombination (die : Nat) : Parcels.Statement (.assayerCombination die) := parcels_event rfl
theorem Parcels.assayerCompletionPush (die : Nat) : Parcels.Statement (.assayerCompletionPush die) := parcels_event rfl
theorem Parcels.chctlRunStart (id : Nat) : Parcels.Statement (.chctlRunStart id) := parcels_event rfl
theorem Parcels.chctlRunStop (id : Nat) : Parcels.Statement (.chctlRunStop id) := parcels_event rfl
theorem Parcels.cmdhartStopped (id : Nat) : Parcels.Statement (.cmdhartStopped id) := parcels_event rfl
theorem Parcels.queueEntryStart (io q : Nat) : Parcels.Statement (.queueEntryStart io q) := parcels_event rfl
theorem Parcels.copyChunk (io q chunk : Nat) : Parcels.Statement (.copyChunk io q chunk) := parcels_event rfl
theorem Parcels.queueEntryComplete (io q : Nat) : Parcels.Statement (.queueEntryComplete io q) := parcels_event rfl
theorem Parcels.qctlSkip (io q : Nat) : Parcels.Statement (.qctlSkip io q) := parcels_event rfl
theorem Parcels.qctlFlush (io q : Nat) : Parcels.Statement (.qctlFlush io q) := parcels_event rfl
theorem Parcels.extsrcAck (core part : Nat) : Parcels.Statement (.extsrcAck core part) := parcels_event rfl
theorem Parcels.semaphoreWrite (n : Nat) (v : Word) : Parcels.Statement (.semaphoreWrite n v) := parcels_event rfl
theorem Parcels.hostWrite (bar addr : Nat) (bytes : List Byte) : Parcels.Statement (.hostWrite bar addr bytes) :=
  parcels_event rfl
theorem Parcels.hostRead (bar addr len : Nat) : Parcels.Statement (.hostRead bar addr len) := parcels_event rfl
theorem Parcels.hostAtomicop (bar addr : Nat) (op : HostAtomic) (width : Nat) (a b : Word) : Parcels.Statement (.hostAtomicop bar addr op width a b) :=
  parcels_event rfl
theorem Parcels.hostConfigWrite (aopr cxlc : Bool) : Parcels.Statement (.hostConfigWrite aopr cxlc) := parcels_event rfl
theorem Parcels.hostLinkDown : Parcels.Statement .hostLinkDown := parcels_event rfl
theorem Parcels.ownctlClaim (master : BitVec 2) : Parcels.Statement (.ownctlClaim master) := parcels_event rfl
theorem Parcels.ownctlRelease (master : BitVec 2) : Parcels.Statement (.ownctlRelease master) := parcels_event rfl
theorem Parcels.ownctlHand (master target : BitVec 2) : Parcels.Statement (.ownctlHand master target) :=
  parcels_event rfl
theorem Parcels.bmcMessage : Parcels.Statement .bmcMessage := parcels_event rfl
theorem Parcels.bmcOwnerTimeout : Parcels.Statement .bmcOwnerTimeout := parcels_event rfl
theorem Parcels.devpreRequest : Parcels.Statement .devpreRequest := parcels_event rfl
theorem Parcels.devpreResume : Parcels.Statement .devpreResume := parcels_event rfl
theorem Parcels.ckctlGo (restore : Bool) : Parcels.Statement (.ckctlGo restore) := parcels_event rfl
theorem Parcels.checkpointChunk (r : CheckpointReply) : Parcels.Statement (.checkpointChunk r) := parcels_event rfl
theorem Parcels.powerWindow (watts : Nat) : Parcels.Statement (.powerWindow watts) := parcels_event rfl
theorem Parcels.junctionThrottle (die : Nat) : Parcels.Statement (.junctionThrottle die) := parcels_event rfl
theorem Parcels.junctionShutdown (die : Nat) : Parcels.Statement (.junctionShutdown die) := parcels_event rfl
theorem Parcels.flitResend (lane : PortLane) : Parcels.Statement (.flitResend lane) := parcels_event rfl
theorem Parcels.laneRetrain (port : Nat) : Parcels.Statement (.laneRetrain port) := parcels_event rfl
theorem Parcels.fabricIdAssign (a : FabricAssign) : Parcels.Statement (.fabricIdAssign a) := parcels_event rfl
theorem Parcels.frameReceive (f : Frame) : Parcels.Statement (.frameReceive f) := parcels_event rfl
theorem Parcels.frameAnswer (index : Nat) (a : FrameAnswer) : Parcels.Statement (.frameAnswer index a) :=
  parcels_event rfl
theorem Parcels.fabricUnreachable (pkg : Nat) : Parcels.Statement (.fabricUnreachable pkg) := parcels_event rfl
theorem Parcels.collectiveComplete (comm : Nat) (peers : List PeerPart) : Parcels.Statement (.collectiveComplete comm peers) :=
  parcels_event rfl
theorem Parcels.podBarrierHomeArrival (pkg hart barrier : Nat) (count : Word) : Parcels.Statement (.podBarrierHomeArrival pkg hart barrier count) :=
  parcels_event rfl
theorem Parcels.podBarrierHomeWithdraw (pkg hart barrier : Nat) : Parcels.Statement (.podBarrierHomeWithdraw pkg hart barrier) :=
  parcels_event rfl
theorem Parcels.podBarrierReply (hart barrier : Nat) (r : PodReply) : Parcels.Statement (.podBarrierReply hart barrier r) :=
  parcels_event rfl
theorem Parcels.podBarrierCompletion (barrier : Nat) (phase : Word) : Parcels.Statement (.podBarrierCompletion barrier phase) :=
  parcels_event rfl
theorem Parcels.podBarrierRetry (hart barrier : Nat) : Parcels.Statement (.podBarrierRetry hart barrier) :=
  parcels_event rfl
theorem Parcels.registerWrite (pa : Nat) (v : Word) : Parcels.Statement (.registerWrite pa v) := parcels_event rfl
theorem Parcels.illegalEncoding (why : BadFetch) : Parcels.Statement (.illegalEncoding why) := parcels_event rfl
theorem Parcels.hostLinkUp (cxl : Bool) : Parcels.Statement (.hostLinkUp cxl) := parcels_event rfl
theorem Parcels.portLinkTrained (port : Nat) (width : BitVec 2) : Parcels.Statement (.portLinkTrained port width) :=
  parcels_event rfl
theorem Parcels.sparingComplete (u : SparableUnit) : Parcels.Statement (.sparingComplete u) := parcels_event rfl

end Sys2Proof.Laws
end

