-- ==== Sys2Proof/Machine/Slas.lean ====
section
/-! DEFINITION. What the assembler slas emits where it does more than encode one instruction (spec/03_encoding.md R93, R96,
R98): branch fields, pseudo-instructions, and the units of a convoy's slots. No step uses it. -/

namespace Sys2Proof.Machine

/-- The parcel offset of a branch or jump: the target is a parcel multiple away and fits the field (R93). -/
def slasOffset (w : Nat) (here target : Int) : Option (BitVec w) :=
  let k := (target - here) / 4
  if (target - here) % 4 = 0 ∧ (BitVec.ofInt w k).toInt = k then some (BitVec.ofInt w k) else none

def slasNop : Instr := .add 0 0 0

def slasMv (rd ra : SReg) : Instr := .addi rd ra 0

/-- `li sD, x`, for x in [−2^31, 2^31) (R96). -/
def slasLi (rd : SReg) (x : Int) : Option (List Instr) :=
  if -32768 ≤ x ∧ x ≤ 32767 then some [.addi rd 0 (BitVec.ofInt 16 x)]
  else if -2147483648 ≤ x ∧ x < 2147483648 then
    some [.lui rd (BitVec.ofInt 16 (x / 65536)), .ori rd rd (BitVec.ofInt 16 x)]
  else none

def slasRet : Instr := .jalr 0 31 0

def slasCall (off : BitVec 26) : Instr := .jal off

/-- The unit of a slot after units already given: its fixed unit, or VALU0 and then VALU1 (R98). -/
def slasUnit (used : List Nat) (w : Word) : Option Nat :=
  match decodeVector w.toNat with
  | .ok i => (slotOf i).bind (fun p => p.1.find? (fun u => !used.contains u))
  | .error _ => none

/-- The units of slots in order. -/
def slasUnits : List Nat → List Word → Option (List Nat)
  | used, [] => some used
  | used, w :: r => (slasUnit used w).bind (fun u => slasUnits (used ++ [u]) r)

/-- The unit fields of a header (R80): slot i's code lies 3i bits below the highest field. -/
def unitFields (us : List Nat) : Nat := (enumList us).foldl (fun acc p => acc + p.2 * pow2 (15 - 3 * p.1)) 0

/-- The register rules of R87 on slots with their units, after the slots `prev`. -/
def slasRules : List CSlot → List (Nat × Word) → Bool
  | _, [] => true
  | prev, (u, w) :: r =>
    match decodeVector w.toNat with
    | .ok i =>
      match slotOf i with
      | some (_, p) => slotRules u (isAsmax i) p prev && slasRules (prev ++ [cslotOf w i p]) r
      | none => false
    | .error _ => false

/-- The convoy that slas emits for slots, if it accepts them (R98). -/
def slasConvoy (slots : List Word) : Option Instr :=
  (slasUnits [] slots).bind (fun us =>
    let i := Instr.convoy (BitVec.ofNat 3 slots.length) (BitVec.ofNat 18 (unitFields us)) slots
    if 2 ≤ slots.length ∧ slots.length ≤ 6 ∧ slasRules [] (us.zip slots) = true then some i else none)

end Sys2Proof.Machine
end

