-- ==== Sys2Proof/Tests/Slice0.lean ====
section
/-! SUPPORT. Tests of the model, and for each statement with hypotheses a state that meets them. Expected values are the
spec's: its encodings, its worked words and its tables, or a calculation by hand from its rules. -/

namespace Sys2Proof.Tests

-- one theorem after another: each is a kernel evaluation, and many at once would hold a thread each
set_option Elab.async false

open Sys2Proof Sys2Proof.Machine
open Host (Outcome)

/-! Well-formedness: an ill-formed term for each check -/

/-- Operands of a vector instruction: destination, first source, type, second operand; the rest as unary forms have it. -/
def vop (vd va : VReg) (ta : Ty) (src : VSrc) : VOp := VOp.mk 0 none 0 false false vd va ta src

/-- The unused second operand. -/
def nil2 : VSrc := .vr 0 0 .si8

def refusedAll (l : List Instr) : Bool := l.all fun i => !i.wf
def acceptedAll (l : List Instr) : Bool := l.all fun i => i.wf

theorem test_wf_scalar : refusedAll [
    .fcvt .fp32 .fp32 false none 1 2, .fcvt .si32 .si64 false none 1 2,
    .strip 4 1 0, .strip 4 4 0, .strip 9 9 0, .convoy 1 0 [0], .convoy 7 0 [0, 0, 0, 0, 0, 0, 0],
    .convoy 2 0x04000 [0], .convoy 2 0 [0, 0], .convoy 2 0x04001 [0, 0]] = true := by decide +kernel

theorem test_wf_scalar_accepts : acceptedAll [
    .fcvt .fp32 .fp16 false none 1 2, .strip 6 9 0, .strip 4 0 0, .convoy 2 0x04000 [0, 0]] = true := by decide +kernel

theorem test_wf_vector_integer : refusedAll [
    .vadd (vop 48 0 .si8 nil2), .vadd (vop 0 48 .si8 nil2), .vadd (vop 0 0 .fp32 nil2),
    .vadd { vop 0 0 .si8 nil2 with mask := 13 }, .vadd { vop 0 0 .si8 nil2 with rms := some .rne },
    .vadd (vop 0 0 .si8 (.vr 48 0 .si8)), .vadd (vop 0 0 .si8 (.vr 0 1 .si8)), .vadd (vop 0 0 .si8 (.vr 0 0 .si16)),
    .vadd { vop 0 0 .si8 nil2 with ss := 1 }, .vadd { vop 0 0 .si8 (.vr 1 0 .si8) with mod0 := true },
    .vadd { vop 0 0 .si8 (.vi 0) with mod0 := true }, .vadd { vop 0 0 .si8 (.vi 0) with ss := 1 },
    .vand { vop 0 0 .si8 nil2 with mod1 := true }, .vabs (vop 0 0 .ui8 nil2), .vabs (vop 0 0 .si8 (.vr 1 0 .si8)),
    .vclz { vop 0 0 .ui8 nil2 with ss := 1 }, .vmv (vop 0 0 .si8 (.vr 1 0 .si8)), .vmv (vop 0 1 .si8 (.vi 0)),
    .vmv (vop 0 0 .mxi8 nil2), .vmerge (vop 0 0 .si8 nil2), .vid (vop 0 1 .ui8 nil2), .vslide1Up (vop 1 1 .si8 nil2),
    .vslide1Dn (vop 1 1 .si8 (.vi 0))] = true := by decide +kernel

theorem test_wf_vector_float : refusedAll [
    .vfadd (vop 0 0 .si8 nil2), .vfmin { vop 0 0 .fp32 nil2 with rms := some .rne }, .vfmin { vop 0 0 .fp32 nil2 with mod1 := true },
    .vfmul (vop 0 0 .fp32 (.vi 0x10000)), .vfsqrt (vop 0 0 .fp32 (.vr 1 0 .si8)), .vfclass { vop 0 0 .fp32 nil2 with mod1 := true },
    .vcvt (vop 0 0 .fp32 (.vr 0 0 .fp32)), .vcvt (vop 0 0 .fp32 (.vr 1 0 .fp16)), .vcvt (vop 0 0 .fp32 (.vr 0 0 .fp16)),
    .vcvt { vop 0 1 .si8 (.vr 0 0 .si16) with rms := some .rne }, .vexp2 (vop 0 0 .fp64 nil2), .vpenny (vop 0 0 .fp32 nil2),
    .vpenny { vop 1 0 .fp32 nil2 with rms := some .rne }] = true := by decide +kernel

theorem test_wf_vector_rest : refusedAll [
    .vcmp .eq (vop 12 0 .si8 nil2), .vcmp .eq (vop 0 0 .fp32 nil2), .vcmp .eq (vop 0 0 .si8 (.vi 0)), .vfcmp .eq (vop 0 0 .si8 nil2),
    .mand (vop 0 12 .si8 nil2), .mand (vop 0 0 .si8 (.vr 12 0 .si8)), .mand (vop 0 0 .si16 nil2), .mpopc (vop 1 0 .si8 nil2),
    .mfirst (vop 0 12 .si8 nil2), .mfill (vop 0 1 .si8 nil2), .miota (vop 0 0 .fp32 nil2), .vslideup (vop 1 1 .si8 (.vi 1)),
    .vslidedn (vop 1 2 .si8 nil2), .vslidedn (vop 1 2 .si8 (.vi 0x10000)), .vrgather (vop 1 2 .si8 (.vr 1 0 .si8)),
    .vrgather (vop 1 1 .si8 (.vr 2 0 .si8)), .vcompress (vop 1 1 .si8 nil2), .vext (vop 0 1 .si8 (.vi 1024)),
    .vext { vop 0 1 .si8 (.vi 0) with mask := 1 }, .vins (vop 0 1 .si8 (.vi 0)), .vredsum (vop 1 0 .si8 nil2),
    .vredsum { vop 0 0 .si8 nil2 with rms := some .rne }, .vredmax { vop 0 0 .si8 nil2 with mod1 := true }, .vredand (vop 0 0 .fp32 nil2),
    .vredbs (vop 0 0 .mxi8 (.vr 1 0 .fp16)), .vredbs (vop 0 0 .fp32 (.vr 1 0 .fp32)), .vld (vop 0 1 .si8 nil2),
    .vld (vop 0 0 .si8 (.vr 1 0 .si8)), .vlds (vop 0 0 .si8 nil2), .vlds { vop 0 0 .si8 (.vi 0) with mod0 := true },
    .vldx (vop 1 0 .si8 (.vr 1 0 .ui16)), .vldx (vop 1 0 .si8 (.vr 2 0 .ui8)), .vldseg (vop 1 0 .si8 (.vr 0 2 .si8)),
    .vldseg (vop 1 0 .mxi8 (.vr 0 1 .si8)), .vstseg { vop 1 0 .mxi8 (.vr 0 2 .si8) with mask := 1 }] = true := by decide +kernel

/-- Operands of a Square instruction with no other field set. -/
def sqop (ta tb : Ty) (vd : VReg) (gm1 : BitVec 5) : SqOp := SqOp.mk 0 ta tb 0 0 0 vd gm1 none 0

theorem test_wf_square : refusedAll [
    .mop (sqop .fp32 .fp16 0 0), .mop (sqop .fp32 .fp32 23 1), .mop (sqop .fp32 .fp32 0 24), .mop (sqop .mxi8 .mxi8 0 0),
    .mop { sqop .fp32 .fp32 0 0 with sc := 1 }, .mmkO { sqop .fp32 .fp32 0 0 with sqmod := 0x20 },
    .mmkO { sqop .e2m1 .e2m1 0 0 with sqmod := 0x08 }, .mmkO { sqop .fp32 .fp32 0 0 with sqmod := 0x04 },
    .mmkF { sqop .fp32 .fp32 0 0 with sqmod := 0x03 }, .mmkF { sqop .si8 .si8 0 0 with rms := some .rne },
    .mmksF (sqop .fp32 .fp32 0 0), .mmksO (sqop .lg6 .lg6 0 0), .mzero (sqop .fp32 .si8 0 0), .mzero { sqop .si8 .si8 0 0 with sqmod := 1 },
    .mcolGet { sqop .fp32 .si8 0 0 with sqmod := 0 }, .mcolPut { sqop .fp32 .si8 0 0 with sqmod := 48 },
    .mdiagGet { sqop .mxi8 .si8 0 0 with sqmod := 1 }, .mdrain (sqop .fp16 .fp16 0 0), .mdrain (sqop .si32 .fp64 0 0),
    .mdrain { sqop .si32 .si8 0 0 with sb := 1 }, .mdrain { sqop .si32 .si8 0 0 with sqmod := 1 }] = true := by decide +kernel

theorem test_wf_attention : refusedAll [
    .akvmask (vop 0 0 .fp32 (.vr 32 0 .si8)), .asmax (vop 0 0 .fp32 (.vr 0 0 .si8)), .asmax (vop 1 0 .fp32 (.vr 3 0 .si8)),
    .asmax (vop 0 0 .fp32 (.vr 46 0 .si8)), .apexp (vop 0 0 .fp32 (.vr 3 0 .si8)), .apv (vop 0 1 .fp16 (.vr 4 0 .fp32)),
    .apv (vop 0 1 .pny (.vr 4 0 .fp64)), .afin (vop 0 12 .fp32 (.vr 4 0 .si8)), .amode (vop 0 0 .si8 (.vr 1 0 .si8)),
    .amode { vop 0 0 .si8 (.vr 0 24 .si8) with mod1 := true }] = true := by decide +kernel

/-- Operands of a stream instruction and of majors 0x3B to 0x3D. -/
def stop' (sa sb : SReg) (vd : VReg) (smod : BitVec 2) : StOp := StOp.mk 0 0 sa sb vd smod
def exop (sd sa sb : SReg) (imm : BitVec 21) (emod : BitVec 5) : ExOp := ExOp.mk 0 0 imm sd sa sb emod

theorem test_wf_streams_and_exchanges : refusedAll [
    .sld (stop' 0 0 32 0), .sld (stop' 0 0 0 2), .sst (stop' 0 0 0 1), .sldv (stop' 0 0 48 0), .sscatter (stop' 0 0 0 1),
    .sbar (stop' 1 0 0 0), .sbar (stop' 0 0 0 2), .sbar { stop' 0 0 0 0 with imm := 0x10000 }, .swp (stop' 0 1 0 0),
    .sstat (stop' 0 0 0 1), .sres (stop' 1 0 0 0), .scancel (stop' 0 0 0 1), .sresLoad (stop' 0 0 0 0), .sstatSave (stop' 0 1 0 1),
    .sfill (stop' 1 0 0 0), .sfillM (stop' 0 1 0 2), .avpush (exop 0 0 0 0 1), .avstat (exop 0 0 1 0 0), .asmeth (exop 0 0 0 4 0),
    .assamp (exop 0 0 0 0 0), .assamp (exop 0 0 0 4097 0), .asabort (exop 0 0 1 0 0), .collAred .sum (exop 0 0 0 0 0),
    .collAred .sum (exop 0 0 0 256 9), .collAgat (exop 0 0 0 0 1), .collWait (exop 0 0 1 0 0)] = true := by decide +kernel

/-! Decoding: words of the spec -/

/-- The parcels decode to the instruction. -/
noncomputable def reads (ps : List Nat) (i : Instr) : Bool :=
  match decodeParcels ps with | .ok j => decide (j = i) | .error _ => false
noncomputable def readsAll (l : List (List Nat × Instr)) : Bool := l.all fun p => reads p.1 p.2

theorem test_decode_scalar : readsAll [
    ([0x04642800], .add 3 4 5), ([0x2C22803F], .srai 1 2 63), ([0x11213803], .addx 9 1 7 3), ([0x14A50008], .addi 5 5 8),
    ([0x14C6FFFF], .addi 6 6 0xFFFF), ([0x30E01234], .lui 7 0x1234), ([0x1CE75678], .ori 7 7 0x5678),
    ([0x38C00005], .beq 6 0 5), ([0x3CC0FFFD], .bne 6 0 0xFFFD), ([0x53FFFFFA], .j 0x3FFFFFA), ([0x581F0000], .jalr 0 31 0),
    ([0x5CC9FFFA], .strip 6 9 0xFFFA), ([0x64221920], .fadd .fp32 (some .rtz) 1 2 3), ([0x6DBEC000], .ld 13 30 0),
    ([0x70056000], .sd 0 5 0)] = true := by decide +kernel

theorem test_decode_synchronisation : readsAll [
    ([0x74652100], .amo .add false .relaxed .quad 3 5 4), ([0x740D5AA0], .amo .add true .rel .die 0 13 11),
    ([0x74C839E9], .cas true .acqrel .quad 6 8 7), ([0x7446036A], .ldAcq true .pkg 2 6), ([0x74063BAB], .stRel true .pkg 6 7),
    ([0x78000200], .fence .die), ([0x78000010], .fenceI), ([0x78042920], .bar .quad 4 5), ([0x78000060], .qpoint),
    ([0x786D7352], .vwait .geu .pkg 3 13 14)] = true := by decide +kernel

theorem test_decode_system : readsAll [
    ([0x80A00012], .csrr 5 0x012), ([0x80061000], .csrw 0 6 0x000), ([0x84000042], .trap 0x42), ([0x7C000000], .eret),
    ([0x7C000001], .wfi), ([0x7C0C0007], .shoot 12)] = true := by decide +kernel

theorem test_decode_tasks_and_commands : readsAll [
    ([0x884C0001], .tspawnDie 2 12), ([0x8AD50000], .tspawnCore 22 21), ([0x88040003], .texit 4), ([0x88A60006], .vgrant 5 6),
    ([0x88090007], .lpub 9), ([0x886A5808], .lbind 3 10 11), ([0x8C642800], .semWaitGe 3 4 5), ([0x8C042811], .semSigAdd 0 4 5),
    ([0x8C640002], .launch 3 4), ([0x8C640003], .copy 3 4), ([0x8C040004], .irq 4), ([0x8C042814], .irqHart 4 5),
    ([0x8C640005], .qsel 3 4)] = true := by decide +kernel

theorem test_decode_vector : readsAll [
    ([0xC4310400, 0x00002800], .vadd (vop 3 4 .si32 (.vr 5 0 .si8))),
    ([0xC861120E, 0x40120000], .vfmadd (VOp.mk 4 none 2 false true 6 4 .fp32 (.vr 0 0 .si8))),
    ([0xC830D205, 0x00003F00], .vfmul (vop 3 3 .fp32 (.vi 0x3F00))),
    ([0xC420522C, 0x00500000], .vslide1Up (VOp.mk 0 none 10 false false 2 1 .fp32 (.vr 0 0 .si8))),
    ([0xCC100408, 0x00001000], .vcmp .gt (vop 1 0 .si32 (.vr 2 0 .si8))),
    ([0xD0011209, 0x00500000], .vext (VOp.mk 0 none 10 false false 0 4 .fp32 (.vi 0))),
    ([0xD8400401, 0x00280100], .vld (VOp.mk 0 none 5 false false 4 0 .si32 (.vi 0x100))),
    ([0xD8200408, 0x00080806], .vldx (VOp.mk 0 none 1 false false 2 0 .si32 (.vr 1 0 .ui32)))] = true := by decide +kernel

theorem test_decode_square_and_attention : readsAll [
    ([0xDC059000, 0x06308530], .mmkF (SqOp.mk 0 .e4m3 .e4m3 4 5 6 0 11 none 0)),
    ([0xDC078021, 0x00016C00], .mop (SqOp.mk 0 .si8 .si8 11 12 0 0 15 none 0x21)),
    ([0xE0078000, 0x00000000], .mzero (SqOp.mk 0 .si8 .si8 0 0 0 0 15 none 0)),
    ([0xE007A870, 0x01010A48], .mdrain (SqOp.mk 0 .si32 .si8 8 10 9 0 15 none 0x70)),
    ([0xE4001202, 0x0000F060], .asmax (vop 0 0 .fp32 (.vr 30 3 .si8))),
    ([0xE6806406, 0x0038F009], .apv (VOp.mk 0 none 7 false false 40 1 .pny (.vr 30 0 .fp32)))] = true := by decide +kernel

theorem test_decode_streams : readsAll [
    ([0xE8C10930, 0x00000000], .sld (StOp.mk 0 3 8 9 12 0)), ([0xE8088614, 0x00000100], .sldv (StOp.mk 0x100 0 4 6 5 0)),
    ([0xE8180001, 0x00000000], .sbar (StOp.mk 0 0 0 0 0 1)), ([0xE8600000, 0x00000000], .sres (StOp.mk 0 1 0 0 0 0))]
    = true := by decide +kernel

theorem test_decode_avenues_and_assayer : readsAll [
    ([0xEC642800, 0x00000000], .avpush (exop 3 4 5 0 0)), ([0xECC0F020, 0x00000000], .avpop (exop 6 0 30 0 0)),
    ([0xF0640000, 0x00000001], .asmeth (exop 3 4 0 1 0)), ([0xF0642820, 0x00000010], .assamp (exop 3 4 5 16 0)),
    ([0xF0642840, 0x00000010], .asstart (exop 3 4 5 16 0)), ([0xF0642860, 0x00000010], .asdrain (exop 3 4 5 16 0)),
    ([0xF0640080, 0x00000000], .asabort (exop 3 4 0 0 0)), ([0xF06400A0, 0x00000000], .asstat (exop 3 4 0 0 0))]
    = true := by decide +kernel

theorem test_decode_collectives : readsAll [
    ([0xF4642809, 0x30000007], .collAred .sum (ExOp.mk 6 0 7 3 4 5 9)), ([0xF4642900, 0x30000007], .collAgat (ExOp.mk 6 0 7 3 4 5 0)),
    ([0xF4642A22, 0x30000007], .collRsct .max (ExOp.mk 6 0 7 3 4 5 2)), ([0xF4642B00, 0x30000002], .collBcast (ExOp.mk 6 0 2 3 4 5 0)),
    ([0xF4640400, 0x00000000], .collWait (exop 3 4 0 0 0))] = true := by decide +kernel

/-- Reserved words are refused: an all-zero word, an all-ones word, a SYSTEM minor that is not listed, a convoy of seven. -/
theorem test_decode_refuses : ([[0], [0xFFFFFFFF, 0xFFFFFFFF], [0x7C00001F], [0xC3800000]].all fun ps =>
    match decodeParcels ps with | .error _ => true | .ok _ => false) = true := by decide +kernel

/-- A header with N = 2 and unit codes 5 and 2 (R80), and its two slots. -/
theorem test_decode_convoy : reads [0xC1540000, 0xC830D205, 0x00003F00, 0xC4310400, 0x00002800]
    (.convoy 2 0x2A000 [0x00003F00C830D205, 0x00002800C4310400]) = true := by decide +kernel

/-- The opcode table's bits of `mop`, second word 0, are read by the decoder. -/
theorem test_decode_table_word : decodeTableWord 64 0x04642800 = some (.add 3 4 5) := by decide +kernel

/-- The expansions of R96 in the words that R107's examples give, and the convoy of R80's header. -/
theorem test_slas : (slasLi 7 0x12345678).map (·.map encode) = some [some [0x30E01234], some [0x1CE75678]]
    ∧ slasLi 7 (-100000) = some [.lui 7 0xFFFE, .ori 7 7 0x7960] ∧ slasLi 5 (-1) = some [.addi 5 0 0xFFFF]
    ∧ slasLi 5 0x80000000 = none ∧ slasOffset 16 0x1000 0x0FF4 = some 0xFFFD ∧ slasOffset 16 0 0x20000 = none
    ∧ slasConvoy [0x00003F00C830D205, 0x00002800C4610400] = some (.convoy 2 0x10000 [0x00003F00C830D205, 0x00002800C4610400])
    ∧ slasConvoy [0x00003F00C830D205, 0x00003F00C830D205] = none := by decide +kernel

/-! States for the witnesses -/

/-- The computation completes with a result that passes a check. -/
def okIs {α : Type} (x : Eff α) (p : α → Bool) : Bool := match x with | .ok a => p a | .error _ => false

def okB {α : Type} (x : Eff α) : Bool := okIs x fun _ => true

theorem okIs_iff {α : Type} {x : Eff α} {p : α → Bool} : okIs x p = true ↔ ∃ a, x = .ok a ∧ p a = true := by
  cases x <;> simp [okIs]

/-- The reset state with the current hart changed; hart 0 runs at M there. -/
def withHart (f : Hart → Hart) : State := State.reset.putHart (f State.reset.hart)

/-- Values in scalar registers. -/
def withRegs (l : List (SReg × Word)) (s : State) : State := l.foldl (fun s p => s.wS p.1 p.2) s

/-- Values in floating-point registers. -/
def withFloats (l : List (SReg × Word)) (s : State) : State := l.foldl (fun s p => s.wF p.1 p.2) s

def regsOnly (l : List (SReg × Word)) : State := withRegs l State.reset

/-- Hart 0 at U, and at S. -/
def atU : State := withHart fun x => { x with level := .u }
def atS : State := withHart fun x => { x with level := .s }

/-- Command hart 0, running at S. -/
def atCommand : State :=
  let s := { State.reset with cur := 4096 }
  s.putHart { s.hart with run := .running, level := .s }

/-- Hart 0 with cluster 0, a length and a width code. -/
def lanes (vl : BitVec 11) (vew : BitVec 2) : State :=
  withHart fun x => { x with grant := 1, conf := { x.conf with vl := vl, vew := vew } }

/-- HBM with `n` bytes of `v` at `a`. -/
def withMem (a n v : Nat) (s : State) : State := pokeBytes s a (bytesOfNat n v)

/-- The instruction answers a next state that passes a check. -/
def runs (i : Instr) (s : State) (p : State → Bool) : Bool :=
  match exec i s with | .next t => p t | _ => false

/-! Scalar instructions -/

/-- A target that is a multiple of 4, and one that is not. -/
theorem witness_ControlTransfers : (BitVec.ofInt 64 ((State.reset.rS 1).toInt + (4 : BitVec 16).toInt)).toNat % 4 = 0
    ∧ ¬ (BitVec.ofInt 64 ((State.reset.rS 1).toInt + (2 : BitVec 16).toInt)).toNat % 4 = 0 := by decide +kernel

/-- 1 / 0 raises DZ: with no flag enabled, and with DZ enabled, to trap. -/
theorem witness_FloatArithmetic :
    let dz := (vdiv (decode .fp32 0x3F800000) (decode .fp32 0)).2
    ¬ dz = 0 ∧ State.reset.hart.trapping dz = 0
    ∧ ¬ (withHart fun x => { x with conf := { x.conf with fmode := 0xFC00 } }).hart.trapping dz = 0 := by decide +kernel

theorem witness_FloatConversions : (Instr.fcvt .fp32 .si64 false none 1 2).wf = true ∧ cvtIsInt .fp32 = false
    ∧ (Instr.fcvt .si32 .fp64 true none 1 2).wf = true ∧ cvtIsInt .si32 = true := by decide +kernel

/-- A comparison with a NaN raises NV: enabled to trap, and not. -/
theorem witness_FloatMovesAndComparisons : State.reset.hart.trapping fNV = 0
    ∧ ¬ (withHart fun x => { x with conf := { x.conf with fmode := 0xFC00 } }).hart.trapping fNV = 0
    ∧ isNaN (decode .fp32 0x7FC00000) = true := by decide +kernel

/-- Aligned, readable addresses of HBM of each width, the last line of HBM among them, and misaligned ones. -/
theorem witness_Loads :
    (okB (hartRead State.reset 0x1001 1) = true ∧ okB (hartRead State.reset 0x1002 2) = true
      ∧ okB (hartRead State.reset 0x1004 4) = true ∧ okB (hartRead State.reset (BitVec.ofNat 64 (hbmBytes - 8)) 8) = true)
    ∧ (State.reset.hart.level = .m ∧ inHbm (BitVec.ofNat 64 (hbmBytes - 8)).toNat 8 = true
      ∧ (BitVec.ofNat 64 (hbmBytes - 8)).toNat < 2 ^ 40 ∧ ∀ k, k < 8 → memMark State.reset (hbmBytes - 8 + k) = false)
    ∧ (¬ (3 : Word).toNat % 2 = 0 ∧ ¬ (2 : Word).toNat % 4 = 0 ∧ ¬ (4 : Word).toNat % 8 = 0) := by decide +kernel

/-- Aligned addresses of HBM and of core 0's Vault at M, each width. -/
theorem witness_Stores :
    okIs (hartPa State.reset 0x1001 .write 1) (fun r => (heldPlace r.2 1).isSome) = true
    ∧ okIs (hartPa State.reset 0x1002 .write 2) (fun r => (heldPlace r.2 2).isSome) = true
    ∧ okIs (hartPa State.reset (BitVec.ofNat 64 (vaultPa 0 0x7C)) .write 4) (fun r => decide (heldPlace r.2 4 = some (.vault 0 0x7C)))
      = true
    ∧ okIs (hartPa State.reset (BitVec.ofNat 64 (hbmBytes - 8)) .write 8) (fun r => (heldPlace r.2 8).isSome) = true := by
  decide +kernel

/-- An atomic's aligned, readable place that its path carries; a `cas` that matches and one that does not. -/
theorem witness_Atomics : let s := withMem 0x1000 8 7 (regsOnly [(5, 0x1000), (6, 7), (7, 8)])
    (s.rS 5).toNat % 8 = 0 ∧ heldPlace 0x1000 8 = some (.hbm 0x1000)
    ∧ okB (hartPa s (s.rS 5) .rmw 8) = true ∧ okB (readReady s 0x1000) = true ∧ okIs (readAt s 0x1000 8) (fun v => v == 7) = true
    ∧ atomCarried s true .pkg 0x1000 = true ∧ atomCarried s false .core 0x1000 = true
    ∧ 7 = (s.rS 6).toNat % 2 ^ 64 ∧ ¬ 7 = (s.rS 7).toNat % 2 ^ 64
    ∧ okB (hartRead s (s.rS 5) 8) = true ∧ okB (hartPa s (s.rS 5) .write 8) = true := by decide +kernel

/-! Traps, registers and waits -/

/-- At U, and at M with MNEST = 1. -/
theorem witness_TrapEntry : ¬ (atU.hart.level = .m ∧ atU.hart.stat.mnest = true)
    ∧ (let s := withHart fun x => { x with stat := { x.stat with mnest := true } }
       s.hart.level = .m ∧ s.hart.stat.mnest = true) := by decide +kernel

theorem witness_TrapsRaised : ¬ (State.reset.hart.level = .m ∧ State.reset.hart.stat.mnest = true)
    ∧ (let s := withHart fun x => { x with stat := { x.stat with mnest := true } }
       s.hart.level = .m ∧ s.hart.stat.mnest = true) ∧ ¬ (31 : SReg) = 0 := by decide +kernel

/-- Field values that the encodings of R103, R104, R106 and R107 reserve, at the ends of their ranges. -/
theorem witness_reserved_fields : ¬ (1 : SReg) = 0 ∧ 16 ≤ 2047 ∧ 2047 < 2 ^ 11 ∧ 3 * 2 ^ 14 ≤ (0xC000 : BitVec 16).toNat
    ∧ ¬ (0x0040 : BitVec 16).toNat / 2 ^ 6 % 2 ^ 8 = 0 := by decide +kernel

theorem witness_TrapReturn : atS.hart.level = .s ∧ State.reset.hart.level = .m ∧ atU.hart.level = .u := by decide +kernel

theorem witness_WrongLevelOrHart : atU.hart.level = .u ∧ isCommand atU.cur = false ∧ isCommand atCommand.cur = true := by
  decide +kernel

/-- An uncorrected error pending at U, a pre-emption and an external source pending at U: bits 0, 1 and 4. -/
theorem witness_InterruptEntry :
    (let s := withHart fun x => { x with level := .u, mcheck := some 64 }
     irqNext s 0 = some 0 ∧ (s.hartAt 0).hold = .none)
    ∧ (let s := withHart fun x => { x with level := .u, preempt := true }
       irqNext s 0 = some 1 ∧ (s.hartAt 0).hold = .none)
    ∧ (let s := { atU with cores := { atU.cores with extQ := [(0, [7])] } }
       irqNext s 0 = some 4 ∧ (s.hartAt 0).hold = .none) := by decide +kernel

/-- Taken during a `wfi`, and during a `bar` whose phase is not past, and past. -/
theorem witness_InterruptEntry_waits :
    let s := fun (w : Hold) => withHart fun x => { x with level := .u, preempt := true, hold := w }
    let past := setBarrier (s (.bar .core 3 0)) (barrierKey .core (scopeInst .core 0) 3) ⟨1, 0, 0⟩
    (irqNext (s .wfi) 0 = some 1 ∧ ((s .wfi).hartAt 0).hold = .wfi)
    ∧ (irqNext (s (.bar .core 3 0)) 0 = some 1 ∧ ((s (.bar .core 3 0)).hartAt 0).hold = .bar .core 3 0
      ∧ ¬ 1 ≤ ((barrierAt (s (.bar .core 3 0)) (barrierKey .core (scopeInst .core 0) 3)).phase - 0).toNat)
    ∧ irqNext past 0 = some 1 ∧ (past.hartAt 0).hold = .bar .core 3 0 ∧ ¬ (Scope.core = .pod ∧ podRemote past = true)
    ∧ (barrierAt past (barrierKey .core (scopeInst .core 0) 3)).phase - 0 = 1 := by decide +kernel

/-- `vl` at U, a set register at M, the wait of `vsi`; an unlisted number; an S register at U. -/
theorem witness_CsrAccess :
    csrValue atU 0x000 = some 0 ∧ ¬ (isCommand atU.cur = true ∧ csrComputeOnly 0x000 = true)
    ∧ (0x000 : BitVec 12).toNat / 256 ≤ levelCode atU.hart.level
    ∧ (0x303 : BitVec 12).toNat / 256 ≤ levelCode State.reset.hart.level ∧ csrValue State.reset 0x303 = some 0
    ∧ csrWaits 0x002 = true ∧ csrValue atU 0x002 = some 0 ∧ atU.hart.updBusy = 0 ∧ atU.hart.drainBusy = 0
    ∧ csrValue atU 0x0FF = none
    ∧ csrValue atU 0x108 = some 0 ∧ levelCode atU.hart.level < (0x108 : BitVec 12).toNat / 256 := by decide +kernel

theorem witness_CsrWrites : atS.hart.level = .s ∧ State.reset.hart.level = .m := by decide +kernel

/-- No removal and one removal pending; a word that satisfies a condition and one that does not; `hip` empty and not. -/
theorem witness_FencesAndWaits :
    shootPending State.reset 0 = false
    ∧ (let s := { State.reset with cores := { Cores.reset with shootQ := [(0, [⟨2, 0, 0, none, none, 0⟩])] } }
       shootPending s s.cur = true ∧ okB (endReady s) = true)
    ∧ (let s := withMem 0x1000 8 5 (regsOnly [(1, 0x1000), (2, 5), (3, 6)])
       (s.rS 1).toNat % 8 = 0 ∧ okIs (hartRead s (s.rS 1) 8) (fun r => r.2 == 5) = true
       ∧ (s.rS 2).toNat ≤ 5 ∧ ¬ (s.rS 3).toNat ≤ 5)
    ∧ (¬ State.reset.hart.level = .u ∧ hipWord State.reset 0 = 0)
    ∧ ¬ hipWord (withHart fun x => { x with preempt := true }) 0 = 0 := by decide +kernel

/-- Barrier 15 with counts 1 and 8 of a core; a phase past and one not; a bad number and bad counts. -/
theorem witness_Barriers : let s := regsOnly [(1, 15), (2, 1), (3, 8), (4, 16), (5, 9)]
    let one := setBarrier s (barrierKey .core (scopeInst .core s.cur) 15) ⟨1, 0, 0⟩
    (s.rS 1).toNat < 16 ∧ ¬ (Scope.core = .pod ∧ podRemote s = true)
    ∧ 1 ≤ (s.rS 2).toNat ∧ (s.rS 3).toNat ≤ scopeLimit .core ∧ 0 + 1 = (s.rS 2).toNat ∧ ¬ 0 + 1 = (s.rS 3).toNat
    ∧ 1 ≤ ((barrierAt one (barrierKey .core (scopeInst .core one.cur) 15)).phase - one.rS 0).toNat
    ∧ 16 ≤ (s.rS 4).toNat ∧ (s.rS 0).toNat = 0 ∧ scopeLimit .core < (s.rS 5).toNat := by decide +kernel

/-- `bar.wt` on a phase 2^63 - 1 ahead, 2^63 ahead, and on the phase itself. -/
theorem witness_Barriers_phases : let s := regsOnly [(1, 15), (2, 1)]
    let at' := fun (p : Word) => setBarrier s (barrierKey .core (scopeInst .core s.cur) 15) ⟨p, 0, 0⟩
    let far := fun (p : Word) => ((barrierAt (at' p) (barrierKey .core (scopeInst .core s.cur) 15)).phase - (at' p).rS 2).toNat
    (1 ≤ far 0x8000000000000000 ∧ far 0x8000000000000000 < 2 ^ 63) ∧ ¬ far 0x8000000000000001 < 2 ^ 63 ∧ ¬ 1 ≤ far 1 := by
  decide +kernel

/-- Hart 0 with a hold. -/
def holding (w : Hold) : State := withHart fun x => { x with hold := w }

/-- Each wait with its condition met. -/
theorem witness_WaitsEnd :
    ((holding (.line 0 3 true)).hart.hold = .line 0 3 true ∧ lineReadsEmpty (holding (.line 0 3 true)) 0 (128 * 3) = false)
    ∧ ((holding (.landed 0 2 0)).hart.hold = .landed 0 2 0 ∧ unlanded (holding (.landed 0 2 0)) 0 2 0 = false)
    ∧ ((holding (.rows 3)).hart.hold = .rows 3
      ∧ ((holding (.rows 3)).hart.updBusy ||| (holding (.rows 3)).hart.drainBusy) &&& 3 = 0)
    ∧ (holding .pause).hart.hold = .pause
    ∧ (let s := withHart fun x => { x with hold := .wfi, preempt := true }
       s.hart.hold = .wfi ∧ ¬ hipWord s 0 = 0)
    ∧ (let s := setBarrier (holding (.bar .core 0 0)) (barrierKey .core (scopeInst .core 0) 0) ⟨1, 0, 0⟩
       s.hart.hold = .bar .core 0 0 ∧ ¬ (Scope.core = .pod ∧ podRemote s = true) ∧ phasePast (phaseOf s .core 0 0) 0 = true)
    ∧ (let s := withMem 0x1000 8 5 (holding (.vwait .eq .die 1 0x1000 5))
       s.hart.hold = .vwait .eq .die 1 0x1000 5 ∧ (0x1000 : Word).toNat % 8 = 0
       ∧ okIs (hartRead s 0x1000 8) (fun r => condHolds .eq (BitVec.ofNat 64 r.2) 5) = true)
    ∧ (let s := holding (.boundary (.vgrant 1 0))
       (s.hartAt 0).hold = .boundary (.vgrant 1 0) ∧ okB (boundaryReady (.vgrant 1 0) { s with cur := 0 }) = true
       ∧ (boundaryCommit { s with cur := 0 } (.vgrant 1 0)).isSome = true) := by decide +kernel

/-- A save area at an aligned address, with a written row and without; a restore from it. -/
theorem witness_ContextSwitch :
    (let s := withRegs [(1, 0x1000)] (withHart fun x => { x with grant := 1, hwm := ⟨true, 47, 128⟩ })
     isCommand s.cur = false ∧ s.hart.level = .m ∧ (s.rS 1).toNat % 128 = 0 ∧ inHbm 0x1000 (0x680 + 48 * 128) = true
     ∧ 0x1000 + (0x680 + 48 * 128) < 2 ^ 40 ∧ s.hart.conf.vsi = 0 ∧ s.hart.stopAt = none ∧ s.hart.updBusy = 0
     ∧ s.hart.drainBusy = 0 ∧ s.hart.hwm.hreg.toNat < 48)
    ∧ (∀ row p, unlanded (regsOnly [(1, 0x1000)]) 0 row p = false) ∧ (∀ b, memMark (regsOnly [(1, 0x1000)]) b = false)
    ∧ (savedShape (gather (memByte State.reset) 0x1000 128)).any = false :=
  ⟨by decide +kernel, fun _ _ => rfl, fun _ => rfl, by decide +kernel⟩

/-- What `shoot` finds at the address in scalar register 1, when both halves of its record are read. -/
def shootIs (s : State) (p : State → Nat → Bool) : Bool :=
  okIs (hartPa s (s.rS 1) .read 64) fun u => okIs (hartPa u.1 (s.rS 1 + 64) .read 64) fun v =>
    okB (readReady v.1 u.2) && okB (readReady v.1 v.2) && okIs (readAt v.1 u.2 64) fun a => okIs (readAt v.1 v.2 64) fun b =>
      p v.1 (a + b * 2 ^ 512)

theorem shootIs_iff {s : State} {p : State → Nat → Bool} : shootIs s p = true ↔ ∃ u v a b,
    hartPa s (s.rS 1) .read 64 = .ok u ∧ hartPa u.1 (s.rS 1 + 64) .read 64 = .ok v ∧ readReady v.1 u.2 = .ok ()
    ∧ readReady v.1 v.2 = .ok () ∧ readAt v.1 u.2 64 = .ok a ∧ readAt v.1 v.2 64 = .ok b ∧ p v.1 (a + b * 2 ^ 512) = true := by
  simp only [shootIs, okB, okIs_iff, Bool.and_eq_true]
  constructor
  · rintro ⟨u, hu, v, hv, ⟨⟨⟨⟩, h1, -⟩, ⟨⟩, h2, -⟩, a, ha, b, hb, h⟩
    exact ⟨u, v, a, b, hu, hv, h1, h2, ha, hb, h⟩
  · rintro ⟨u, v, a, b, hu, hv, h1, h2, ha, hb, h⟩
    exact ⟨u, hu, v, hv, ⟨⟨(), h1, trivial⟩, (), h2, trivial⟩, a, ha, b, hb, h⟩

/-- A record as `shoot` reads it: OP, ASID, VA, DONE, PTEA, DST and CORES. -/
def shootWord (op asid va done ptea dst cores : Nat) : Nat :=
  op + asid * 2 ^ 16 + va * 2 ^ 64 + done * 2 ^ 128 + ptea * 2 ^ 192 + dst * 2 ^ 256 + cores * 2 ^ 512

/-- A queue of sixteen removals on core 0. -/
def queueFull (s : State) : State := setShootQueue s 0 (List.replicate 16 ⟨2, 0, 0, none, none, 0⟩)

theorem witness_TranslationMaintenance :
    (isCommand atCommand.cur = true ∧ ¬ atCommand.hart.level = .u)
    ∧ (isCommand State.reset.cur = false ∧ ¬ State.reset.hart.level = .u ∧ (shootQueue State.reset 0).length < 16
      ∧ 16 ≤ (shootQueue (queueFull State.reset) 0).length)
    ∧ (let at' := fun (w : Nat) => withMem 0x1000 128 w (regsOnly [(1, 0x1000)])
       ((at' 0).rS 1).toNat % 64 = 0
       ∧ shootIs (at' (shootWord 2 0 0 0x2000 0 0 1)) (fun v w => match parseShoot v w with
           | some r => decide (r.op < 3) && shootRoom v r.cores
           | none => false) = true
       ∧ shootIs (queueFull (at' (shootWord 1 7 0 0x2000 0 0 1))) (fun v w => match parseShoot v w with
           | some r => decide (r.op < 3) && !shootRoom v r.cores
           | none => false) = true
       ∧ shootIs (at' (shootWord 3 0 0x4000 0x2000 0x3000 0x5000 1)) (fun v w => match parseShoot v w with
           | some r => decide (r.op = 3)
           | none => false) = true
       ∧ shootIs (at' (shootWord 4 0 0 0x2000 0 0 1)) (fun v w => (parseShoot v w).isNone
           && decide (w / 2 ^ 128 % 2 ^ 64 % 8 = 0) && inHbm (w / 2 ^ 128 % 2 ^ 64) 8) = true
       ∧ shootIs (at' (shootWord 4 0 0 0x2001 0 0 1)) (fun v w => (parseShoot v w).isNone
           && !decide (w / 2 ^ 128 % 2 ^ 64 % 8 = 0)) = true) := by decide +kernel

/-! Tasks, leases and command harts -/

theorem sget_range (x : Task) (n i lo : Nat) (d : Task) (h : lo ≤ i) (g : i < lo + n) :
    sget d ((List.range' lo n).map fun k => (k, x)) i = x := by
  induction n generalizing lo with
  | zero => omega
  | succ n ih =>
    simp only [List.range'_succ, List.map_cons, sget]
    split
    · rfl
    · exact ih (lo + 1) (by omega) (by omega)

/-- Die 0 with every entry of its task table READY. -/
def fullTable : State :=
  { State.reset with dies := { Dies.reset with tasks := (List.range' 0 4096).map fun k => (k, { Task.reset with state := .ready }) } }

/-- A record of R265 with ENTRY 0x100, CMIN 1 and CPREF 8. -/
def taskRecord : Nat := 0x100 + (1 + 8 * 256) * 2 ^ 320

/-- Every entry of the full table is READY. -/
theorem fullTable_entry (k : Nat) (hk : k < 4096) : taskAt fullTable 0 k = { Task.reset with state := .ready } := by
  simpa [taskAt, fullTable] using sget_range { Task.reset with state := .ready } 4096 k 0 Task.reset (by omega) (by omega)

/-- A valid record, an invalid one of zeros, a table whose lowest entry is FREE, and a full one. -/
theorem witness_TaskCreation : let s := withMem 0x1000 64 taskRecord (regsOnly [(1, 0x1000)])
    (isCommand s.cur = false ∧ (s.rS 1).toNat % 64 = 0
      ∧ okIs (hartReadWords s (s.rS 1) 8) (fun r => (parseTask r.2).isSome) = true ∧ parseTask 0 = none
      ∧ (taskAt s 0 0).state = .free ∧ ∀ j, j < 0 → ¬ (taskAt s 0 j).state = .free)
    ∧ ∀ j, j < 4096 → ¬ (taskAt fullTable 0 j).state = .free :=
  ⟨by decide +kernel, fun j hj => by rw [fullTable_entry j hj]; decide⟩

/-- Hart 0 at U with cluster 0, running the task of entry `k` = 0, which the function gives. -/
def running (f : Task → Task) : State :=
  let s := withHart fun x => { x with level := .u, grant := 1, task := some 0, conf := { x.conf with vl := 4 } }
  setTask s 0 0 (f { Task.reset with state := .running, gen := 1, cmin := 1, cpref := 1, min := 1, pref := 1, started := true })

/-- A producer in entry 1; a bind to itself; a task to yield to. -/
theorem witness_LeasesAndBindings :
    (isCommand (running fun t => t).cur = false ∧ (running fun t => t).hart.task = some 0)
    ∧ (let s := withRegs [(1, 0x100000001)] (setTask (running fun t => t) 0 1 { Task.reset with state := .running, gen := 1 })
       s.rS 0 = 0 ∧ ¬ s.rS 1 = 0 ∧ handleSlot s 0 (s.rS 1) = some 1 ∧ ¬ (taskAt s 0 1).state = .free ∧ ¬ 1 = 0)
    ∧ (let s := withRegs [(1, 0x100000000)] (running fun t => t)
       ¬ s.rS 1 = 0 ∧ handleSlot s 0 (s.rS 1) = some 0)
    ∧ (yieldTask (setTask (running fun t => t) 0 1 { Task.reset with state := .ready, gen := 1, cmin := 1, cpref := 1 }) 0).isSome = true
    ∧ yieldTask (running fun t => t) 0 = none := by decide +kernel

/-- A commit with elements left and with none, one of a bound task, and boundaries that wait for a cluster and for a
publication. -/
theorem witness_StripBoundaries :
    (let s := withRegs [(6, 100)] (running fun t => t)
     isCommand s.cur = false ∧ okB (boundaryReady (.strip 6 9 0xFFFA) s) = true ∧ okB (boundaryReady (.vgrant 1 6) s) = true ∧ (Instr.strip 6 9 0xFFFA).wf = true ∧ s.hart.task = some 0
     ∧ lengthGranted s (100 - min s.vl 100) = some 16 ∧ lengthGranted s 100 = some 16)
    ∧ (let s := withRegs [(6, 4)] (running fun t => t)
       lengthGranted s (4 - min s.vl 4) = some 0)
    ∧ (let s := setTask (running fun t => { t with producer := some 1, bcur := 2 }) 0 1
         { Task.reset with state := .running, phw := 5 }
       lengthGranted s 96 = some 3)
    ∧ (let s := setTask (running fun t => { t with producer := some 1, bcur := 5 }) 0 1
         { Task.reset with state := .running, phw := 5 }
       lengthGranted s 96 = none)
    ∧ (let s := { running (fun t => t) with cores := { Cores.reset with lpart := [(0, 0)] } }
       lengthGranted s 4 = none) := by decide +kernel

/-- A hart at S that runs entry 0, the incoming task of entry 1 in a state, and its started bit. -/
def swapping (st : TaskState) (b : Bool) (f : Hart → Hart) : State :=
  let s := setTask (running fun t => t) 0 1
    { Task.reset with state := st, gen := 1, cmin := 1, cpref := 1, min := 1, pref := 1, started := b }
  s.putHart (f { s.hart with level := .s })

/-- Nothing to bring in; a suspended task that has started, and a READY one that has not, named by its handle and offered;
with a task running and with none. -/
theorem witness_TaskSwap :
    (isCommand atS.cur = false ∧ ¬ atS.hart.level = .u ∧ (taskAt atS 0 0).gen = 0)
    ∧ (let named := fun (s : State) (h : Word) (k : Nat) => ¬ (taskAt s 0 k).gen = 0 ∧ h.toNat % 4096 = k ∧ h.toNat / 2 ^ 12 % 2 ^ 20 = 0
         ∧ h.toNat / 2 ^ 32 = (taskAt s 0 k).gen.toNat ∧ (taskAt s 0 k).state ∈ [TaskState.suspended, .ready]
       let take := fun (s : State) => okB (boundaryReady (.swap 1 1) s) = true
         ∧ boundaryTry s s.cur (taskAt s 0 1).min (taskAt s 0 1).pref 0 = some ([0], 0)
       (let s := withRegs [(1, 0x100000001)] (swapping .suspended true id)
        named s (s.rS 1) 1 ∧ take s ∧ s.hart.task = some 0 ∧ ¬ s.rS 1 = 0 ∧ (taskAt s 0 1).started = true)
       ∧ (let s := swapping .ready false fun x => { x with offer := some 0x100000001, preempt := true }
          s.rS 0 = 0 ∧ named s (s.hart.offer.getD 0) 1 ∧ take s ∧ (taskAt s 0 1).started = false)
       ∧ (let s := withRegs [(1, 0x100000001)] (swapping .suspended true fun x => { x with task := none })
          named s (s.rS 1) 1 ∧ take s ∧ s.hart.task = none)) := by decide +kernel

/-- Semaphore 255 and interrupt 2047 and 0xDF; a valid and an invalid record with room; a full queue; CQ 7, XQ 11, and 12. -/
theorem witness_CommandInstructions :
    let s := withMem 0x1000 32 (0x0 + 1 * 2 ^ 32 + 0x2000 * 2 ^ 64) (withRegs [(1, 255), (2, 0x1000), (3, 2047), (4, 0xDF), (5, 7), (6, 11),
      (7, 12), (8, 1)] { atCommand with regs := [] })
    isCommand s.cur = true ∧ (s.rS 1).toNat < 256 ∧ (s.rS 0).toNat ≤ (semAt s 255).toNat ∧ (semAt s 255).toNat < (s.rS 8).toNat
    ∧ (s.rS 2).toNat % 32 = 0
    ∧ (s.rS 3).toNat < 2048 ∧ (s.rS 4).toNat < 0xE0 ∧ (extQueue s ((s.rS 0).toNat % 4096)).length < 16
    ∧ (s.rS 5).toNat < 8 ∧ 8 ≤ (s.rS 6).toNat ∧ (s.rS 6).toNat < 12 ∧ 12 ≤ (s.rS 7).toNat
    ∧ (parseLaunch (1 * 2 ^ 32 + 0x2000 * 2 ^ 64)).isSome = true ∧ parseLaunch 0 = none
    ∧ (parseCopy (0x1000 + 0x2000 * 2 ^ 64 + 1 * 2 ^ 128)).isSome = true ∧ parseCopy 0 = none
    ∧ (queueAt s 0 0).entries.length < 64
    ∧ 64 ≤ (queueAt (setQueue s 0 0 { Queue.reset with entries := List.replicate 64 (.copy 0 4096 1 0) }) 0 0).entries.length := by
  decide +kernel

/-- A `launch` held with its entry, at a queue with room and at a full one. -/
theorem witness_CommandInstructions_held :
    let e : QueueEntry := .copy 0 4096 1 0
    let s := atCommand.putHart { atCommand.hart with hold := .enqueue 0 0 e 5 }
    let full := setQueue s 0 0 { Queue.reset with entries := List.replicate 64 e }
    isCommand s.cur = true ∧ s.hart.hold = .enqueue 0 0 e 5 ∧ (queueAt s 0 0).entries.length < 64
    ∧ isCommand full.cur = true ∧ full.hart.hold = .enqueue 0 0 e 5 ∧ 64 ≤ (queueAt full 0 0).entries.length := by decide +kernel

/-- The current hart's pair names a table at 0x100000 that maps the first GiB to itself for reads, writes and fetches. -/
def mapped (s : State) : State :=
  withMem 0x100000 8 0x101001 (withMem 0x101000 8 0x102001 (withMem 0x102000 8 0xA1F (s.putHart { s.hart with root := 0x100 })))

/-- A task to which another is bound, one to which none is, and a hart with no task. -/
theorem witness_TaskExit :
    (let s := setTask (running fun t => t) 0 5 { Task.reset with state := .suspended, producer := some 0 }
     isCommand s.cur = false ∧ okB (endReady s) = true ∧ s.hart.task = some 0
     ∧ okIs (exitWrite s (s.rS 1)) (fun u => decide ((taskAt u 0 5).producer = some 0 ∧ (taskAt u 0 5).state = .suspended)) = true)
    ∧ (let s := running fun t => { t with done := 0x2000 }
       let s := mapped s
       okB (endReady s) = true ∧ okIs (exitWrite s (s.rS 1)) (fun u => u.dies.tasks.all fun p => p.2.producer.isNone) = true)
    ∧ (let s := withHart fun x => { x with level := .u }
       okB (endReady s) = true ∧ okB (exitWrite s (s.rS 1)) = true ∧ s.hart.task = none) := by decide +kernel

/-- A record whose second half lies in a page that nothing maps, its first half on a marked line. -/
theorem witness_TranslationMaintenance_fault : let s := setMemMark (mapped (withRegs [(1, 0x3FFFFFC0)] atS)) 0x3FFFFFC0 true
    ¬ s.hart.level = .u ∧ (s.rS 1).toNat % 64 = 0 ∧ okIs (hartPa s (s.rS 1) .read 64) (fun u =>
      match hartPa u.1 (s.rS 1 + 64) .read 64 with | .error (.trap _ x) => decide (x.code = 0x04) | _ => false) = true := by
  decide +kernel

/-- A command hart at S whose pair maps its record, before and after its first word is read, which caches the translation. -/
def atRecord : State := mapped (withRegs [(2, 0x1000)] atCommand)
def pastFirst : State := match hartPa atRecord 0x1000 .read 8 with | .ok r => r.1 | .error _ => atRecord

theorem of_okIs {α : Type} {x : Eff α} {p : α → Bool} (h : okIs x p = true) : ∃ a, x = .ok a ∧ p a = true := by
  cases x with
  | ok a => exact ⟨a, rfl, h⟩
  | error e => exact absurd h Bool.false_ne_true

theorem first_word : hartPa atRecord 0x1000 .read 8 = .ok (pastFirst, 0x1000) := by
  obtain ⟨a, ha, hp⟩ := of_okIs (show okIs (hartPa atRecord 0x1000 .read 8) (fun r => decide (r.2 = 0x1000)) = true by decide +kernel)
  rw [ha, pastFirst, ha, ← show a.2 = 0x1000 from of_decide_eq_true hp]

/-- Whether the cache keeps the translation or not, the next words are found and leave the same state. -/
theorem next_word (va : Word) (hv : va = 0x1008 ∨ va = 0x1010 ∨ va = 0x1018) :
    hartPa pastFirst va .read 8 = .ok (pastFirst, va.toNat) := by
  have drops : dropGone pastFirst (hartCtx pastFirst pastFirst.cur) va.toNat = pastFirst
      ∨ dropGone pastFirst (hartCtx pastFirst pastFirst.cur) va.toNat = setTlb pastFirst (hartCtx pastFirst pastFirst.cur).tlb
        ((tlbAt pastFirst (hartCtx pastFirst pastFirst.cur).tlb).filter fun t => !t.covers (hartCtx pastFirst pastFirst.cur).asid va.toNat) := by
    unfold dropGone
    split <;> simp
  have h : okIs (hartPa pastFirst va .read 8) (fun r => decide (r = (pastFirst, va.toNat))) = true := by
    unfold hartPa Machine.translate translateEntry
    dsimp only
    rcases drops with h | h <;> rw [h] <;> rcases hv with rfl | rfl | rfl <;> decide +kernel
  obtain ⟨a, ha, hp⟩ := of_okIs h
  rw [ha, of_decide_eq_true hp]

/-- A command hart at S reads its record through its pair. -/
theorem witness_CommandInstructions_record : isCommand atRecord.cur = true ∧ atRecord.hart.level = .s
    ∧ ∃ b, hartReadWords atRecord (atRecord.rS 2) 4 = .ok (pastFirst, b) := by
  refine ⟨by decide +kernel, by decide +kernel, ?_⟩
  have hs : wordPas atRecord .read 4 0x1000 = .ok (pastFirst, [0x1000, 0x1008, 0x1010, 0x1018]) := by
    have h0 : hartPa atRecord 4096#64 .read 8 = _ := first_word
    have h1 : hartPa pastFirst 4104#64 .read 8 = _ := next_word _ (.inl rfl)
    have h2 : hartPa pastFirst 4112#64 .read 8 = _ := next_word _ (.inr (.inl rfl))
    have h3 : hartPa pastFirst 4120#64 .read 8 = _ := next_word _ (.inr (.inr rfl))
    simp [wordPas, h0, h1, h2, h3, bind, Except.bind]
  have hr : okIs (readParts pastFirst [0x1000, 0x1008, 0x1010, 0x1018]) (fun _ => true) = true := by decide +kernel
  obtain ⟨b, hb, _⟩ := of_okIs hr
  have hp : partsReady pastFirst readReady [0x1000, 0x1008, 0x1010, 0x1018] = .ok () := by rfl
  exact ⟨b, by rw [show atRecord.rS 2 = 0x1000 by decide +kernel, hartReadWords, hs]; simp [hp, hb, bind, Except.bind]⟩

/-! Vector instructions -/

theorem ready_of (s : State) (hm : s.marks = Marks.reset)
    (h : !isCommand s.cur && !decide (s.hart.grant = 0) && decide (s.hart.updBusy = 0 ∧ s.hart.drainBusy = 0)
      && decide (s.hart.stopAt = none) && decide (s.hart.begun = none ∧ s.hart.kept = 0 ∧ s.hart.exch = none)
      && decide (s.hart.conf.fmode.toNat / 2 ^ 10 = 0)
      && decide (s.vl ≤ 1024 * grantCount s.hart.grant / s.ew) = true) : VReady s := by
  simp only [Bool.and_eq_true, Bool.not_eq_true', decide_eq_true_eq, decide_eq_false_iff_not] at h
  obtain ⟨⟨⟨⟨⟨⟨h1, h2⟩, h3⟩, h4⟩, hb, hk, hx⟩, h5⟩, h6⟩ := h
  exact ⟨h1, h2, h3, h4, ⟨hb, hk, hx⟩, fun _ _ _ _ => by simp [unlanded, hm, Marks.reset],
    fun _ _ _ _ => by simp [cellMark, hm, Marks.reset], h5, h6⟩

/-- 32 elements of 32 bits (VLMAX), 128 of 8 and 16 of 64, on one cluster, and none. -/
theorem witness_VReady : VReady (lanes 32 2) ∧ VReady (lanes 128 0) ∧ VReady (lanes 16 3) ∧ VReady (lanes 0 2) :=
  ⟨ready_of _ rfl (by decide +kernel), ready_of _ rfl (by decide +kernel), ready_of _ rfl (by decide +kernel),
    ready_of _ rfl (by decide +kernel)⟩

theorem witness_VectorIntegers : tyWidth .si32 = (lanes 32 2).ew ∧ (let o := vop 3 4 .si32 (.vr 5 0 .si8)
    let u := vop 3 4 .si32 nil2
    acceptedAll [.vadd o, .vsub o, .vrsub o, .vmul o, .vmulh o, .vdiv o, .vrem o, .vmin o, .vmax o, .vmacc o, .vand o, .vor o, .vxor o,
      .vsll o, .vsrl o, .vsra o, .vabs u, .vclz u, .vpopc u, .vmv u, .vid (vop 3 0 .si32 nil2), .vslide1Up u, .vslide1Dn u,
      .vmerge { o with mask := 1 }, .vadd { o with mod1 := true }] = true) := by decide +kernel

theorem witness_VectorFloats : tyWidth .fp32 = (lanes 32 2).ew ∧ max (tyWidth .fp16) (tyWidth .fp32) = (lanes 32 2).ew
    ∧ (let o := vop 3 4 .fp32 (.vr 5 0 .si8)
    let u := vop 3 4 .fp32 nil2
    acceptedAll [.vfadd o, .vfsub o, .vfmul o, .vfdiv o, .vfsqrt u, .vfmin o, .vfmax o, .vfmadd o, .vfnmsub o, .vexp2 u, .vlog2 u, .vrsqrt u,
      .vrecip u, .vtanh u, .vfsgn o, .vfsgnN o, .vfsgnX o, .vfclass u, .vpenny u, .vcvt (vop 3 4 .fp32 (.vr 0 0 .fp16)),
      .vcvt (vop 3 4 .si32 (.vr 0 0 .si16)), .vcvt (vop 3 4 .si32 (.vr 0 0 .fp32))] = true) := by decide +kernel

theorem witness_MaskInstructions : tyWidth .si32 = (lanes 32 2).ew ∧ tyWidth .fp32 = (lanes 32 2).ew
    ∧ acceptedAll [.vcmp .lt (vop 11 4 .si32 (.vr 5 0 .si8)), .vfcmp .lt (vop 0 4 .fp32 (.vr 5 0 .si8)),
      .mand (vop 0 1 .si8 (.vr 2 0 .si8)), .mor (vop 0 1 .si8 (.vr 2 0 .si8)), .mxor (vop 0 1 .si8 (.vr 2 0 .si8)),
      .mandn (vop 0 1 .si8 (.vr 2 0 .si8)), .mfill (VOp.mk 0 none 3 false false 1 0 .si8 nil2),
      .mpopc (VOp.mk 0 none 3 false false 0 1 .si8 nil2), .mfirst (VOp.mk 0 none 3 false false 0 1 .si8 nil2),
      .miota (vop 3 11 .si32 nil2)] = true := by decide +kernel

theorem witness_Permutations : tyWidth .si32 = (lanes 32 2).ew
    ∧ acceptedAll [.vslideup (vop 3 4 .si32 (.vi 31)), .vslideup (VOp.mk 0 none 3 false true 3 4 .si32 nil2),
      .vslidedn (vop 3 3 .si32 (.vi 31)), .vrgather (vop 3 4 .si32 (.vr 5 0 .si8)), .vcompress (vop 3 4 .si32 nil2),
      .vins (VOp.mk 0 none 3 false false 3 0 .si32 (.vi 31)), .vext (VOp.mk 0 none 3 false false 0 3 .si32 (.vi 31))] = true := by
  decide +kernel

theorem witness_Reductions : tyWidth .si32 = (lanes 32 2).ew ∧ tyWidth .fp32 = (lanes 32 2).ew ∧ (lanes 128 0).ew = 8
    ∧ (let o := fun t => VOp.mk 0 none 3 false false 0 4 t nil2
    acceptedAll [.vredsum (o .si32), .vredsum (o .fp32), .vredmax (o .fp32), .vredmin (o .si32), .vredand (o .si32), .vredor (o .si32),
      .vredbs (VOp.mk 0 none 3 false false 0 4 .mxe4m3 (.vr 5 0 .fp32))] = true) := by decide +kernel

/-- Every element of a list of addresses resolves to readable storage, or to storage. -/
def loadsOk (s : State) (act : List Nat) (n : Nat) (addr : Nat → Int) : Bool := act.all fun e =>
  okIs (resolve s false n n (addr e)) fun pa => (heldPlace pa n).isSome && okB (readReady s pa) && okB (readAt s pa n)
def storesOk (s : State) (act : List Nat) (n : Nat) (addr : Nat → Int) : Bool := act.all fun e =>
  okIs (resolve s true n n (addr e)) fun pa => (heldPlace pa n).isSome

/-- In the hart's own Vault up to its last byte, in a quad's, and in HBM; a `.put` on an empty line. -/
theorem witness_VaultLoads_and_VaultStores :
    let s := lanes 4 2
    let act := performed s 0
    let q := fun (sp : BitVec 2) => s.setConf { s.hart.conf with space := sp }
    act = [0, 1, 2, 3] ∧ tyWidth .si32 = s.ew ∧ s.space = 0
    ∧ acceptedAll [.vld (vop 4 0 .si32 (.vi 0)), .vlds (vop 4 0 .si32 (.vi 4)), .vldx (vop 4 0 .si32 (.vr 5 0 .ui32)),
      .vst (vop 4 0 .si32 (.vi 0)), .vsts (vop 4 0 .si32 (.vi 4)), .vstx (vop 4 0 .si32 (.vr 5 0 .ui32)),
      .vld { vop 4 0 .si32 (.vi 0) with mod0 := true }, .vst { vop 4 0 .si32 (.vi 0) with mod0 := true }] = true
    ∧ loadsOk s act 4 (fun e => 0xFFFFF0 + (e * 4 : Nat)) = true ∧ storesOk s act 4 (fun e => 0xFFFFF0 + (e * 4 : Nat)) = true
    ∧ loadsOk (q 1) act 4 (fun e => 0x1FFFFF0 + (e * 8 : Nat)) = true ∧ storesOk (q 1) act 4 (fun e => 0x1FFFFF0 + (e * 8 : Nat)) = true
    ∧ loadsOk (q 2) act 4 (fun e => 0x1000 - (e * 4 : Nat)) = true ∧ storesOk (q 2) act 4 (fun e => 0x1000 - (e * 4 : Nat)) = true
    ∧ (let t := setLineEmpty s 0 0x1000 true
       act.all (fun e => lineReadsEmpty t 0 (0x1000 + e * 4)) = true ∧ storesOk t act 4 (fun e => 0x1000 + (e * 4 : Nat)) = true) := by
  decide +kernel

/-- One block of 32 elements of a segment form in the hart's own Vault. -/
theorem witness_VaultSegments : let s := withRegs [(3, 0x1000)] (lanes 32 0)
    let o := VOp.mk 0 none 3 false false 4 0 .mxe4m3 (.vr 0 5 .si8)
    (Instr.vldseg o).wf = true ∧ (Instr.vstseg o).wf = true ∧ s.ew = 8 ∧ s.vsi % 32 = 0
    ∧ okIs (segParts s o false 0) (fun ps => okB (partsReady s readReady ps) && okB (readParts s ps)) = true
    ∧ okIs (segParts s o true 0) (fun ps => ps.all fun pa => (heldPlace pa 8).isSome) = true := by decide +kernel

/-! The Square, attention and convoys -/

/-- Spans of a list of units can be read. -/
def unitsOk (s : State) (us : List Nat) (spans : Nat → List (Nat × Nat)) : Bool :=
  us.all fun u => okB (spansReady s (spans u)) && okB (linesClean s (spanLines (spans u)))

/-- Bytes of the own Vault can be read where no line is empty or marked. -/
theorem vaultReadable_of (s : State) (l : List (Nat × Nat)) (hm : s.marks = Marks.reset) (hs : s.slots = [])
    (h : l.all (fun p => decide (p.1 + p.2 ≤ 2 ^ 24)) = true) : VaultReadable s l := by
  intro p hp
  refine ⟨by simpa using List.all_eq_true.1 h p hp, fun q _ _ => ⟨?_, ?_⟩⟩
  · simp [lineReadsEmpty, clrOwes, lineEmpty, hm, hs, Marks.reset]
  · simp [vaultMark, hm, Marks.reset]

/-- Updates of depth 1 (`mop`), 8, and 32 with selected operands, a block form among them. -/
theorem witness_SquareUpdates : let s := withRegs [(4, 0x1000), (5, 0x2000), (6, 8), (7, 32)] (lanes 4 2)
    let o := SqOp.mk 0 .e4m3 .e4m3 4 5 6 0 3 none 0
    let p := { o with sc := 7 }
    let m := { o with sc := 0 }
    let b := { o with sc := 7, ta := .mxe4m3, tb := .mxe4m3 }
    let good := fun (d : Update) => d.depthFits = true ∧ d.sa % 8 = 0 ∧ d.sb % 8 = 0
      ∧ ∀ u ∈ List.range d.units, (d.reads s u).all (fun p => decide (p.1 + p.2 ≤ 2 ^ 24)) = true
    s.marks = Marks.reset ∧ s.slots = [] ∧ tyWidth (accTy o.ta) = s.ew ∧ tyWidth (accTy b.ta) = s.ew
    ∧ acceptedAll [.mop m, .mmkO o, .mmkF o, .mmksO p, .mmksF p, .mmkF b] = true
    ∧ good ⟨m, true, false, 1, 0x1000, 0x2000⟩ ∧ good ⟨o, true, false, 8, 0x1000, 0x2000⟩ ∧ good ⟨o, false, false, 8, 0x1000, 0x2000⟩
    ∧ good ⟨p, true, true, 32, 0x1000, 0x2000⟩ ∧ good ⟨p, false, true, 32, 0x1000, 0x2000⟩
    ∧ good ⟨b, false, false, 32, 0x1000, 0x2000⟩ := by decide +kernel

/-- Rows that move, and a drain with multipliers whose last byte is the Vault's. -/
theorem witness_SquareMoves : let s := withRegs [(8, 0xFFFE3C), (9, 64 * 2 ^ 16), (10, 0x2000)] (lanes 4 2)
    let v := SqOp.mk 0 .si32 .si8 0 0 9 0 3 none 40
    let d := SqOp.mk 0 .si32 .si8 8 10 9 0 3 none 0x40
    let e := { d with gm1 := 7 }
    tyWidth .si32 = s.ew ∧ acceptedAll [.mzero (sqop .si8 .si8 0 3), .mcolGet v, .mdiagGet v, .mcolPut v, .mdiagPut v, .mdrain d, .mdrain e] = true
    ∧ (s.rS d.sa).toNat % 1 = 0 ∧ (s.rS d.sc).toNat / 2 ^ 16 % 2 ^ 24 % 1 = 0 ∧ d.sqmod.getLsbD 6 = true ∧ (s.rS d.sb).toNat % 128 = 0
    ∧ (s.rS d.sb).toNat < 2 ^ 21 ∧ s.marks = Marks.reset ∧ s.slots = []
    ∧ ((activeCols s d.mask).map fun x => (multPlace s d x, 4)).all (fun p => decide (p.1 + p.2 ≤ 2 ^ 24)) = true
    ∧ (∀ i ∈ List.range 8, ∀ x ∈ activeCols s d.mask, drainPlace s e i x + 1 ≤ 2 ^ 24)
    ∧ drainPlace s e 7 3 + 1 = 2 ^ 24 := by decide +kernel

/-- Each attention instruction, a product over one unit among them. -/
theorem witness_Attention : let s := withRegs [(7, 8 * 2 ^ 32 + 0x1000)] (lanes 4 2)
    let p := VOp.mk 0 none 7 false false 40 1 .pny (.vr 30 0 .fp32)
    s.ew = 32 ∧ isCommand s.cur = false
    ∧ acceptedAll [.akvmask (VOp.mk 0 none 7 false true 0 0 .fp32 (.vr 3 3 .si8)), .asmax (vop 0 0 .fp32 (.vr 30 3 .si8)),
      .apexp (vop 4 0 .fp32 (.vr 30 3 .si8)), .afin (vop 0 1 .fp32 (.vr 30 3 .si8)), .apv p,
      .amode (VOp.mk 0 none 3 true true 0 0 .si8 (.vr 45 23 .si8)), .amode (VOp.mk 0 none 3 false true 0 0 .si8 nil2)] = true
    ∧ 1 ≤ (s.rS p.ss).toNat / 2 ^ 32 % 2 ^ 9 ∧ (s.rS p.ss).toNat / 2 ^ 32 % 2 ^ 9 ≤ 32 * grantCount s.hart.grant
    ∧ (s.rS p.ss).toNat % 2 ^ 24 % 8 = 0
    ∧ unitsOk s (List.range (apvUpd s p).units) ((apvUpd s p).bSpans s) = true := by decide +kernel

/-- Run slots one after the other, as `SlotsRun` says. -/
def slotsRun : List VProg → State → Option State
  | [], s => some s
  | p :: ps, s =>
    match p.issue s, runBody p.body p.kept s 8 with
    | .ok (), .ok u =>
      (slotsRun ps (u.putHart { u.hart with
        pc := s.hart.pc
        updBusy := s.hart.updBusy
        drainBusy := s.hart.drainBusy })).map fun v => v.putHart { v.hart with
          updBusy := v.hart.updBusy ||| u.hart.updBusy
          drainBusy := v.hart.drainBusy ||| u.hart.drainBusy }
    | _, _ => none

theorem slotsRun_sound (l : List VProg) : ∀ s t, slotsRun l s = some t → SlotsRun l s t := by
  induction l with
  | nil => intro s t h; simpa [slotsRun, SlotsRun, eq_comm] using h
  | cons p ps ih =>
    intro s t h
    simp only [slotsRun] at h
    split at h
    · rename_i u h1 h2
      simp only [Option.map_eq_some_iff] at h
      obtain ⟨v, hv, rfl⟩ := h
      exact ⟨u, v, h1, h2, ih _ _ hv, rfl⟩
    · cases h

/-- `vfmul.fp32 v3, v3, 0.5` on VFMA (2) and `vadd.si32 v6, v4, v5` on VALU0 (0). -/
theorem witness_Convoys : let s := lanes 4 2
    let slots : List Word := [0x00003F00C830D205, 0x00002800C4610400]
    (Instr.convoy 2 0x10000 slots).wf = true ∧ isCommand s.cur = false ∧ ¬ s.hart.grant = 0 ∧ s.vsi = 0 ∧ s.hart.stopAt = none
    ∧ (s.hart.begun = none ∧ s.hart.kept = 0 ∧ s.hart.exch = none)
    ∧ okIs (checkSlots s 0x10000 0 [] slots) (fun cs => okB (rowsFree s (cs.map fun c => c.prog.rd ++ c.prog.wr).flatten)
        && (slotsRun (cs.map fun c => c.prog) s).isSome) = true := by decide +kernel

/-- A command hart, a width other than `vew`, no cluster; a marked source; a saturation enabled to trap. -/
theorem witness_VectorTraps : let o := vop 3 4 .si32 (.vr 5 0 .si8)
    isCommand atCommand.cur = true
    ∧ (isCommand State.reset.cur = false ∧ ¬ tyWidth o.ta = State.reset.ew)
    ∧ (let s := withHart fun x => { x with conf := { x.conf with vew := 2 } }
       tyWidth o.ta = s.ew ∧ s.hart.grant = 0)
    ∧ (let s := { lanes 4 2 with marks := { Marks.reset with cell := [(4 * 128, true)] } }
       elemMarked s o.va.toNat 32 s.vsi = true ∧ s.vsi < s.vl ∧ s.hart.active o.mask s.vsi = true)
    ∧ (let s := lanes 4 2
       let s := putElem (putElem (s.setConf { s.hart.conf with fmode := 0xFC00 }) 4 32 0 0x7FFFFFFF false) 5 32 0 1 false
       let f := (fitInt .si32 true (intOf .si32 (elemAt s 4 32 0) + intOf .si32 (elemAt s 5 32 0))).2
       elemMarked s 4 32 0 = false ∧ okIs (opndBits s { o with mod1 := true } 0) (fun v => v == 1) = true ∧ ¬ s.hart.trapping f = 0)
    ∧ isFloat o.ta = false := by decide +kernel

/-- Marks at the first source, the second, the accumulator, and beside the element of the slides; at an inactive element. -/
theorem witness_VectorTraps_poison : let o := vop 3 4 .si32 (.vr 5 0 .si8)
    let s := fun (r e : Nat) => (lanes 4 2).setConf { (lanes 4 2).hart.conf with vsi := BitVec.ofNat 13 e }
      |> fun s => setCellMark s 0 r 0 true
    tyWidth o.ta = (s 4 0).ew ∧ (s 4 0).hart.begun = none ∧ (s 4 0).hart.kept = 0 ∧ (s 4 0).hart.exch = none
    ∧ o.src = .vr 5 0 .si8 ∧ o.mod0 = false ∧ (s 4 0).hart.active o.mask 0 = true
    ∧ elemMarked (s 4 0) 4 32 0 = true
    ∧ (¬ elemMarked (s 5 0) 4 32 0 = true ∧ elemMarked (s 5 0) 5 32 0 = true)
    ∧ (¬ elemMarked (s 3 0) 4 32 0 = true ∧ ¬ elemMarked (s 3 0) 5 32 0 = true ∧ elemMarked (s 3 0) 3 32 0 = true)
    ∧ (0 < (s 4 1).vsi ∧ elemMarked (s 4 1) 4 32 ((s 4 1).vsi - 1) = true)
    ∧ ((s 4 0).vsi + 1 < (s 4 0).vl ∧ elemMarked (s 4 0) 4 32 ((s 4 0).vsi + 1) = true)
    ∧ (s 4 0).hart.active 1 0 = false := by decide +kernel

theorem witness_VectorTraps_landed : ∀ row p, unlanded (lanes 4 2) 0 row p = false := fun _ _ => rfl

/-! Streams -/

/-- Affine blocks of 8 elements of 32 bits and of 8 bits, an indexed block, and one with a bad kind. -/
def affine32 : Nat := 4 * 2 ^ 8 + 1 * 2 ^ 24 + 8 * 2 ^ 128
def affine8 : Nat := 2 * 2 ^ 8 + 1 * 2 ^ 24 + 8 * 2 ^ 128
def indexed32 : Nat := 1 + 4 * 2 ^ 8 + 8 * 2 ^ 32 + 2 * 2 ^ 192

/-- Hart 0 with one slot. -/
def withSlot (k : Nat) (x : Slot) (s : State) : State := setSlot s s.cur k x

/-- Each form with its slot IDLE or DONE, a readable and legal block, aligned bases, and every group landed; a RUNNING and
a FAULTED slot, and a misplaced block. -/
theorem witness_StreamIssue : let s := fun b => withMem 0x1000 256 b (withRegs [(8, 0x2000), (9, 0x1000), (10, 0x1001)] (lanes 8 2))
    let o := StOp.mk 0 3 8 0 9 0
    isCommand (s affine32).cur = false ∧ ¬ (s affine32).hart.grant = 0
    ∧ acceptedAll [.sld o, .sst o, .sldv (StOp.mk 0 3 8 9 4 0), .sgather o, .sscatter o, .spaged o, .sfill { o with sa := 0 },
      .sfillM { o with smod := 2 }] = true
    ∧ (slotAt (s affine32) 0 3).state = .idle ∧ ((s affine32).rS 9).toNat % 64 = 0 ∧ ¬ ((s affine32).rS 10).toNat % 64 = 0
    ∧ ([(0, affine32), (1, affine32), (2, affine32), (3, indexed32), (4, indexed32), (9, affine32)].all fun p =>
        okIs (readBlock (s p.2) 0x1000) fun r => decide (blockN p.1 (s p.2).vl (s p.2).hart.conf.vew.toNat r.2 = some 8)
          && okB (basesAligned r.1 p.1 (fieldAt r.2 1 1) false 0x2000 0)) = true
    ∧ okIs (readBlock (s 7) 0x1000) (fun r => decide (blockN 0 8 2 r.2 = none)) = true
    ∧ (slotAt (withSlot 3 { Slot.reset with state := .running } (s 0)) 0 3).state = .running
    ∧ (slotAt (withSlot 3 { Slot.reset with state := .faulted } (s 0)) 0 3).state = .faulted
    ∧ (slotAt (withSlot 3 { Slot.reset with state := .done } (s 0)) 0 3).state = .done := by decide +kernel

theorem witness_StreamIssue_landed : ∀ r c, unlanded (lanes 8 2) 0 r c = false := fun _ _ => rfl

/-- Named slots over, RUNNING and FAULTED (0 and 15). -/
theorem witness_StreamControl :
    let run := withSlot 15 { Slot.reset with state := .running } State.reset
    let bad := withSlot 15 { Slot.reset with state := .faulted } State.reset
    let named := (List.range 16).filter fun j => (0x8001 : BitVec 32).getLsbD j
    named = [0, 15] ∧ named.all (fun j => decide (¬ (slotAt State.reset 0 j).state = .running ∧ ¬ (slotAt State.reset 0 j).state = .faulted)) = true
    ∧ (slotAt run 0 15).state = .running ∧ (slotAt bad 0 15).state = .faulted
    ∧ named.all (fun j => decide ((slotAt bad 0 j).state = .faulted → 15 ≤ j)) = true := by decide +kernel

/-- An area that is saved and loaded, and one that holds a FAULTED slot. -/
theorem witness_StreamControl_areas :
    (let s := regsOnly [(4, 0x1000)]
     ¬ s.hart.level = .u ∧ ¬ (slotAt s 0 0).state = .running ∧ (s.rS 4).toNat % 64 = 0
     ∧ okIs (chunkPas (s.rS 4) s .write 8 (s.rS 4)) (fun r => (List.range 8).all fun i => (heldPlace (r.2.getD i 0) 64).isSome) = true
     ∧ okIs (chunkPas (s.rS 4) s .read 8 (s.rS 4)) (fun r => okB (partsReady r.1 readReady r.2)
         && okIs (readArea r.1 r.2) fun b => decide (savedState b = some .idle)) = true)
    ∧ (let s := withMem 0x1000 512 (3 + affine32 * 2 ^ 2048) (regsOnly [(4, 0x1000)])
       okIs (chunkPas (s.rS 4) s .read 8 (s.rS 4)) (fun r => okB (partsReady r.1 readReady r.2)
         && okIs (readArea r.1 r.2) fun b => decide (savedState b = some .faulted)) = true) := by decide +kernel

/-- A window that opens, an element of a plain load at M, one of a reissue with a higher element done over its bytes, a window
that ends with a fault, and one of an ordered slot that stops at a fault. -/
theorem witness_StreamEngine :
    let x : Slot := { Slot.reset with state := .running, mbase := 0x2000, vbase := 0x100, n := 8, level := .m, block := affine32 }
    let y : Slot := { x with winOpen := true }
    let z : Slot := { y with next := 8, faults := [⟨0x2000, 0, 0, 0, 1⟩], fmask := 1 }
    let lap := { y with rvalid := true, residue := 1 }
    let ord := { z with next := 1, bits := 0x40000 }
    let vaultAt := fun (w : Slot) (f : Nat) => (w.vbase.toNat : Int) + (affineElem w.block w.ndim f).2.1 * ((w.wbits / 8 : Nat) : Int)
    (let s := withSlot 3 x State.reset
     (slotAt s 0 3).state = .running ∧ (slotAt s 0 3).winOpen = false ∧ windowHeld s 0 3 = false)
    ∧ (y.next < y.winEnd ∧ y.pending 0 = true ∧ y.func = 0 ∧ y.flags / 2 % 2 = 0 ∧ 8 ≤ y.wbits ∧ (affineElem y.block y.ndim 0).2.2 = false
      ∧ ((y.mbase.toNat + (affineElem y.block y.ndim 0).1 * ((y.wbits / 8 : Nat) : Int)) % 2 ^ 64).toNat % (y.wbits / 8) = 0
      ∧ inHbm 0x2000 4 = true ∧ 0 ≤ vaultAt y 0 ∧ (vaultAt y 0).toNat + 4 ≤ 2 ^ 24
      ∧ markAny (withSlot 3 y State.reset) 0x2000 4 = false)
    ∧ (lap.rvalid = true ∧ lap.pending 0 = true ∧ lap.pending 1 = false ∧ 1 < lap.winEnd ∧ lap.s0 ≤ 1
      ∧ vaultAt lap 1 = vaultAt lap 0)
    ∧ (z.state = .running ∧ z.winOpen = true ∧ ¬ z.faults = [] ∧ z.winEnd ≤ z.next)
    ∧ (ord.state = .running ∧ ord.winOpen = true ∧ ¬ ord.faults = [] ∧ ord.ordered = true) := by decide +kernel

/-- Hart 0's slot 3 in a window at M: a form (its FUNC and SMOD), its block, and what else is set. -/
def streaming (func smod : Nat) (b : Nat) (f : Slot → Slot) : State :=
  withSlot 3 (f { Slot.reset with
    state := .running
    winOpen := true
    bits := BitVec.ofNat 64 (func * 2 ^ 18 + smod)
    mbase := 0x2000
    vbase := 0x400
    n := 8
    level := .m
    vl := 8
    vew := 2
    grant := 1
    block := b }) State.reset

/-- A block whose one dimension of 8 steps by `sm` elements in memory and `sv` in the Vault, of element size `es`. -/
def stepping (es flags sm sv : Nat) : Nat :=
  es * 2 ^ 8 + flags * 2 ^ 16 + 1 * 2 ^ 24 + 8 * 2 ^ 128 + sm * 2 ^ 256 + sv * 2 ^ 320

/-- Indexes of two bytes at Vault offset 0x800 into rows of four bytes, those from 5 up clipped; a paged block of rows of
8 bytes, two to a pool block, its pool at 0x10000. -/
def indexedRows : Nat := 1 + 4 * 2 ^ 8 + 0x800 * 2 ^ 128 + 1 * 2 ^ 192 + 4 * 2 ^ 224 + 5 * 2 ^ 256 + 1 * 2 ^ 320
def pagedRows : Nat := 2 + 4 * 2 ^ 8 + 0x10000 * 2 ^ 128 + 64 * 2 ^ 192 + 32 * 2 ^ 256 + 128 * 2 ^ 320 + 8 * 2 ^ 384 + 2 * 2 ^ 400 + 2 * 2 ^ 416 + 8 * 2 ^ 480

/-- What every clause about slot 3's next element asks. -/
def elemAsked (s : State) : Bool :=
  let x := slotAt s 0 3
  let f := fun (o n : Nat) => x.block / 2 ^ (8 * o) % 2 ^ (8 * n)
  decide (x.state = .running) && x.winOpen && decide (x.next < x.winEnd) && (!x.ordered || decide (x.faults = []))
    && x.pending x.next && (!(x.func == 3 || x.func == 4 || x.func == 5) || decide (8 ≤ x.wbits))
    && (!(x.func == 5) || decide (8 * f 0x30 2 % x.wbits = 0)) && (!(x.flags / 2 % 2 == 1) || decide (x.wbits = 6))

/-- Its work with index `ix`, and the places of its memory side when it makes accesses there. -/
def workIs (s : State) (ix : Nat) (p : Slot → StreamWork → List (Nat × Nat) → Bool) : Bool :=
  let x := slotAt s 0 3
  let w := x.work ix x.next
  elemAsked s && if w.clip || (decide (x.func = 9) && x.loads) then p x w []
    else !w.memLow && decide ((w.mem 0).1 % (w.unit / 8) = 0)
      && match memPieces s 0 3 (if x.stores then .write else .read) (if x.stores then 1 else 0) w.parts with
        | .ok r => p x w r.2
        | .error _ => false

def inVault (w : StreamWork) : Bool :=
  !w.vaultLow && (List.range w.width).all fun i => decide (0 ≤ (w.vault i).1) && decide ((w.vault i).1 < 2 ^ 24)

def loadReady (s : State) (ix : Nat) : Bool :=
  workIs s ix fun x w pas => x.loads && inVault w && pas.all fun p => inHbm p.1 p.2

def storeReady (s : State) (ix : Nat) : Bool :=
  workIs s ix fun x w pas => x.stores && !w.clip && (x.fillMem || (inVault w
    && (List.range w.width).all fun i => !lineReadsEmpty s 0 (w.vault i).1.toNat)) && pas.all fun p => inHbm p.1 p.2

/-- The index that slot 3's element reads is `ix`. -/
def indexReads (s : State) (ix : Nat) : Bool :=
  let x := slotAt s 0 3
  let n := 2 ^ (x.block / 2 ^ 192 % 256)
  let a := x.block / 2 ^ 128 % 2 ^ 64 + x.next * n
  decide (a + n ≤ 2 ^ 24) && !lineReadsEmpty s 0 a && !vaultMark s 0 a && decide (ix = gather (fun j => vaultByte s 0 (a + j)) 0 n)

/-- The memory side does not let slot 3's element be reached: `p` of its work, and of what its accesses answer when they are made. -/
def sideStops (s : State) (ix : Nat) (p : StreamWork → Bool) (q : ElemStop → Bool) : Bool :=
  let x := slotAt s 0 3
  let w := x.work ix x.next
  elemAsked s && !w.clip && !(decide (x.func = 9) && x.loads) && p w
    && match memPieces s 0 3 (if x.stores then .write else .read) (if x.stores then 1 else 0) w.parts with
      | .ok _ => q (.fault s [])
      | .error e => q e

/-- Virtual page 2's walk begins at 0x100000, whose entry a migration holds. -/
def held4K (s : State) : State := { s with dies := { s.dies with migs := [(0, [⟨0, 0, 0x2000, 0x7800, 0x100000, 0x300000, 1, 1, 0x200000, 0, []⟩])] } }

/-- At S: a page that the window has translated, one that the tables map, one that nothing maps, one whose entry is held; an
access that a window of Plaza refuses. -/
theorem witness_StreamEngine_access :
    let s := streaming 0 0 (stepping 4 0 1 1) fun x => { x with level := .s, root := 0x100 }
    let tr := fun (s : State) (p : XRes → Bool) => p (translateEntry s ⟨.s, 0x100, (slotAt s 0 3).asid, tlbOf 0⟩ 0x2000 .read).2
    ((slotAt s 0 3).level = .s ∧ assoc 2 (slotAt s 0 3).pages = none
      ∧ assoc 2 (slotAt (streaming 0 0 0 fun x => { x with pages := [(2, .fault 0 0)] }) 0 3).pages = some (.fault 0 0))
    ∧ tr (mapped s) (fun r => match r with | .ok pa _ _ _ => decide (pa = 0x2000) && pageBacked s pa | _ => false) = true
    ∧ tr s (fun r => match r with | .fault _ _ => true | _ => false) = true
    ∧ tr (setMemMark s 0x100000 true) (fun r => match r with | .poison _ => true | _ => false) = true
    ∧ tr (held4K s) (fun r => match r with | .held => true | _ => false) = true
    ∧ (slotPage (held4K s) 0 3 2 .read).2 = none
    ∧ (match (slotPage s 0 3 2 .read).2 with | some (.fault _ _) => true | _ => false) = true
    ∧ (match (slotPage (mapped s) 0 3 2 .read).2 with | some (.ok base _ _) => decide (base = 0x2000) | _ => false) = true
    ∧ windowSub s .s 0 .read 0x2000 4 = none ∧ windowSub s .m 0 .read (2 ^ 51 - 4096) 4 = some 0 := by decide +kernel

/-- A pool block's entry that is known and one that is read; an index outside the Vault, on an empty line, on a marked one; an
entry whose page is held, and one that nothing maps. -/
theorem witness_StreamEngine_index :
    let ix := fun f => streaming 3 0 indexedRows f
    let far := streaming 3 0 (indexedRows + (2 ^ 24 - 1 - 0x800) * 2 ^ 128) fun x => x
    let atS := streaming 5 0 pagedRows fun x => { x with level := .s, root := 0x100 }
    let entry := fun (s : State) (p : ElemStop → Bool) => match tableEntry s 0 3 0 with | .error e => p e | .ok _ => false
    (assoc 1 (slotAt (streaming 5 0 pagedRows fun x => { x with table := [(1, 7)] }) 0 3).table = some 7
      ∧ assoc 1 (slotAt (streaming 5 0 pagedRows fun x => x) 0 3).table = none
      ∧ (match memPieces (streaming 5 0 pagedRows fun x => x) 0 3 .read 2 [(0x2004, 4)] with
        | .ok r => decide (r.2 = [(0x2004, 4)]) && inHbm 0x2004 4 | .error _ => false) = true)
    ∧ (elemAsked far = true ∧ 2 ^ 24 < (slotAt far 0 3).block / 2 ^ 128 % 2 ^ 64 + 2)
    ∧ (elemAsked (ix fun x => x) = true ∧ lineReadsEmpty (setLineEmpty (ix fun x => x) 0 0x800 true) 0 0x800 = true
      ∧ vaultMark (setVaultMark (ix fun x => x) 0 0x800 true) 0 0x800 = true)
    ∧ indexReads (ix fun x => { x with next := 2 }) 0 = true ∧ indexReads (setVaultByte (ix fun x => x) 0 0x800 5) 5 = true
    ∧ (elemAsked atS = true ∧ entry (held4K atS) (fun e => match e with | .wait _ => true | _ => false) = true
      ∧ entry atS (fun e => match e with | .fault _ l => decide (l.length = 1) | _ => false) = true) := by decide +kernel

/-- A negative packed index, a base that is not aligned, a page that is held and one that nothing maps; on the Vault side a negative
packed index, one of lane words, and a byte past the end. -/
theorem witness_StreamEngine_sides :
    let plain := stepping 4 0 1 1
    let back := 2 ^ 64 - 1
    let low := fun flags es sm sv => streaming 0 0 (stepping es flags sm sv) fun x => { x with next := 1 }
    sideStops (low 0 0 back 1) 0 (fun w => w.memLow) (fun _ => true) = true
    ∧ sideStops (streaming 0 0 plain fun x => { x with mbase := 0x2001 }) 0
        (fun w => !w.memLow && !decide ((w.mem 0).1 % (w.unit / 8) = 0)) (fun _ => true) = true
    ∧ sideStops (held4K (streaming 1 0 plain fun x => { x with level := .s, root := 0x100 })) 0 (fun w => !w.memLow)
        (fun e => match e with | .wait _ => true | _ => false) = true
    ∧ sideStops (streaming 1 0 plain fun x => { x with level := .s, root := 0x100 }) 0 (fun w => !w.memLow)
        (fun e => match e with | .fault _ l => decide (l.length = 1) | _ => false) = true
    ∧ workIs (low 0 0 1 back) 0 (fun _ w _ => w.vaultLow) = true ∧ workIs (low 2 1 1 back) 0 (fun _ w _ => w.vaultLow) = true
    ∧ workIs (streaming 0 0 plain fun x => { x with vbase := 0xFFFFFE }) 0
        (fun _ w _ => !w.vaultLow && decide (2 ^ 24 ≤ (w.vault 16).1)) = true := by decide +kernel

/-- Elements of each form that loads, at 32 bits, packed, in lane words, and one of a reissue over which a higher element lies. -/
theorem witness_StreamEngine_loads :
    let at2 := fun (x : Slot) => { x with next := 2 }
    loadReady (streaming 0 0 (stepping 4 0 1 1) at2) 0 = true ∧ loadReady (streaming 0 0 (stepping 0 0 1 1) at2) 0 = true
    ∧ loadReady (streaming 0 0 (stepping 1 2 1 1) at2) 0 = true ∧ loadReady (streaming 3 0 indexedRows at2) 0 = true
    ∧ loadReady (streaming 5 0 pagedRows fun x => { x with table := [(0, 1)] }) 1 = true
    ∧ loadReady (streaming 9 0 (stepping 4 0 0 1) fun x => x) 0 = true
    ∧ loadReady (streaming 3 0 indexedRows fun x => x) 5 = true
    ∧ (let x := slotAt (streaming 0 0 (stepping 4 0 1 0) fun x => { x with rvalid := true, residue := 5 }) 0 3
       x.pending 0 = true ∧ x.pending 1 = false ∧ 1 < x.winEnd ∧ x.s0 ≤ 1 ∧ (x.work 0 1).vault 0 = (x.work 0 0).vault 0)
    ∧ (slotAt (streaming 0 0 (stepping 4 0 1 0) fun x => { x with rvalid := true, residue := 5, next := 1 }) 0 3).pending 1 = false := by
  decide +kernel

/-- `sldv` with its row free and in use; the forms that store, packed too, from full lines and from an empty one, clipped, and over a
higher element's bytes, noted or told by the indexes. -/
theorem witness_StreamEngine_stores :
    let at2 := fun (x : Slot) => { x with next := 2 }
    let v := streaming 2 0 (stepping 4 0 1 1) at2
    let st := streaming 1 0 (stepping 4 0 1 1) fun x => x
    (workIs v 0 (fun x w pas => decide (x.vd < 48) && decide (x.wbits = ewOf x.vew) && decide ((clustersOf x.grant)[0]? = some 0)
        && (pas.all fun p => inHbm p.1 p.2) && !w.clip) = true
      ∧ (v.hartAt 0).heldRow 0 = false ∧ ((v.setHart 0 { v.hartAt 0 with updBusy := 1 }).hartAt 0).heldRow 0 = true)
    ∧ storeReady st 0 = true ∧ storeReady (streaming 1 0 (stepping 0 0 1 1) at2) 0 = true
    ∧ storeReady (streaming 4 0 indexedRows fun x => x) 0 = true ∧ storeReady (streaming 9 2 (stepping 4 0 1 0) fun x => x) 0 = true
    ∧ workIs (streaming 4 0 indexedRows fun x => x) 5 (fun x w _ => x.stores && w.clip) = true
    ∧ workIs (setLineEmpty st 0 0x400 true) 0 (fun x w _ => x.stores && !w.clip && inVault w
        && lineReadsEmpty (setLineEmpty st 0 0x400 true) 0 (w.vault 0).1.toNat) = true
    ∧ storeReady (streaming 4 0 indexedRows fun x => { x with wrote := some [(1, 8 * 0x2000, 32)] }) 0 = true
    ∧ (let s := streaming 4 0 indexedRows fun x => { x with rvalid := true, residue := 1, wrote := none }
       let x := slotAt s 0 3
       storeReady s 0 = true ∧ x.pending 1 = false ∧ (x.work 0 1).mem 0 = (x.work 0 0).mem 0 ∧ (x.work 0 1).clip = false) := by decide +kernel

/-! Avenues and the Assayer -/

/-- Die 0's pipeline 0 ACTIVE at generation 1 with three avenues of records of 64, 16 and 64 bytes at 0x200000. -/
def withAvenues (cap : Nat) (s : State) : State :=
  { s with dies := { s.dies with pipes := [(0, { Pipe.reset with
      gen := 1
      state := 1
      arena := 0x200000
      avs := [⟨64, cap⟩, ⟨16, cap⟩, ⟨64, cap⟩] })] } }

/-- A hart with avenue 0's handle, which avenue is empty, has one record, is full; a handle of another generation. -/
theorem witness_Avenues : let s := withRegs [(4, 0x1000), (5, 2)] (withAvenues 4 (withHart fun x => { x with conf := { x.conf with avh := 1 } }))
    let one := setAvCounters s 0 0 0 0 1
    let full := setAvCounters s 0 0 0 0 4
    let apart := fun (a n b m : Nat) => decide (a + n ≤ b ∨ b + m ≤ a)
    isCommand s.cur = false ∧ avOf s 1 = some (0, 0) ∧ avOf s 2 = none ∧ (s.rS 4).toNat % 16 = 0
    ∧ (avTail s 0 0 0 - avHead s 0 0 0 = 0 ∧ avTail one 0 0 0 - avHead one 0 0 0 = 1
      ∧ avTail full 0 0 0 - avHead full 0 0 0 = (avDesc s 0 0 0).cap) ∧ (pipeAt full 0 0).state = 1
    ∧ stoppingInstance s s.cur 0 = false ∧ onLeavingCore s s.cur = false
    ∧ okIs (partPas s .read 4 (s.rS 4)) (fun r => r.2.all fun b => inHbm b 16 && apart b 16 (recordAt s 0 0 0 0) 64
        && apart b 16 (stampAt s 0 0 0 0) 8 && !markAny s b 16) = true
    ∧ okIs (partPas one .write 4 (s.rS 4)) (fun r => decide (r.2.Pairwise fun a b => a + 16 ≤ b ∨ b + 16 ≤ a)) = true
    ∧ inHbm (recordAt s 0 0 0 3) 64 = true ∧ inHbm (stampAt s 0 0 0 3) 8 = true
    ∧ apart (recordAt s 0 0 0 3) 64 (stampAt s 0 0 0 0) 8 = true ∧ markAny one (recordAt s 0 0 0 0) 64 = false
    ∧ (let h := { one with harts := [(9, { Hart.reset 9 with hold := .avenue false 1 0x1000 6 })] }
       (h.hartAt 9).hold = .avenue false 1 0x1000 6 ∧ okB (avStep false false 1 0x1000 6 { h with cur := 9 }) = true) := by
  decide +kernel

/-- A method of two stages and order 2 (the midpoint rule), with the controller at 1. -/
def midpoint : Nat :=
  2 + 2 * 2 ^ 8 + (0x3F000000 * 2 ^ 32) * 2 ^ 128 + (0x3F800000 * 2 ^ 32) * 2 ^ 384
    + 0x3F000000 * 2 ^ 1152 + ((List.range 9).foldl (fun a k => a + 0x3F800000 * 2 ^ (32 * k)) 0) * 2 ^ 2944

/-- A sample of 4 elements from 0 to 1 by steps of 1 with that method in slot 0, its state at 0x8000 and history at 0x9000. -/
def sampleDesc : Nat :=
  0x3F800000 * 2 ^ 32 + 0x3F800000 * 2 ^ 64 + 0x3F800000 * 2 ^ 96 + 4 * 2 ^ 192 + 0x8000 * 2 ^ 256 + 0x9000 * 2 ^ 320

/-- Die 0 with that method and samples. -/
def withSamples (l : List (Nat × Sample)) (s : State) : State :=
  { s with dies := { s.dies with methods := [(0, some midpoint)], samples := l } }

def sampleIn (st : SampleState) : Sample := { Sample.reset with
  state := st
  n := 4
  h := 0x3F800000
  tend := 0x3F800000
  eprev := 0x3F800000
  y := 0x8000
  hist := 0x9000
  desc := 0x7000
  level := .m }

theorem witness_AssayerInstructions :
    let s := withMem 0x1000 512 midpoint (withMem 0x2000 64 sampleDesc (withRegs [(1, 0x1000), (2, 0x2000), (3, 4095), (6, 1), (7, 0x3FFF)]
      (withAvenues 4 (withSamples [(3, sampleIn .held), (4, sampleIn .run), (5, sampleIn .finishing)]
        (withHart fun x => { x with mtrap := TrapRegs.reset 0 })))))
    (isCommand s.cur = false ∧ s.hart.stopAt = none)
    ∧ (4096 < (s.rS 3).toNat + 2 ∧ ¬ 4096 < (s.rS 3).toNat + 1 ∧ 4096 < (s.rS 7).toNat + 1 ∧ (s.rS 1).toNat % 64 = 0
      ∧ ¬ (s.rS 7).toNat % 64 = 0)
    ∧ okIs (hartReadWords s (s.rS 1) 64) (fun r => methodOk r.2 && methodUsed r.1 0 0 && !methodUsed r.1 0 3) = true
    ∧ methodOk 0 = false
    ∧ okIs (hartReadWords s (s.rS 2) 8) (fun r => decide (r.1 = s) && (parseSample s 0 r.2).isSome) = true ∧ parseSample s 0 0 = none
    ∧ ((sampleAt s 0 4095).state = .idle ∧ ¬ (sampleAt s 0 3).state = .idle)
    ∧ (s.hart.level = .m ∧ inHbm (s.rS 2).toNat (64 * 4096) = true)
    ∧ avOf s 2 = none ∧ avOf s 1 = some (0, 0) ∧ 0 + 2 < (pipeAt s 0 0).avs.length ∧ (pipeAt s 0 0).avs.length ≤ 1 + 2
    ∧ 48 ≤ (avDesc s 0 0 0).rsize ∧ 16 ≤ (avDesc s 0 0 1).rsize ∧ 48 ≤ (avDesc s 0 0 2).rsize
    ∧ (assayerAt s 0).bound = none ∧ (pipeAt s 0 0).state = 1 ∧ heldSamples s 0 3 1 = [3]
    ∧ ((sampleAt s 0 3).state = .held ∧ (sampleAt s 0 4).state = .run ∧ (sampleAt s 0 4).level = .m
      ∧ inHbm (sampleAt s 0 4).desc.toNat 64 = true ∧ (sampleAt s 0 5).state = .finishing) := by decide +kernel

/-- Die 0's Assayer bound to avenue 0 with what the function sets. -/
def assaying (l : List (Nat × Sample)) (f : Assayer → Assayer) : State :=
  let s := withAvenues 4 (withSamples l State.reset)
  { s with dies := { s.dies with assayer := [(0, f { Assayer.reset with bound := some 1 })] } }

/-- Bytes `n` from `a` and `m` from `b` share none. -/
def disjoint (a n b m : Nat) : Bool := decide (a + n ≤ b ∨ b + m ≤ a)

/-- A sample whose request waits, with room and with none. -/
theorem witness_AssayerEngine_request :
    let s := assaying [(3, { sampleIn .run with tag := some 7, attempt := .await 0 })] fun e => { e with requests := [3] }
    boundAv s 0 = some (0, 0) ∧ (assayerAt s 0).requests = [3] ∧ (sampleAt s 0 3).attempt = .await 0 ∧ (methodAt s 0 0).isSome = true
    ∧ avCount s 0 0 0 < (avDesc s 0 0 0).cap ∧ inHbm (recordAt s 0 0 0 0) 64 = true ∧ inHbm (stampAt s 0 0 0 0) 8 = true
    ∧ 48 ≤ (avDesc s 0 0 0).rsize ∧ disjoint (recordAt s 0 0 0 0) 64 (stampAt s 0 0 0 0) 8 = true
    ∧ ¬ avCount (setAvCounters s 0 0 0 0 4) 0 0 0 < (avDesc s 0 0 0).cap := by decide +kernel

/-- A completion record that waits, the table not empty after it. -/
theorem witness_AssayerEngine_completion :
    let s := assaying [(3, sampleIn .finishing), (4, sampleIn .run)] fun e => { e with completions := [3] }
    (assayerAt s 0).completions = [3] ∧ avCount s 0 0 2 < (avDesc s 0 0 2).cap ∧ inHbm (recordAt s 0 0 2 0) 64 = true
    ∧ inHbm (stampAt s 0 0 2 0) 8 = true ∧ disjoint (recordAt s 0 0 2 0) 64 (stampAt s 0 0 2 0) 8 = true
    ∧ swf (fun _ => Sample.reset) s.dies.samples = true ∧ 1 < busySamples s 0 0 4096 := by decide +kernel

/-- A derivative of the sample's tag, one of another tag, and one that reports a failure. -/
theorem witness_AssayerEngine_derivative :
    let s := setAvCounters (assaying [(3, { sampleIn .run with tag := some 7, attempt := .await 0 })] fun e => e) 0 0 1 0 1
    let pa := recordAt s 0 0 1 0
    let good := withMem pa 16 (3 + 7 * 2 ^ 32) s
    let bad := withMem pa 16 (3 + 8 * 2 ^ 32) s
    let fails := withMem pa 16 (3 + 7 * 2 ^ 32 + 1 * 2 ^ 64) s
    avCount s 0 0 1 = 1 ∧ markAny good pa 16 = false ∧ peek good pa 4 = 3
    ∧ (sampleAt good 0 3).tag = some (BitVec.ofNat 32 (peek good (pa + 4) 4))
    ∧ ¬ (sampleAt bad 0 3).tag = some (BitVec.ofNat 32 (peek bad (pa + 4) 4))
    ∧ peek good (pa + 8) 4 = 0 ∧ ¬ peek fails (pa + 8) 4 = 0 := by decide +kernel

/-- No binding and no work; an attempt that begins, one that has reached its end. -/
theorem witness_AssayerEngine_begin :
    let s := assaying [(3, { sampleIn .run with attempt := .begin }), (4, { sampleIn .run with attempt := .begin, t := 0x3F800000 })]
      fun e => { e with work := [3] }
    boundAv State.reset 0 = none ∧ (assayerAt State.reset 0).work = [] ∧ (assayerAt s 0).work = [3] ∧ (sampleAt s 0 3).kv = false
    ∧ ¬ vcmp (val32 (sampleAt s 0 3).tend) (val32 (sampleAt s 0 3).t) = .eq
    ∧ vcmp (val32 (sampleAt s 0 4).tend) (val32 (sampleAt s 0 4).t) = .eq := by decide +kernel

/-- A pair of stages with an embedded estimate, whose controller's ninth words are given: its least step is `hmin`. -/
def paired (hmin : Nat) : Nat :=
  2 + 1 * 2 ^ 8 + (0x3F800000 * 2 ^ 32) * 2 ^ 128 + (0x3F000000 + 0x3F000000 * 2 ^ 32) * 2 ^ 384 + 0x3F800000 * 2 ^ 640
    + 0x3F800000 * 2 ^ 1152
    + (([0x3F800000, 0x3E800000, 0x40800000, 0x3F800000, 0x3E800000, 0x3D000000, 0x3D000000, hmin, 0x3F800000].foldr
        (fun c acc => c + 2 ^ 32 * acc) 0) * 2 ^ 2944)

/-- A sample of one element with that method and slopes `k0` and `k1`, at its end or its beginning. -/
def attempting (st : Attempt) (hmin k0 k1 : Nat) (f : Sample → Sample) : State :=
  let s := assaying [(3, f { Sample.reset with
    state := .run
    h := 0x3F000000
    tend := 0x3F800000
    eprev := 0x3F800000
    n := 1
    y := 0x8000
    hist := 0x9000
    desc := 0x7000
    level := .m
    attempt := st
    hcur := 0x3F000000 })] fun e => { e with work := [3] }
  withMem 0x8000 4 0x3F800000 (withMem 0x9000 4 k0 (withMem 0x9080 4 k1
    { s with dies := { s.dies with methods := [(0, some (paired hmin))] } }))

def vectorsApart (s : State) (x : Sample) (b : Nat) : Bool :=
  let l := x.y.toNat :: (List.range (mStages b + 2)).map x.kAddr
  (l.all fun w => inHbm w (4 * x.n) && !markAny s w (4 * x.n))
    && decide (l.Pairwise fun v w => v + 4 * x.n ≤ w ∨ w + 4 * x.n ≤ v)

/-- What the end of its attempt decides. -/
def decided (s : State) (p : Sample → StepResult → Val → Bool) : Bool :=
  let x := sampleAt s 0 3
  match methodAt s 0 0 with
  | none => false
  | some b =>
    let m := vecPut (memByte s) x.n (x.newAddr b) (x.combined (memByte s) (mB b) (mStages b))
    decide (x.attempt = .finish) && decide ((assayerAt s 0).work = [3]) && decide (2 ≤ mStages b) && !mFsal b && vectorsApart s x b
      && inHbm x.desc.toNat 64 && p x (x.result b m) (mCtl b 7)

/-- An attempt that begins from a kept slope; ends with a value that is not finite, accepted as the last, with too small a step and
with one that goes on, rejected so too. -/
theorem witness_AssayerEngine_end :
    let one := 0x3F800000
    let least := 0x3A800000
    let big := 0x40000000
    (let s := attempting .begin least one 0 fun x => { x with kv := true }
     let x := sampleAt s 0 3
     x.attempt = .begin ∧ x.kv = true ∧ vcmp (val32 x.tend) (val32 x.t) = .gt ∧ x.method = 0 ∧ vectorsApart s x (paired least) = true
     ∧ (methodAt s 0 0).isSome = true)
    ∧ decided (attempting .finish least one 0x7F800000 fun x => x) (fun _ r _ => r.bad) = true
    ∧ decided (attempting .finish least one one fun x => { x with last := true }) (fun x r _ => !r.bad && r.ok && x.last) = true
    ∧ decided (attempting .finish big one one fun x => x) (fun x r h => !r.bad && r.ok && !x.last && vless r.hn h) = true
    ∧ decided (attempting .finish least one one fun x => x) (fun x r h => !r.bad && r.ok && !x.last && !vless r.hn h) = true
    ∧ decided (attempting .finish big 0xBF800000 0xBF000000 fun x => x) (fun _ r h => !r.bad && !r.ok && vless r.hn h) = true
    ∧ decided (attempting .finish least 0xBF800000 0xBF000000 fun x => x) (fun _ r h => !r.bad && !r.ok && !vless r.hn h) = true := by
  decide +kernel

/-- The second stage of a sample whose vectors lie in HBM apart from the input it forms. -/
theorem witness_AssayerEngine_stage :
    let x := { sampleIn .run with attempt := .request 1 }
    let s := assaying [(3, x)] fun e => { e with work := [3] }
    (sampleAt s 0 3).attempt = .request 1 ∧ 1 < mStages midpoint ∧ mFsal midpoint = false
    ∧ ((x.inputAddr midpoint :: x.y.toNat :: (List.range 1).map x.kAddr).all fun w =>
        inHbm w (4 * x.n) && decide (w + 4 * x.n ≤ 2 ^ 64) && !markAny s w (4 * x.n)) = true
    ∧ ((x.y.toNat :: (List.range 1).map x.kAddr).all fun w => disjoint w (4 * x.n) (x.inputAddr midpoint) (4 * x.n)) = true := by
  decide +kernel

/-! Collectives -/

/-- Communicator 0 of two ranks, this package rank 0, its table at 0x4000 and its rank list (packages 0 and 1) at 0x5000. -/
def withComm (s : State) : State :=
  withMem 0x5000 4 (0 + 1 * 2 ^ 16) (withMem 0x4000 64 (2 + 1 * 2 ^ 32 + 0x5000 * 2 ^ 64) { s with regs := [(diePa 0 0x3008, 0x4000)] })

/-- A collective of communicator 0 from this hart at M: the sum of 4 words of 32 bits. -/
def coll (kind : Nat) (st : CollState) : Coll := ⟨1, kind, 0, 2, 0x1000, 0x2000, 4, 0, 0, 0, 0, .m, st⟩

def collState (kind : Nat) (st : CollState) (n : Nat) : State :=
  let s := withComm State.reset
  { s with pkg := { s.pkg with colls := [(0, List.replicate n (coll kind st))], collSeq := [(0, 2)] } }

theorem witness_Collectives_issue : let s := withRegs [(4, 0x1000), (5, 0x2000), (6, 4)] (withComm State.reset)
    let o := ExOp.mk 6 0 0 3 4 5 2
    isCommand s.cur = false ∧ acceptedAll [.collAred .sum o, .collAgat { o with emod := 0 }, .collRsct .max o, .collBcast { o with emod := 0 }] = true
    ∧ (commOf s 0).map (fun m => (m.nrank, m.rank)) = some (2, 0) ∧ commOf s 255 = none
    ∧ (s.rS 6).toNat % 2 ^ 40 = 4 ∧ 0x1000 % 4 = 0 ∧ 0 < 2 ∧ ¬ (0x1000 < 0x2000 + 16 ∧ 0x2000 < 0x1000 + 16)
    ∧ ((collsOf s 0).filter Coll.open).length < 16
    ∧ 16 ≤ ((collsOf (collState 0 .outstanding 16) 0).filter Coll.open).length := by decide +kernel

theorem witness_Collectives_wait : let s := fun st => withRegs [(1, 1)] (collState 0 st 1)
    let back := (nextSeq (s .outstanding) 0 - BitVec.ofNat 32 1).toNat
    1 ≤ back ∧ back ≤ 16 ∧ ¬ 1 ≤ (nextSeq (s .outstanding) 0 - BitVec.ofNat 32 2).toNat
    ∧ ([CollState.outstanding, .done, .retired 1, .retired 5, .failed 3 7].all fun st =>
        decide ((collsOf (s st) 0).find? (fun y => y.seq == 1) = some (coll 0 st))) = true := by decide +kernel

/-- Peers that agree, one that differs, one that refused; the operands of kinds 0 and 3 in HBM. -/
theorem witness_Collectives_completion : let s := collState 0 .outstanding 1
    let p : PeerPart := ⟨1, 0, 0, 2, 4, 0, 0x2000, List.replicate 16 1, [], none⟩
    (collsOf State.reset 0).find? (fun x => decide (x.st = .outstanding)) = none
    ∧ (commOf s 0).isSome = true ∧ (collsOf s 0).find? (fun x => decide (x.st = .outstanding)) = some (coll 0 .outstanding)
    ∧ ¬ { p with count := 5 }.count = (coll 0 .outstanding).count ∧ { p with refusal := some 2 }.refusal = some 2
    ∧ [p].find? (fun p => p.rank == 1) = some p ∧ (coll 0 .outstanding).level = .m ∧ p.refusal = none ∧ p.marks = []
    ∧ tyWidth ((tyOfCode 2).getD .ui8) = 32 ∧ inHbm 0x1000 16 = true ∧ inHbm 0x2000 16 = true ∧ markAny s 0x1000 16 = false
    ∧ (commOf s 0).map (fun m => (m.nrank, m.rank, m.rlist)) = some (2, 0, 0x5000) ∧ (coll 0 .outstanding).rootRank = 0
    ∧ p.dst + 16 ≤ 2 ^ 64 ∧ p.bytes.length = 4 * (32 / 8) := by decide +kernel

/-- Communicator 0 and its collective as this hart holds it at S, behind the pair of `mapped`. -/
def collAt (src dst : Word) (st : CollState) : State :=
  let s := mapped (withComm atS)
  { s with pkg := { s.pkg with
    colls := [(0, [{ coll 0 st with src := src, dst := dst, root := 0x100, level := .s }])]
    collSeq := [(0, 2)] } }

/-- What the buffers of the collective of `collAt` are found to be. -/
def buffersIs (s : State) (p : State → Except PieceStop (List (Nat × Nat) × List (Nat × Nat)) → Bool) : Bool :=
  match commOf s 0, collsOf s 0 with
  | some m, [x] => let r := collBuffers s m x
    p r.1 r.2
  | _, _ => false

/-- Buffers that are found, a page that is not mapped, a migration that holds a page, and an empty line of a Vault. -/
theorem witness_Collectives_buffers :
    buffersIs (collState 0 (.retired 5) 1) (fun _ r => match r with | .ok _ => true | .error _ => false) = true
    ∧ buffersIs (collAt 0x1000 0x40000000 .outstanding) (fun _ r => match r with | .error (some _) => true | _ => false) = true
    ∧ buffersIs (let s := collAt 0x1000 0x2000 .outstanding
        { s with dies := { s.dies with migs := [(0, [⟨5, 0, 0, 0x7000, 0x102000, 0x300000, 1, 2, 0, 0, []⟩])] } })
        (fun _ r => match r with | .error none => true | _ => false) = true
    ∧ (let s := collState 0 .outstanding 1
       let s := { s with pkg := { s.pkg with colls := [(0, [{ coll 0 .outstanding with src := BitVec.ofNat 64 (vaultPa 0 0x1000) }])] } }
       buffersIs (setLineEmpty s 0 0x1000 true) (fun u r => match r with
         | .ok (src, _) => src.any fun p => match regionOf p.1 with | .vault g a => lineReadsEmpty u g a | _ => false
         | .error _ => false) = true) := by decide +kernel

/-! Dispatcher, pipelines and engines -/

/-- The state with hart `h` idle. -/
def idleAt (h : Nat) (s : State) : State := s.setHart h { s.hartAt h with run := .idle }

/-- Every hart of core 0 idle. -/
def idleCore (s : State) : State := (List.range 8).foldl (fun s h => idleAt h s) s

def readyTask : Task := { Task.reset with state := .ready, gen := 1, cmin := 1, cpref := 1, min := 1, pref := 1, tprio := 7 }

/-- READY tasks with an idle partition for one, and with none, on a hart of lower priority; with that offer made; none. -/
theorem witness_Dispatching : let s := setTask (idleAt 0 State.reset) 0 5 readyTask
    let t := setTask (running fun t => t) 0 5 readyTask
    let u := t.setHart 0 { t.hartAt 0 with offer := some (handleOf t 0 5) }
    0 < 8 ∧ devReq s = false ∧ (5, readyTask) ∈ readyTasks s 0 ∧ (s.hartAt 0).run = .idle ∧ shootQueue s 0 = []
    ∧ coreDead s 0 = false ∧ SparableUnit.core 0 ∉ s.dies.sparing ∧ readyTask.core = none
    ∧ (∀ k, k < 8 → ¬ ((pipeAt s 0 k).state = 1 ∨ (pipeAt s 0 k).state = 2))
    ∧ readyTask.cmin ≤ grantCount ((freeClusters s 0 ||| (s.hartAt 0).grant) &&& partField s 0)
    ∧ readyTasks State.reset 0 = [] ∧ devReq (setReg s devprePa 1) = true
    ∧ (5, readyTask) ∈ readyTasks t 0 ∧ (∀ h ∈ List.range 512, ¬ (t.hartAt h).run = .idle)
    ∧ (t.hartAt 0).offer = none ∧ (t.hartAt 0).task.isSome = true ∧ (t.hartAt 0).prio.toNat < effPrio t 0 readyTask
    ∧ (u.hartAt 0).offer = some (handleOf u 0 5) := by decide +kernel

/-- A descriptor at 0x4000 of one avenue and one stage on core 63, its tables at 0x5000 and 0x6000. -/
def withPipe (s : State) : State :=
  let dsc := 1 + 1 * 2 ^ 16 + 12 * 2 ^ 32 + 1 * 2 ^ 40 + 0x5000 * 2 ^ 64 + 0x6000 * 2 ^ 128 + 0x200000 * 2 ^ 192 + 2 ^ 63 * 2 ^ 256
  let av := 64 + 4 * 2 ^ 32
  let stage := 0x100 + 1 * 2 ^ 64 + 1 * 2 ^ 72 + 1 * 2 ^ 80 + 1 * 2 ^ 128 + 1 * 2 ^ 352 + 8 * 2 ^ 360
  withMem 0x6000 64 stage (withMem 0x5000 16 av (withMem 0x4000 64 dsc { s with regs := [(diePa 0 0x400, 0x4000)] }))

/-- Die 0's pipeline 0 in a state, its stage run on core 63. -/
def pipeIn (st : Nat) (pl : PoolPlace) : State :=
  let s := withPipe State.reset
  match readPipe s 0 0 with
  | some p => { s with dies := { s.dies with pipes := [(0, { p with gen := 1, state := st, pool := [(63, pl)] })] } }
  | none => s

/-- Core 63's harts idle. -/
def idle63 (s : State) : State := (List.range 8).foldl (fun s p => idleAt (504 + p) s) s

/-- A good descriptor and none; an ACTIVE and a STOPPING pipeline, its cores idle with nothing to replay. -/
theorem witness_Pipelines : (0 < 8 ∧ (pipeAt (withPipe State.reset) 0 0).state = 0)
    ∧ (readPipe (withPipe State.reset) 0 0).isSome = true ∧ readPipe State.reset 0 0 = none
    ∧ (pipeAt (pipeIn 1 (.serves 0 255)) 0 0).state = 1 ∧ devReq (setReg (pipeIn 1 (.serves 0 255)) devprePa 1) = true
    ∧ (let s := idle63 (pipeIn 2 (.leaving 0 none))
       (pipeAt s 0 0).state = 2 ∧ (pipeAt s 0 0).done = 0
       ∧ (pipeAt s 0 0).pool.all (fun e => coreIdle s (64 * 0 + e.1)) = true ∧ replayWaits s 0 0 0 63 = false
       ∧ assoc 63 (pipeAt s 0 0).pool = some (.leaving 0 none))
    ∧ ((pipeAt (pipeIn 2 (.serves 0 255)) 0 0).state = 2
      ∧ (pipeAt (pipeIn 2 (.serves 0 255)) 0 0).pool.all (fun e => coreIdle (pipeIn 2 (.serves 0 255)) (64 * 0 + e.1)) = false) := by
  decide +kernel

/-- No pending write, and one of the BMC while the host owns; a push that waits outside the instances of a pipeline about to
stop; a stage with demand. -/
theorem witness_Pipelines_writes : let s := pipeIn 1 (.serves 0 255)
    let t := s.setHart 3 { s.hartAt 3 with level := .u, hold := .avenue true 0x0001 0x1000 0 }
    State.reset.pkg.writers = []
    ∧ (let w := { setReg State.reset (ioPa 0 0) 0x100 with pkg := { State.reset.pkg with writers := [2] } }
       w.pkg.writers = [2] ∧ ¬ (2 : BitVec 2) = 0 ∧ ¬ ownerOf w = (2 : BitVec 2).toNat)
    ∧ (dieOf 3 = 0 ∧ isCommand 3 = false ∧ 3 ∉ instanceHarts t 0 0 ∧ (t.hartAt 3).forced = false ∧ (0x0001 : BitVec 16).toNat / 8192 = 0
      ∧ (t.hartAt 3).hold = .avenue true 0x0001 0x1000 0 ∧ ¬ ((t.hartAt 3).level = .m ∧ (t.hartAt 3).stat.mnest = true)
      ∧ (pipeAt t 0 0).state = 1)
    ∧ ((pipeAt s 0 0).stages.map fun g => (g.min, g.max, g.weight)) = [(1, 1, 1)] ∧ (pipeAt s 0 0).pool.length = 1
    ∧ wordReady s 0x7000 = true := by decide +kernel

/-- DONE of the pipeline in HBM. -/
theorem witness_Pipelines_done : inHbm 0x7000 8 = true ∧ ¬ (0x7000 : Nat) = 0 := by decide +kernel

/-- Core 63 in no pool, and about to join, idle and not. -/
theorem witness_Pipelines_join : 63 < 512
    ∧ ((List.range 8).all fun j => decide (assoc 63 (pipeAt State.reset 0 j).pool = none)) = true
    ∧ (let s := pipeIn 1 (.joining 0)
       assoc 63 (pipeAt s 0 0).pool = some (.joining 0) ∧ coreIdle s 63 = false ∧ coreIdle (idle63 s) 63 = true
       ∧ assoc 63 (pipeAt (idle63 s) 0 0).pool = some (.joining 0)) := by decide +kernel

/-- A cluster to be zeroed and one not; packets of data, of full and of empty lines, and of a bad header. -/
theorem witness_CoreEngines_packets :
    (let s := setZeroing State.reset 511 0x80
     (zeroing s 511).getLsbD 7 = true ∧ ¬ (0 < 8 ∧ (zeroing s 511).getLsbD 0 = true))
    ∧ (let p : QuadPacket := ⟨0, 3, 8, 4, 0, [(0, 0x78), (1, 0xFFFFF8)], some [1, 2], .none⟩
       let s := setLineEmpty State.reset 3 0x78 true
       coreDead s 3 = false ∧ ¬ p.err = .header ∧ p.srcHart < 4096 ∧ p.data = some [1, 2]
       ∧ (p.offsets.all fun o => decide (o.2 + p.bytes ≤ 2 ^ 24 ∧ o.2 % 128 + p.bytes ≤ 128)) = true
       ∧ lineReadsEmpty s 3 0x78 = true ∧ lineReadsEmpty State.reset 3 0x78 = false ∧ lineReadsEmpty State.reset 3 0xFFFFF8 = false)
    ∧ (47 < 48 ∧ 64 ∈ [8, 16, 32, 64] ∧ 15 < 1024 * grantCount ((lanes 16 3).hartAt 0).grant / 64 ∧ 2 ^ 64 - 1 < 2 ^ 64) := by
  decide +kernel

/-- Packets whose one access meets a data error: a store and a load of a full line. -/
theorem witness_CoreEngines_spoilt :
    let p : QuadPacket := ⟨0, 3, 8, 4, 0, [(0, 0x78)], some [1], .data⟩
    let q := { p with data := none }
    coreDead State.reset 3 = false ∧ ¬ p.err = .header ∧ p.err = .data ∧ p.srcHart < 4096 ∧ p.offsets = [(0, 0x78)] ∧ q.data = none
    ∧ 0x78 + p.bytes ≤ 2 ^ 24 ∧ 0x78 % 128 + p.bytes ≤ 128 ∧ lineReadsEmpty State.reset 3 0x78 = false := by decide +kernel

/-- A core with a removal queued, its harts quiescent and not; a watchdog that is due. -/
theorem witness_CoreEngines_removals : let q : List ShootReq := [⟨2, 0, 0, some 0x7000, none, 0⟩]
    let s := { State.reset with cores := { Cores.reset with shootQ := [(0, q)] } }
    let t := idleCore s
    shootQueue State.reset 0 = [] ∧ ¬ shootQueue s 0 = [] ∧ ((List.range 8).all fun p => quiescent s p) = false
    ∧ ((List.range 8).all fun p => quiescent t p) = true ∧ shootQueue t 0 = q ∧ inHbm 0x7000 8 = true
    ∧ watchdogDue State.reset 0 = false
    ∧ (let u := { setReg s (ctlPa 0 0x280) 100 with clock := [(0, 100)] }
       watchdogDue u 0 = true ∧ quiescent u 0 = false ∧ (u.hartAt 0).forced = false)
    ∧ watchdogDue { setReg s (ctlPa 0 0x280) 100 with clock := [(0, 99)] } 0 = false := by decide +kernel

/-- A packet whose data are bad, and the event that arms an error for the source's next packet. -/
theorem witness_CoreEngines_errors :
    (let p : QuadPacket := ⟨0, 3, 8, 4, 0, [(0, 0x78)], none, .data⟩
     coreDead State.reset 3 = false ∧ ¬ p.err = .header ∧ p.srcHart < 4096 ∧ ¬ p.offsets = []
     ∧ (p.offsets.all fun o => !lineReadsEmpty State.reset 3 o.2) = true)
    ∧ (let p : QuadPacket := ⟨4095, 3, 8, 4, 1, [], none, .header⟩
       ¬ p.err = .none ∧ p.offsets = [] ∧ p.srcHart < 4096)
    ∧ State.reset.pkg.writers = []
    ∧ coreDead { State.reset with cores := { Cores.reset with dead := [(3, true)] } } 3 = true := by decide +kernel

/-- A due watchdog over a window that still moves; a removal whose completion word waits, one in HBM, and one that nothing
backs. -/
theorem witness_CoreEngines_waits : let s := fun (p : Nat) =>
      { State.reset with cores := { Cores.reset with shootQ := [(0, [⟨2, 0, 0, some p, none, 0⟩])] }, clock := [(0, 100)] }
    (let u := setReg (s 0x7000) (ctlPa 0 0x280) 100
     let v := withSlot 3 { Slot.reset with state := .running, winOpen := true } u
     watchdogDue v 0 = true ∧ quiescent v 0 = false ∧ (slotAt v 0 3).winOpen = true ∧ (slotAt v 0 3).state = .running
     ∧ watchdogDue u 0 = true ∧ quiescent u 0 = false ∧ ∀ k, k < 16 → ¬ (slotAt u 0 k).winOpen = true)
    ∧ (wordReady (s 0x7000) 0x7000 = true ∧ inHbm 0x7000 8 = true)
    ∧ (wordReady (s (2 ^ 50)) (2 ^ 50) = true ∧ memBackedAll (s (2 ^ 50)) (2 ^ 50) 8 = false)
    ∧ (let t := (s (cellPa 0 0 0)).setHart 0 { (s 0).hartAt 0 with grant := 1, updBusy := 1 }
       wordReady t (cellPa 0 0 0) = false) := by decide +kernel

/-- A migration of the 4 KiB page that the entry at 0x7000 maps, at each phase, for core 0 and on its last line. -/
def migration (phase line : Nat) (w : List Nat) : Migration := ⟨0, 0, 0x4000, 0x7800, 0x7000, 0x300000, 1, phase, 0x200000, line, w⟩

def migrating (m : Migration) (pte : Nat) : State :=
  withMem 0x7000 8 pte { State.reset with dies := { Dies.reset with migs := [(0, [m])] } }

theorem witness_CoreEngines_migration : let pte := 0x200 * 4096 + 7
    migsOf (migrating (migration 0 0 []) pte) 0 = migration 0 0 [] :: []
    ∧ ptehElsewhere (migrating (migration 0 0 []) pte) 0 0x7000 = false
    ∧ migSource (migrating (migration 0 0 []) 0) (migration 0 0 []) = none
    ∧ migSource (migrating (migration 0 0 []) pte) (migration 0 0 []) = some 0x200000
    ∧ shootRoom State.reset 1 = true
    ∧ shootRoom { State.reset with cores := { Cores.reset with shootQ := [(0, List.replicate 16 ⟨2, 0, 0, none, none, 0⟩)] } } 1 = false
    ∧ ((migration 2 0 []).phase = 2 ∧ (migration 2 0 []).waiting = [] ∧ ¬ (migration 2 0 [0]).waiting = [])
    ∧ inHbm (0x200000 + 128 * 31) 128 = true ∧ inHbm (0x300000 + 128 * 31) 128 = true ∧ (0x200000 + 128 * 31) % 128 = 0
    ∧ 128 * (30 + 1) < 2 ^ pageLog 0 ∧ 2 ^ pageLog 0 = 128 * (31 + 1) ∧ inHbm 0x7000 8 = true ∧ inHbm 0x7800 8 = true
    ∧ 0x7000 + 8 ≤ 0x300000 ∧ 0x300000 < 2 ^ 52 := by decide +kernel

/-- Corrected and uncorrectable errors of each place; the last line of die 7; cores with a spare and without. -/
theorem witness_ErrorsAndSparing :
    (let e : ErrorReport := ⟨7, .hbm, true, 7 * 2 ^ 37, 7 * 2 ^ 37 + 128, 511, 7, 63, 0, .core⟩
     e.die < 8 ∧ e.uncorrectable = true ∧ inHbm e.base (e.limit - e.base) = true ∧ e.base ≤ e.limit ∧ { e with uncorrectable := false }.uncorrectable = false)
    ∧ inHbm (128 * (7 * 2 ^ 30)) 128 = true
    ∧ (let idle := fun (s : State) => (List.range 8).all fun p => decide ((s.hartAt (8 * 0 + p)).run = .idle)
       let s := idleCore State.reset
       idle State.reset = false ∧ idle s = true ∧ coreDead s 0 = false ∧ 0 < (rawReg s (diePa 0 0x320)).toNat / 2 ^ 16 % 2 ^ 8
       ∧ (let t := setReg s (diePa 0 0x320) 64
          idle t = true ∧ (rawReg t (diePa 0 0x320)).toNat / 2 ^ 16 % 2 ^ 8 = 0)
       ∧ coreDead { s with cores := { s.cores with dead := [(0, true)] } } 0 = true)
    ∧ ((freeClusters State.reset 511).getLsbD 7 = true ∧ sget false State.reset.cores.spareCluster 511 = false
      ∧ sget false { Cores.reset with spareCluster := [(511, true)] }.spareCluster 511 = true)
    ∧ (let s := running fun t => t
       (s.hartAt 0).task = some 0 ∧ ((List.range 8).all fun q => decide ((s.hartAt q).task = some 0 → q = 0)) = true
       ∧ (taskAt s 0 0).state = .running ∧ (taskAt s 0 0).producer = none ∧ (s.hartAt 0).stat.ceff = false ∧ (taskAt s 0 0).popped = false)
    ∧ (let s := fun v => setReg State.reset (diePa 0 (0x3100 + 16 * 63)) v
       (rawReg (s 8) (diePa 0 (0x3100 + 16 * 63))).toNat / 4 % 4 = 2 ∧ (rawReg (s 4) (diePa 0 (0x3100 + 16 * 63))).toNat / 4 % 4 = 1
       ∧ ¬ (rawReg (s 0) (diePa 0 (0x3100 + 16 * 63))).toNat / 4 % 4 = 1) := by decide +kernel

/-- Frames that have not left while no port is up, refused and not; a frame that has left. -/
theorem witness_ErrorsAndSparing_frames :
    let f : Frame := ⟨0, 1, 1, false, 0, 0, 1, [], [], none⟩
    let s := fun l => { State.reset with pkg := { State.reset.pkg with held := l } }
    (∀ y ∈ (s [⟨f, true, true⟩, ⟨f, false, false⟩]).pkg.held, y.unsent = true → y.refused = true)
    ∧ (s [⟨f, false, true⟩]).pkg.held.any (fun y => y.unsent && !y.refused) = true ∧ (sendPort State.reset).isNone = true
    ∧ (sendPort (setReg State.reset (diePa 0 (0x3100 + 16 * 63)) 0x0B)).isNone = false := by decide +kernel

/-- Each place of a loss, and each owner of state without marks; an error that makes its unit lasting. -/
theorem witness_ErrorsAndSparing_owners :
    (let e : ErrorReport := ⟨7, .vault, true, vaultPa 511 0xFFFF80, vaultPa 511 0x1000000, 511, 7, 63, 0, .core⟩
     e.die < 8 ∧ e.base = vaultPa 511 0xFFFF80 ∧ e.limit = e.base + 128 ∧ 0xFFFF80 + 128 ≤ 2 ^ 24 ∧ 511 < 512)
    ∧ regionOf (cellPa 511 47 127) = .square 511 47 127 0
    ∧ (let e : ErrorReport := ⟨0, .coreReg, true, 0, 0, 0, 0, 0, 0, .hart 7⟩
       e.die < 8 ∧ e.uncorrectable = true ∧ e.kind = .coreReg ∧ e.owner = .hart 7 ∧ { e with owner := .die }.owner = .die
       ∧ { e with owner := .task 0 }.owner = .task 0 ∧ ((running fun t => t).hartAt 0).task = some 0)
    ∧ (let e : ErrorReport := ⟨0, .vault, false, vaultPa 0 0, vaultPa 0 128, 0, 0, 0, 0, .core⟩
       let y : Tracked := ⟨0, (errUnitKey e).1, (errUnitKey e).2, 0, 2, false⟩
       let s := setReg (setReg State.reset (diePa 0 0x300) 100) (diePa 0 0x308) 3
       let s := { s with dies := { s.dies with tracked := [y] } }
       e.uncorrectable = false ∧ unitOf e = some (.vaultLine 0 0) ∧ SparableUnit.vaultLine 0 0 ∉ s.dies.sparing
       ∧ s.dies.tracked.find? (fun x => x.die == e.die && decide (x.kind = (errUnitKey e).1) && x.unit == (errUnitKey e).2) = some y
       ∧ y.lasting = false ∧ sget 0 s.clock e.die < y.start + rasWindow s e.die ∧ rasThreshold s e.die ≤ y.n + 1) := by decide +kernel

/-- The last line of the Vaults; each sparable unit pending, with a spare and without; a lane pending at each width. -/
theorem witness_ErrorsAndSparing_units : let with' := fun (v : SparableUnit) (n : Nat) =>
      { State.reset with dies := { Dies.reset with sparing := [v], spareUsed := [(spareKey v, n)] } }
    regionOf (128 * (vaultPa 511 0xFFFF80 / 128)) = .vault 511 0xFFFF80
    ∧ SparableUnit.core 3 ∉ State.reset.dies.sparing
    ∧ ([SparableUnit.vaultLine 511 131071, .wire 7 127].all fun v => decide (v ∈ (with' v 0).dies.sparing)
        && decide (sget 0 (with' v 0).dies.spareUsed (spareKey v) = 0) && decide (sget 0 (with' v 64).dies.spareUsed (spareKey v) = 64)) = true
    ∧ (let s := with' (.cluster 511 7) 0
       SparableUnit.cluster 511 7 ∈ s.dies.sparing ∧ (ungranted s 511).getLsbD 7 = true ∧ sget false s.cores.spareCluster 511 = false
       ∧ sget false { Cores.reset with spareCluster := [(511, true)] }.spareCluster 511 = true
       ∧ (ungranted (s.setHart 4088 { s.hartAt 4088 with grant := 0x80 }) 511).getLsbD 7 = false)
    ∧ (let s := idleCore (with' (.core 0) 0)
       SparableUnit.core 0 ∈ s.dies.sparing ∧ ((List.range 8).all fun p => decide ((s.hartAt p).run = .idle)) = true ∧ coreDead s 0 = false
       ∧ 0 < (rawReg s (diePa 0 0x320)).toNat / 2 ^ 16 % 2 ^ 8 ∧ shootQueue s 0 = [])
    ∧ (let s := fun v => setReg (with' (.lane 63 1) 0) (diePa 0 (0x3100 + 16 * 63)) v
       SparableUnit.lane 63 1 ∈ (s 8).dies.sparing ∧ (∀ j, j < 1 → SparableUnit.lane 63 j ∉ (s 8).dies.sparing)
       ∧ (rawReg (s 8) (diePa 0 (0x3100 + 16 * 63))).toNat / 4 % 4 = 2 ∧ (rawReg (s 4) (diePa 0 (0x3100 + 16 * 63))).toNat / 4 % 4 = 1
       ∧ ¬ (rawReg (s 0) (diePa 0 (0x3100 + 16 * 63))).toNat / 4 % 4 = 1 ∧ SparableUnit.lane 63 1 ∉ State.reset.dies.sparing) := by decide +kernel

/-- Spares of rows and pseudo-channels are as the configuration leaves them. -/
theorem witness_ErrorsAndSparing_rows (v : SparableUnit) (n : Nat) :
    sget 0 ({ State.reset with dies := { Dies.reset with sparing := [v], spareUsed := [(spareKey v, n)] } }).dies.spareUsed
      (spareKey v) = n := by simp [sget]

/-! Queues, the host and the fabric -/

/-- A queue with entries. -/
def queued (q : Nat) (x : Queue) : State := setQueue State.reset 0 q x

theorem witness_CommandQueues_harts :
    (State.reset.hartAt 4103).run = .halted ∧ (atCommand.hartAt 4096).run = .running ∧ (atCommand.hartAt 4096).stopReq = false
    ∧ (let s := atCommand.putHart { atCommand.hart with stopReq := true }
       (s.hartAt 4096).stopReq = true ∧ (s.hartAt 4096).hold = .none ∧ devReq s = false) := by decide +kernel

theorem witness_CommandQueues_entries :
    (let x := { Queue.reset with entries := [.tasks 7 1 0x1000 0] }
     let s := withMem 0x1000 64 taskRecord (queued 0 x)
     queueAt s 0 0 = x ∧ x.failed = none ∧ devReq s = false ∧ x.started = false ∧ x.made = 0 ∧ x.handles = [] ∧ queueOutranked s 0 0 7 = false
     ∧ freeEntry s 7 = some 0 ∧ ((peekBacked s 0x1000 64).bind parseTask).isSome = true)
    ∧ (let s := queued 0 { Queue.reset with entries := [.pipeline 0 0 0x4000 0] }
       (queueAt s 0 0).started = false ∧ (pipeAt s 0 0).state = 0 ∧ (pipeAt (pipeIn 1 (.joining 0)) 0 0).state = 1)
    ∧ (copyRange State.reset 0x1000 8192 = true ∧ copyRange State.reset 0x200000 8192 = true
      ∧ ¬ (0x1000 < 0x200000 + 8192 ∧ 0x200000 < 0x1000 + 8192) ∧ copyRange State.reset (2 ^ 41) 1 = false
      ∧ (0x1000 < 0x2000 + 8192 ∧ 0x2000 < 0x1000 + 8192))
    ∧ (let x := { Queue.reset with entries := [.copy 0x1000 0x200010 8192 0], started := true }
       let s := queued 11 x
       x.started = true ∧ 2 < (0x200010 % 4096 + 8192 + 4095) / 4096 ∧ sget false x.chunks 2 = false ∧ devReq s = false
       ∧ copyOutranked s 0 11 = false ∧ inHbm 0x1000 8192 = true ∧ inHbm 0x200010 8192 = true ∧ markAny s 0x1000 8192 = false
       ∧ ¬ 3 < (0x200010 % 4096 + 8192 + 4095) / 4096 ∧ entryOver s x = none
       ∧ entryOver s { x with chunks := [(0, true), (1, true), (2, true)] } = some 0)
    ∧ (queueAt (queued 0 { Queue.reset with failed := some 1 }) 0 0).failed.isSome = true
    ∧ ((0x100008001 : Word).getLsbD 15 = true ∧ (0 : Word).getLsbD 15 = false) := by decide +kernel

theorem witness_CommandQueues_registers : isRegister (semPa 255) = true ∧ semPa 255 % 8 = 0 ∧ isRegister (diePa 7 0x310) = true
    ∧ isRegister ckctlPa = true ∧ ckctlPa % 8 = 0 ∧ isRegister 0 = false ∧ (extQueue State.reset 4095).length ≤ 16 := by decide +kernel

/-- A write of the BMC that does not own the device, and an entry under pre-emption that has started. -/
theorem witness_CommandQueues_writes :
    (let w := { setReg State.reset (ioPa 0 0) 0x100 with pkg := { State.reset.pkg with writers := [2] } }
     w.pkg.writers = [2] ∧ ¬ (2 : BitVec 2) = 0 ∧ ¬ ownerOf w = (2 : BitVec 2).toNat
     ∧ isRegister ckctlPa = true ∧ openRegister ckctlPa = false ∧ 255 < 256)
    ∧ (let x := { Queue.reset with entries := [.tasks 7 2 0x1000 0], started := true, made := 1 }
       let s := setReg (withMem 0x1040 64 taskRecord (queued 0 x)) devprePa 1
       queueAt s 0 0 = x ∧ x.failed = none ∧ x.made + 1 = 2 ∧ freeEntry s 7 = some 0 ∧ devReq s = true
       ∧ ((peekBacked s (0x1000 + 64 * 1) 64).bind parseTask).isSome = true)
    ∧ (let s := setReg (queued 0 { Queue.reset with entries := [.copy 0 4096 1 0] }) devprePa 1
       devReq s = true ∧ (queueAt s 0 0).started = false) := by decide +kernel

theorem witness_HostAndPower_host : linkUp State.reset = false ∧ linkUp (setReg State.reset (ioPa 0 0x108) 1) = true
    ∧ inHbm (hbmBytes - 4) 4 = true ∧ hbmBytes - 4 < 2 ^ 40 ∧ (hbmBytes - 4) % 4 = 0 ∧ ¬ 2 % 4 = 0 ∧ barPa 1 0 = none ∧ barPa 2 (2 ^ 40) = none
    ∧ barPa 0 (2 ^ 25) = none := by decide +kernel

/-- Registers that any manager opens, and one that the owner alone writes, with the host the owner and not. -/
theorem witness_HostAndPower_registers :
    let s := setReg State.reset (ioPa 0 0x108) 1
    let own := setReg s (ioPa 0 0) 0x100
    linkUp s = true ∧ linkUp own = true ∧ ownerOf s = 0 ∧ ownerOf own = 1
    ∧ ([(1, 0), (1, 0x1003F8), (0, 0x17FF8), (0, 0x200008)].all fun p => isRegister (ioPa p.1 p.2) && decide (p.2 % 8 = 0)) = true
    ∧ ¬ (0x200008 = 0 ∨ (0x100000 ≤ 0x200008 ∧ 0x200008 < 0x100400) ∨ (0x10000 ≤ 0x200008 ∧ 0x200008 < 0x18000))
    ∧ ¬ ((bytesOfNat 4 0).length = 8 ∧ 0x200008 % 8 = 0) ∧ (bytesOfNat 8 5).length = 8 := by decide +kernel

/-- Nobody, the host and the BMC as owners, a hand to the BMC; DEVPRE and a checkpoint at each point. -/
theorem witness_HostAndPower_control :
    (let own := fun v => (rawReg (setReg State.reset (ioPa 0 0) v) (ioPa 0 0)).toNat
     own 0 / 2 ^ 8 % 4 = 0 ∧ own 0x100 / 2 ^ 8 % 4 = 1 ∧ own 0x200 / 2 ^ 8 % 4 = 2 ∧ own 0x900 / 2 ^ 10 % 4 = 2)
    ∧ (let ck := fun v => (rawReg (setReg State.reset (ioPa 0 0x200018) v) (ioPa 0 0x200018)).toNat / 4 % 8
       ck 0 = 0 ∧ ck 4 = 1 ∧ State.reset.pkg.ckChunk < 8 * (hbmBytes / 4096))
    ∧ (let s := setReg (setReg State.reset (ioPa 0 0x200000) 3) (ioPa 0 0x200010) 0x10000
       (rawReg s (ioPa 0 0x200000)).getLsbD 0 = true ∧ (rawReg s (ioPa 0 0x200000)).getLsbD 1 = true ∧ ¬ rawReg s (ioPa 0 0x200010) = 0)
    ∧ (rawReg State.reset (ioPa 0 0x200000)).getLsbD 0 = false := by decide +kernel

/-- A quiet device; a checkpoint to this package and to another, in each status, at its first chunk and its last. -/
theorem witness_HostAndPower_checkpoint :
    (let s := setReg (setReg State.reset (ioPa 0 0x200000) 3) (ioPa 0 0x200010) 1
     let t := fun (st : Word) (dst : Word) (n : Nat) => let u := setReg (setReg s (ioPa 0 0x200018) st) (ioPa 0 0x200008) dst
       { u with pkg := { u.pkg with ckChunk := n } }
     s.pkg.writers = [] ∧ ¬ (rawReg (t 0 0 0) (ioPa 0 0x200018)).toNat / 4 % 8 = 1 ∧ (rawReg (t 4 0 0) (ioPa 0 0x200018)).toNat / 4 % 8 = 1
     ∧ (rawReg (t 0 0 0) (ioPa 0 0x200000)).getLsbD 1 = true ∧ ¬ rawReg (t 0 0 0) (ioPa 0 0x200010) = 0
     ∧ (rawReg (t 0 0x100 0) (ioPa 0 0x200008)).toNat / 2 ^ 52 = ownPkg s
     ∧ ¬ (rawReg (t 0 0x0070000000000100 0) (ioPa 0 0x200008)).toNat / 2 ^ 52 = ownPkg s
     ∧ (t 4 0 0).pkg.ckChunk < 8 * (hbmBytes / 4096)
     ∧ (t 4 0 (8 * (hbmBytes / 4096) - 1)).pkg.ckChunk + 1 = 8 * (hbmBytes / 4096)
     ∧ (t 4 0 0).pkg.ckDir = false ∧ { (t 4 0 0).pkg with ckDir := true }.ckDir = true
     ∧ (List.replicate 4096 (0 : Byte)).length = 4096)
    ∧ (let s := State.reset
       (rawReg s (ioPa 0 0x200000)).getLsbD 0 = false ∧ ((List.range 8).all fun id => decide ((s.hartAt (4096 + id)).run = .halted)) = true
       ∧ (s.hartAt 0).run = .running) := by decide +kernel

/-- The limit of power at its ends. -/
theorem witness_HostAndPower_power :
    (let s := setReg State.reset (ioPa 0 0x200020) 2000
     max 1000 (min 3600 ((rawReg s (ioPa 0 0x200020)).toNat % 2 ^ 16)) = 2000 ∧ 2000 < 2001 ∧ 2000 ≤ 2000) := by decide +kernel

/-- Window 7 admits every access to the first page; a frame to this package, to all, and to another. -/
theorem witness_FabricEvents_frames :
    (let s := setReg (setReg State.reset (diePa 0 (0x3040 + 16 * 7)) 0x100F) (diePa 0 (0x3048 + 16 * 7)) 0x2000
     let r := fun o => rawReg s (diePa 0 (o + 16 * 7))
     (r 0x3040).getLsbD 0 = true ∧ (r 0x3040).getLsbD 1 = true ∧ (r 0x3040).getLsbD 2 = true ∧ (r 0x3040).getLsbD 3 = true
     ∧ (r 0x3040).toNat / 2 ^ 12 % 2 ^ 40 * 4096 ≤ 0x1FF8 ∧ 0x1FF8 + 8 ≤ (r 0x3048).toNat / 2 ^ 12 % 2 ^ 40 * 4096)
    ∧ ownPkg State.reset = 0 ∧ ¬ (1 = ownPkg State.reset ∨ 1 = 4096) ∧ 0 < 8 ∧ inHbm 0x1FF8 8 = true ∧ 0x1FF8 % 8 = 0
    ∧ (rawReg State.reset (diePa 0 0x3040)).getLsbD 0 = false := by decide +kernel

/-- Frames of each kind to this package, a release after a chunk that its peer owes, and one that asks for nothing. -/
theorem witness_FabricEvents_kinds : let f : Frame := ⟨7, 0, 0, false, 0x1FF8, 0, 1, List.replicate 8 3, [true], none⟩
    let s := setReg (setReg State.reset (diePa 0 (0x3040 + 16 * 7)) 0x100F) (diePa 0 (0x3048 + 16 * 7)) 0x2000
    (f.dpkg = ownPkg s ∧ f.rel = false ∧ 1 ≤ f.bytes.length ∧ f.daddr % 4096 + f.bytes.length ≤ 4096 ∧ inHbm f.daddr f.bytes.length = true
      ∧ f.marks.getD 0 false = true)
    ∧ (let g := { f with rel := true }
       let t := { s with pkg := { s.pkg with owedIn := [{ f with daddr := 0 }, g] } }
       g.rel = true ∧ (t.pkg.owedIn.takeWhile fun x => !decide (x = g)).any (fun x => x.spkg == g.spkg) = true ∧ g ∈ t.pkg.owedIn
       ∧ s.pkg.owedIn = [])
    ∧ ¬ 1 ≤ { f with bytes := [] }.bytes.length
    ∧ (let v := setReg (setReg (setReg State.reset (diePa 0 0x3040) (BitVec.ofNat 64 (vaultPa 3 0) ||| 5)) (diePa 0 0x3048)
          (BitVec.ofNat 64 (vaultPa 3 0x2000))) (ctlPa 3 0x300) 0x200
       regionOf (vaultPa 3 0x1000) = .vault 3 0x1000 ∧ coreDead v 3 = false ∧ (rawReg v (ctlPa 3 0x300)).getLsbD 9 = true
       ∧ (rawReg v (diePa 0 0x3040)).getLsbD 0 = true ∧ (rawReg v (diePa 0 0x3040)).getLsbD 2 = true
       ∧ (rawReg v (diePa 0 0x3040)).toNat / 2 ^ 12 % 2 ^ 40 * 4096 ≤ vaultPa 3 0x1000
       ∧ vaultPa 3 0x1000 + 8 ≤ (rawReg v (diePa 0 0x3048)).toNat / 2 ^ 12 % 2 ^ 40 * 4096)
    ∧ (let x : PeerAtomic := ⟨.cas, 8, 1, 2⟩
       inHbm 0x1FF8 x.width = true ∧ 0x1FF8 % x.width = 0 ∧ ¬ 0x1FFC % x.width = 0) := by decide +kernel

/-- Frames for a collective that takes them, that is over, and that no buffer page can be written for; a restore chunk. -/
theorem witness_FabricEvents_chunks :
    ([CollState.outstanding, .sending, .done].all fun st => decide (((collsOf (collState 0 st 1) 0).find? fun x => x.seq.toNat == 1)
        = some (coll 0 st))) = true
    ∧ (coll 0 .outstanding).takes = true ∧ (coll 0 .outstanding).level = .m ∧ (collsOf State.reset 0).find? (fun x => x.seq.toNat == 1) = none
    ∧ (match (collPas (collAt 0 0 .outstanding) { coll 0 .outstanding with root := 0x100, level := .s } .write (pagesOf 0x40000000 8)).2 with
        | .error (some _) => true | _ => false) = true
    ∧ (let s := setReg (setReg State.reset ckctlPa 4) (ioPa 0 0x200008) 0x0070000000010000
       let t := { s with pkg := { s.pkg with ckDir := true, ckChunk := 3, ckParts := [0x13000] } }
       ckStatus t = 1 ∧ t.pkg.ckDir = true ∧ 0x13000 ∈ t.pkg.ckParts ∧ bits (ckdst t) 63 52 = 7 ∧ ckTierPa t 3 = 0x13000
       ∧ inHbm (ckPa 3 + (0x13000 - ckTierPa t 3)) 4096 = true ∧ t.pkg.ckParts.erase 0x13000 = []
       ∧ ¬ ({ t with pkg := { t.pkg with ckParts := [0x13000, 0x13800] } }).pkg.ckParts.erase 0x13000 = []) := by decide +kernel

/-- A held frame of a collective that is refused, the last of those that are sent, one that is not the last, and one of a save. -/
theorem witness_FabricEvents_held : let f : Frame := ⟨0, 1, 1, false, 0, 0, 1, [], [], none⟩
    let t := fun (st : CollState) (l : List Frame) => let s := collState 0 st 1
      { s with pkg := { s.pkg with held := l.map fun f => ⟨f, false, false⟩ } }
    (t .outstanding [f]).pkg.held[0]? = some ⟨f, false, false⟩ ∧ (t .outstanding [f]).pkg.held[1]? = none ∧ f.kind = 1
    ∧ (commOf (t .outstanding [f]) f.comm).map (fun m => (m.nrank, m.rlist)) = some (2, 0x5000)
    ∧ (collsOf (t .sending [f]) f.comm).find? (fun y => (decide (y.st = .outstanding) || decide (y.st = .sending)) && y.seq.toNat == f.seq)
      = some (coll 0 .sending)
    ∧ rankPkg (t .outstanding [f]) 0x5000 1 = some f.dpkg ∧ ¬ rankPkg (t .outstanding [f]) 0x5000 0 = some f.dpkg
    ∧ ((collsOf (t .sending [f]) 0).map fun y => y.seq).Nodup
    ∧ (((t .sending [f]).pkg.held.eraseIdx 0).any fun y => y.frame.kind == 1 && y.frame.comm == 0 && y.frame.seq == 1) = false
    ∧ (((t .sending [f, f]).pkg.held.eraseIdx 0).any fun y => y.frame.kind == 1 && y.frame.comm == 0 && y.frame.seq == 1) = true
    ∧ (let g : Frame := ⟨0, 7, 0, false, 0x13000, 0, 0, [], [], none⟩
       let s := setReg (t .done [g]) ckctlPa 4
       let s := { s with pkg := { s.pkg with ckParts := [0x13000] } }
       s.pkg.held[0]? = some ⟨g, false, false⟩ ∧ g.kind = 0 ∧ s.pkg.ckDir = false ∧ ckStatus s = 1 ∧ g.daddr ∈ s.pkg.ckParts
       ∧ s.pkg.ckParts.erase g.daddr = []) := by decide +kernel

/-- A chunk to a collective that has failed, to one whose page is held, and to a Square cell whose group has yet to land; a refused frame
with a port up and with none. -/
theorem witness_FabricEvents_waits :
    (coll 0 (.retired 4)).takes = false
    ∧ (let s := collAt 0x1000 0x2000 .outstanding
       let s := { s with dies := { s.dies with migs := [(0, [⟨5, 0, 0, 0x7000, 0x102000, 0x300000, 1, 2, 0, 0, []⟩])] } }
       let x := { coll 0 .outstanding with root := 0x100, level := .s }
       x.takes = true ∧ (match (collPas s x .write (pagesOf 0x2000 8)).2 with | .error none => true | _ => false) = true)
    ∧ (let s := (State.reset.setHart 0 { State.reset.hartAt 0 with grant := 1 })
       let s := setUnlanded s 0 3 0 true
       (match collPas s (coll 0 .outstanding) .write (pagesOf (squarePa 0 3 0) 8) with
        | (u, .ok pas) => pas.any fun p => (List.range p.2).any fun k => !byteReady u (p.1 + k) | _ => false) = true)
    ∧ (let f : Frame := ⟨0, 1, 1, false, 0, 0, 1, [], [], none⟩
       let s := { collState 0 .sending 1 with pkg := { (collState 0 .sending 1).pkg with held := [⟨f, true, false⟩] } }
       let t := setReg s (diePa 0 (0x3100 + 16 * 5)) 0x0B
       (s.pkg.held[0]?.map fun x => x.refused) = some true ∧ framePort s f = none ∧ framePort t f = some 5 ∧ portUp t 5 = true) := by
  decide +kernel

/-- A frame whose lines take every form of the compressor: zeros, one word repeated, few words, and all. -/
theorem witness_FabricEvents_image :
    let f : Frame := ⟨1, 2, 0, true, 0x1000, 3, 9, List.replicate 128 0 ++ (List.replicate 16 [(1 : Byte), 0, 0, 0, 0, 0, 0, 0]).flatten
      ++ (List.range 8).map (BitVec.ofNat 8 ·) ++ List.replicate 120 0 ++ (List.range 130).map (BitVec.ofNat 8 ·), [true, false, true, false, false], none⟩
    f.spkg < 2 ^ 16 ∧ ¬ f.kind = 2 ∧ ¬ f.kind = 6 ∧ 1 ≤ f.bytes.length ∧ f.bytes.length ≤ 4096
    ∧ f.marks.length = (f.bytes.length + 127) / 128 ∧ expandFrame (frameImage f) = some f := by decide +kernel

/-- This package is the home of pod barriers; arrivals that leave a phase open and complete it; a member, and none. -/
theorem witness_FabricEvents_barriers : let s := setReg State.reset (diePa 0 0x3000) 0x10001000
    let two := { s with pkg := { s.pkg with podArrived := [(15, ⟨0, 1, 2⟩)], podMembers := [(1, 5, 15, 0)] } }
    (podRemote s = true ∧ barrierHome s = ownPkg s ∧ 15 < 16)
    ∧ ¬ (homeBarrier s 15).arrived + 1 = 2 ∧ (homeBarrier two 15).arrived + 1 = (homeBarrier two 15).expected
    ∧ two.pkg.podMembers.find? (fun m => m.1 == 1 && m.2.1 == 5 && m.2.2.1 == 15 && m.2.2.2 == (homeBarrier two 15).phase) = some (1, 5, 15, 0)
    ∧ podRecord s 0 15 = none
    ∧ ([PodRecord.arrivalSent, .joined 3, .withdrawSent none, .withdrawSent (some 3), .withdrawn, .completed 3].all fun r =>
        decide (podRecord (setPodRecord s 0 15 (some r)) 0 15 = some r)) = true
    ∧ 1 ≤ scopeLimit .pod ∧ phasePast (podCopy { s with pkg := { s.pkg with podCopies := [(15, 1)] } } 15) 0 = true
    ∧ phasePast (podCopy s 15) 0 = false := by decide +kernel

/-! Encoding and the step -/

/-- Well-formed instructions with operands at the ends of their fields, and their parcels. -/
theorem witness_EncodeDecode : ([Instr.addi 31 31 0x8000, .jal 0x2000000, .convoy 2 0x04000 [0, BitVec.allOnes 64],
      .vadd (VOp.mk 12 none 0 true false 47 47 .ui64 (.vi 0x10000)), .collAred .min (ExOp.mk 31 0 255 31 31 31 9)].all fun i =>
    i.wf && (match encode i with | some ps => reads ps i | none => false)) = true := by decide +kernel

/-- The bytes at the pc of a hart that runs, and the instruction they are. -/
theorem witness_StepRunsDecoded : let s := State.reset.withFetchWord 32 0x04642800
    s.pkg.power = .on ∧ s.hart.run = .running ∧ s.hart.hold = .none ∧ s.hart.stopReq = false ∧ s.hart.forced = false
    ∧ s.hart.stopAt.isSome = false ∧ s.hart.level = .m ∧ s.hart.pc.toNat < 2 ^ 40 ∧ inHbm s.hart.pc.toNat 4 = true
    ∧ ((List.range 4).all fun k => !memMark s (s.hart.pc.toNat + k)) = true
    ∧ (tickState s).agenda = [] ∧ irqNext (tickState s) s.cur = none
    ∧ okIs (fetchInstr ((tickState s).putHart { (tickState s).hart with hold := .none })) (fun r => r.2 == [0x04642800]) = true := by
  decide +kernel

/-- An event that is due. -/
theorem witness_StepRunsDecoded_event :
    (tickState { State.reset with agenda := [.pauseExpire 0] }).agenda = [.pauseExpire 0] := by decide +kernel

/-- A step from reset with an instruction placed there: `StepKeepsInv` meets its hypotheses. -/
theorem witness_StepKeepsInv : let s := State.reset.withFetchWord 32 0x04642800
    s.memoriesWf = true ∧ s.scheduleWf = true ∧ (match step s with | .next _ => true | _ => false) = true := by decide +kernel

/-! One step each: values from the spec's tables and worked examples, or by hand from its rules -/

/-- A scalar result. -/
def gives (i : Instr) (s : State) (rd : SReg) (v : Word) : Bool := runs i s fun t => decide (t.rS rd = v)

/-- R102: a zero divisor and the most negative number over −1; R101 and R106: wraps, signs and shifts. -/
theorem test_integers : (let s := regsOnly [(1, 7), (2, 0), (3, 0x8000000000000000), (4, 0xFFFFFFFFFFFFFFFF)]
    gives (.div 5 1 2) s 5 0xFFFFFFFFFFFFFFFF && gives (.rem 5 1 2) s 5 7 && gives (.div 5 3 4) s 5 0x8000000000000000
    && gives (.rem 5 3 4) s 5 0 && gives (.add 5 1 4) s 5 6 && gives (.mulh 5 3 4) s 5 0 && gives (.mulhu 5 3 4) s 5 0x7FFFFFFFFFFFFFFF
    && gives (.mulhsu 5 4 4) s 5 0xFFFFFFFFFFFFFFFF && gives (.sra 5 3 1) s 5 0xFF00000000000000 && gives (.slt 5 3 1) s 5 1
    && gives (.sltu 5 3 1) s 5 0 && gives (.add 0 1 1) s 0 0 && gives (.lui 5 0x8000) s 5 0xFFFFFFFF80000000
    && gives (.clz 5 1) s 5 61 && gives (.bswap 5 1) s 5 0x0700000000000000 && gives (.addx 5 1 1 3) s 5 63) = true := by decide +kernel

/-- R109, R110: the pc after a branch back and a link; s31 takes the return address. -/
theorem test_branches : (let s := (regsOnly [(6, 1), (31, 0x4000)]).setPc 0x1010
    runs (.bne 6 0 0xFFFD) s (fun t => decide (t.hart.pc = 0x1004)) && runs (.beq 6 0 5) s (fun t => decide (t.hart.pc = 0x1014))
    && runs (.jal 0x3FFFFFF) s (fun t => decide (t.hart.pc = 0x100C ∧ t.rS 31 = 0x1014))
    && runs (.jalr 0 31 0) s (fun t => decide (t.hart.pc = 0x4000))) = true := by decide +kernel

/-- R119: `fcvt.si32.fp32.rne` of −2.5 gives −2 with NX, `fcvt.si32.fp32.sat` of 3.0e9 gives 0x7FFF_FFFF with SATF. -/
theorem test_fcvt : (let s := withFloats [(1, 0xC0200000), (2, 0x4F32D05E)] State.reset
    runs (.fcvt .si32 .fp32 false (some .rne) 3 1) s (fun t => decide (t.rS 3 = 0xFFFFFFFFFFFFFFFE ∧ t.hart.conf.fmode >>> 4 = fNX.zeroExtend 16))
    && runs (.fcvt .si32 .fp32 true none 3 2) s (fun t => decide (t.rS 3 = 0x7FFFFFFF ∧ t.hart.conf.fmode >>> 4 = fSATF.zeroExtend 16)))
    = true := by decide +kernel

/-- 1 + 2^−24 rounds to even, and up under `.rup`; 1/3 in fp32. -/
theorem test_float_rounding : (let s := withFloats [(1, 0x3F800000), (2, 0x33800000), (3, 0x40400000)] State.reset
    runs (.fadd .fp32 none 4 1 2) s (fun t => decide (t.rF 4 = 0x3F800000)) && runs (.fadd .fp32 (some .rup) 4 1 2) s (fun t => decide (t.rF 4 = 0x3F800001))
    && runs (.fdiv .fp32 none 4 1 3) s (fun t => decide (t.rF 4 = 0x3EAAAAAB))) = true := by decide +kernel

/-- R122: bytes lie lowest first, and `lb` extends the sign; a store of one byte leaves its neighbours. -/
theorem test_memory : (let s := regsOnly [(1, 0x1000), (2, 0x1122334455667788)]
    runs (.sd 2 1 0) s (fun t => decide (memByte t 0x1000 = 0x88 ∧ memByte t 0x1007 = 0x11 ∧ memByte t 0x1008 = 0)
      && gives (.lb 3 1 0) t 3 0xFFFFFFFFFFFFFF88 && gives (.lhu 3 1 6) t 3 0x1122
      && runs (.sb 0 1 1) t (fun u => decide (memByte u 0x1000 = 0x88 ∧ memByte u 0x1001 = 0 ∧ memByte u 0x1002 = 0x66)))) = true := by decide +kernel

/-- R125, R127: `amo.max` is signed and gives the old word sign-extended; `cas` writes on a match only. -/
theorem test_atomics : (let s := withMem 0x1000 4 0xFFFFFFFF (regsOnly [(1, 0x1000), (2, 5), (3, 0xFFFFFFFFFFFFFFFF)])
    runs (.amo .max false .relaxed .core 4 1 2) s (fun t => decide (t.rS 4 = 0xFFFFFFFFFFFFFFFF ∧ memByte t 0x1000 = 5 ∧ t.hart.stat.ceff = true))
    && runs (.cas false .relaxed .core 3 1 2) s (fun t => decide (memByte t 0x1000 = 5))
    && runs (.cas false .relaxed .core 2 1 0) s (fun t => decide (memByte t 0x1000 = 0xFF ∧ t.rS 2 = 0xFFFFFFFFFFFFFFFF))) = true := by decide +kernel

/-- R41, R42, R43: `trap` at U goes to the S handler with the pc after it, at M to the M handler, and `eret` goes back. -/
theorem test_traps : (let s := (withHart fun x => { x with level := .u, pc := 0x1000, strap := { x.strap with vec := 0x8000 } })
    runs (.trap 0x42) s (fun t => decide (t.hart.pc = 0x8000 ∧ t.hart.level = .s ∧ t.hart.strap.cause = 0x0009 ∧ t.hart.strap.val = 0x42
        ∧ t.hart.strap.pc = 0x1004 ∧ t.hart.stat.snest = true)
      && runs .eret t (fun u => decide (u.hart.pc = 0x1004 ∧ u.hart.level = .u ∧ u.hart.stat.snest = false)))
    && runs .eret s (fun t => decide (t.hart.strap.cause = 0x0002 ∧ t.hart.strap.val = 0x7C000000 ∧ t.hart.pc = 0x8000))
    && runs (.ld 1 0 4) s (fun t => decide (t.hart.strap.cause = 0x0006 ∧ t.hart.strap.val = 4))
    && runs (.trap 1) (withHart fun x => { x with mtrap := { x.mtrap with vec := 0x9000 } })
        (fun t => decide (t.hart.pc = 0x9000 ∧ t.hart.mtrap.cause = 0x0309 ∧ t.hart.stat.mpp = .m))) = true := by decide +kernel

/-- R32: a write of `vl` above VLMAX is clamped to it; `csrw` gives the old value. -/
theorem test_csr : (let s := withRegs [(1, 500)] (lanes 3 2)
    runs (.csrw 2 1 0x000) s (fun t => decide (t.rS 2 = 3 ∧ t.vl = 32))) = true := by decide +kernel

/-- R133: the last of two arrivals completes the phase; `bar.arr` gives the phase joined. -/
theorem test_barrier : (let s := regsOnly [(1, 3), (2, 2)]
    runs (.barArr .die 4 1 2) s (fun t => decide (t.rS 4 = 0)
      && runs (.barArr .die 4 1 2) t (fun u => decide ((barrierAt u (barrierKey .die (scopeInst .die 0) 3)).phase = 1))
      && runs (.bar .die 1 2) t (fun u => decide (u.hart.hold = .none)))
    && runs (.bar .die 1 2) s (fun t => decide (t.hart.hold = .bar .die 3 0))) = true := by decide +kernel

/-- R277, R266: a record makes entry 0 of the die READY with generation 1; R278: `texit` zeroes its clusters. -/
theorem test_tasks : (runs (.tspawnDie 2 1) (withMem 0x1000 64 taskRecord (regsOnly [(1, 0x1000)]))
      (fun t => decide (t.rS 2 = 0x100000000 ∧ (taskAt t 0 0).state = .ready ∧ (taskAt t 0 0).entry = 0x100))
    && runs (.texit 0) (running fun t => t) (fun t => decide (t.hart.run = .idle ∧ zeroing t 0 = 1 ∧ (taskAt t 0 0).state = .free))) = true := by
  decide +kernel

/-- The consumer of spec/09's worked example: clusters 0 to 3, VLMAX 128, pref 4, bound to a producer with high-water `phw`. -/
def consumer (phw bcur vl left : Word) (part : Word) : State :=
  let s := withHart fun x => { x with level := .u, grant := 0x0F, task := some 0, conf := { x.conf with vew := 2, vl := BitVec.ofNat 11 vl.toNat } }
  let t : Task := { Task.reset with state := .running, gen := 1, cmin := 1, cpref := 4, min := 1, pref := 4, producer := some 1, bcur := bcur }
  let s := setTask (setTask s 0 0 t) 0 1 { Task.reset with state := .running, gen := 1, phw := phw }
  { withRegs [(6, left), (8, 0x1000), (9, 0x2000)] s with cores := { s.cores with lpart := [(0, part)] } }

/-- Step 1 of the example before and after P publishes 100, and step 2 after PART3 = 0b11 and 300 published. -/
theorem test_strip : (runs (.vgrant 5 6) (consumer 0 0 0 300 0x0F) (fun t => decide (t.hart.hold = .boundary (.vgrant 5 6)))
    && runs (.vgrant 5 6) (consumer 100 0 0 300 0x0F) (fun t => decide (t.rS 5 = 100 ∧ t.hart.grant = 0x0F ∧ (taskAt t 0 0).bcur = 100))
    && runs (.strip 6 9 0xFFFA) ((consumer 300 100 100 300 0x03).setPc 0x1018) (fun t => decide (t.vl = 64 ∧ t.hart.grant = 0x03
        ∧ t.rS 6 = 200 ∧ (taskAt t 0 0).bcur = 164 ∧ t.hart.pc = 0x1000 ∧ t.rS 8 = 0x1190 ∧ t.rS 9 = 0x2190 ∧ zeroing t 0 = 0x0C))) = true := by
  decide +kernel

/-! The spec's worked examples -/

/-- Elements of a row from element 0 on. -/
def row (s : State) (r ew n : Nat) : List Nat := (List.range n).map fun e => elemAt s r ew e

/-- A row with the listed elements. -/
def withRow (r ew : Nat) (l : List Nat) (s : State) : State :=
  (enumList l).foldl (fun s p => putElem s r ew p.1 p.2 false) s

/-- `vadd` wraps and `.sat` clamps with SATF; the masked element stays (R26, R159). -/
theorem test_vector_add : (let s := withRow 5 32 [1, 1, 1, 1] (withRow 4 32 [0x7FFFFFFF, 2, 3, 0xFFFFFFFF] (lanes 4 2))
    let o := vop 3 4 .si32 (.vr 5 0 .si8)
    runs (.vadd o) s (fun t => decide (row t 3 32 4 = [0x80000000, 3, 4, 0] ∧ t.hart.conf.fmode = 0 ∧ t.hart.pc = 8))
    && runs (.vadd { o with mod1 := true }) s (fun t => decide (row t 3 32 4 = [0x7FFFFFFF, 3, 4, 0] ∧ t.hart.conf.fmode >>> 4 = fSATF.zeroExtend 16))
    && runs (.vadd { o with mask := 1 }) (s.putHart (s.hart.wM 0 5)) (fun t => decide (row t 3 32 4 = [0x80000000, 0, 4, 0]))) = true := by
  decide +kernel

/-- Slides, a comparison, counts and a sum of four elements. -/
theorem test_vector_rest : (let s := withRegs [(10, 9)] (withRow 4 32 [1, 2, 3, 4] (lanes 4 2))
    runs (.vslide1Up (VOp.mk 0 none 10 false false 2 4 .si32 nil2)) s (fun t => decide (row t 2 32 4 = [9, 1, 2, 3]))
    && runs (.vslide1Dn (VOp.mk 0 none 10 false false 2 4 .si32 nil2)) s (fun t => decide (row t 2 32 4 = [2, 3, 4, 9]))
    && runs (.vcmp .ge (vop 1 4 .si32 (.vr 4 0 .si8))) s (fun t => decide ((t.hart.rM 1).toNat = 15)
      && runs (.mpopc (VOp.mk 0 none 11 false false 0 1 .si8 nil2)) t (fun u => decide (u.rS 11 = 4)))
    && runs (.vredsum (VOp.mk 0 none 10 false false 0 4 .si32 nil2)) s (fun t => decide (t.rS 10 = 19))
    && runs (.vrgather (vop 3 4 .si32 (.vr 4 0 .si8))) s (fun t => decide (row t 3 32 4 = [2, 3, 4, 0]))
    && runs (.vext (VOp.mk 0 none 12 false false 0 4 .si32 (.vi 3))) s (fun t => decide (t.rS 12 = 4))) = true := by decide +kernel

/-- R172, R173: 2^−1.5 has the nearest penny 0.375, code 10, with NX. -/
theorem test_vpenny : (runs (.vpenny (vop 3 4 .fp32 nil2)) (withRow 4 32 [0xBFC00000] (lanes 1 2))
    (fun t => decide (elemAt t 3 8 0 = 10 ∧ t.hart.conf.fmode >>> 4 = fNX.zeroExtend 16))) = true := by decide +kernel

/-- spec/06's tile: cluster 3, A at 0x100 and B at 0x400, three units. -/
def tile : State :=
  let s := withHart fun x => { x with grant := 8, conf := { x.conf with vew := 2, vl := 4 } }
  let a := [0x3F800000, 0x3F800000, 0x40000000, 0, 0x40400000, 0xBF800000]
  let b := [(0, [0x3F800000, 0x3F800000, 0x3F800000, 0x3F800000]), (1, [0, 0x3F800000, 0x40000000, 0x40400000]),
    (2, [0x40000000, 0, 0x3F000000, 0x40000000])]
  let s := (enumList a).foldl (fun s p => pokeBytes s (vaultPa 0 (0x100 + 4 * p.1)) (bytesOfNat 4 p.2)) s
  let s := b.foldl (fun s l => (enumList l.2).foldl
    (fun s p => pokeBytes s (vaultPa 0 (0x600400 + 128 * l.1 + 4 * p.1)) (bytesOfNat 4 p.2)) s) s
  withRegs [(4, 0x100), (5, 0x400), (6, 3)] s

/-- Its final cells (spec/06_square.md, the two-row FP32 tile). -/
theorem test_tile : runs (.mmkF (SqOp.mk 0 .fp32 .fp32 4 5 6 0 1 none 0)) tile (fun t =>
    decide (cell t 0 0 48 = 0x4040000040E00000 ∧ cell t 0 0 49 = 0x4150000040D00000 ∧ cell t 0 1 48 = 0x3F800000BF800000
      ∧ cell t 0 1 49 = 0xBF8000003F000000 ∧ t.hart.conf.fmode = 0 ∧ t.vsi = 0)) = true := by decide +kernel

/-- spec/08's second tile: scores in v0, the triple after the first tile at v30, the output row v40 so far. -/
def attn (vl : BitVec 11) (scores : List Nat) (m l alpha : Nat) : State :=
  withRow 40 32 [0x3FE00000, 0x40000000] (withRow 32 32 [alpha] (withRow 31 32 [l] (withRow 30 32 [m] (withRow 0 32 scores (lanes vl 2)))))

/-- `asmax`: m becomes 4.0 and α 0.5. `apexp`: codes 0, 10, 63, 63 and l = 2.3125, with NX. -/
theorem test_attention : (runs (.asmax (vop 0 0 .fp32 (.vr 30 0 .si8)))
      (attn 4 [0x40800000, 0x40200000, 0xFF800000, 0xFF800000] 0x40400000 0x3FF00000 0) (fun t =>
        decide (elemAt t 30 32 0 = 0x40800000 ∧ elemAt t 32 32 0 = 0x3F000000)
        && runs (.apexp (vop 1 0 .fp32 (.vr 30 0 .si8))) t (fun u =>
          decide (row u 1 8 4 = [0, 10, 63, 63] ∧ elemAt u 31 32 0 = 0x40140000 ∧ u.hart.conf.fmode >>> 4 = fNX.zeroExtend 16)))) = true := by
  decide +kernel

/-- `akvmask` sets keys 6 and 7 of the tile to −∞; `afin` divides by 2.3125 and clears bit 0 of m2. -/
theorem test_attention_ends : (runs (.akvmask (VOp.mk 0 none 9 false true 0 0 .fp32 (.vr 0 0 .si8)))
      (withRegs [(9, 5 * 2 ^ 32 + 4)] (attn 4 [0x40800000, 0x40200000, 0x41100000, 0x41100000] 0 0 0)) (fun t =>
        decide (row t 0 32 4 = [0x40800000, 0x40200000, 0xFF800000, 0xFF800000]))
    && runs (.afin (vop 40 2 .fp32 (.vr 30 0 .si8))) (withRow 40 32 [0x3FA00000, 0x41160000] (attn 2 [] 0x40800000 0x40140000 0x3F000000)) (fun t =>
        decide (row t 40 32 2 = [0x3F0A60DD, 0x4081BAD0] ∧ (t.hart.rM 2).getLsbD 0 = false))) = true := by decide +kernel

/-- spec/12's gather of eight elements across the quad. -/
theorem test_quad_gather : (let w := fun (c o v : Nat) (s : State) => pokeBytes s (vaultPa c o) (bytesOfNat 4 v)
    let s := w 0 0x40 0x41200000 (w 1 0 0x3F800000 (w 1 0x400 0x40400000 (w 2 8 0x41A00000 (w 1 4 0x40000000 (w 3 0x10 0x41F00000
      (w 2 0x88 0x41A80000 (w 0 0x44 0x41300000 (lanes 8 2))))))))
    let s := withRow 1 32 [0x40, 0x1000000, 0x1000400, 0x2000008, 0x1000004, 0x3000010, 0x2000088, 0x44] s
    runs (.vldx (VOp.mk 0 none 0 false false 2 0 .fp32 (.vr 1 0 .ui32))) (s.setConf { s.hart.conf with space := 1 }) (fun t =>
      decide (row t 2 32 8 = [0x41200000, 0x3F800000, 0x40400000, 0x41A00000, 0x40000000, 0x41F00000, 0x41A80000, 0x41300000]
        ∧ (List.range 4).map (fun c => rawReg t (ctlPa c 0x108) - rawReg s (ctlPa c 0x108)) = [1, 1, 1, 1]))) = true := by decide +kernel

/-- spec/15's interval: targets (4, 4, 4), two moves, from the stage of eight cores to the others. -/
theorem test_balancer : (let g := fun (im om : BitVec 32) (w mx : Nat) => StageDesc.mk 0 1 mx w im om 0 0 0 1 1 0 0 0 0
    let place := fun (c : Nat) => PoolPlace.serves (if c < 2 then 0 else if c < 10 then 1 else 2) 255
    let p := { Pipe.reset with
      gen := 1
      state := 1
      movemax := 2
      avs := [⟨16, 1024⟩, ⟨16, 512⟩]
      stages := [g 0 1 1 4, g 1 2 4 10, g 2 0 1 4]
      pool := (List.range 12).map fun c => (c, place c)
      allot := [2, 8, 2] }
    let s := { State.reset with dies := { Dies.reset with pipes := [(1, p)] } }
    runs (.balancerInterval 0 1) (setAvCounters (setAvCounters s 0 1 0 0 768) 0 1 1 0 512) (fun t =>
      decide ((pipeAt t 0 1).target = [4, 4, 4] ∧ (pipeAt t 0 1).allot = [3, 6, 3] ∧ assoc 9 (pipeAt t 0 1).pool = some (.leaving 1 (some 0))
        ∧ assoc 8 (pipeAt t 0 1).pool = some (.leaving 1 (some 2))))) = true := by decide +kernel

/-- spec/16's Heun–Euler pair. -/
def heun : Nat :=
  2 + 1 * 2 ^ 8 + (0x3F800000 * 2 ^ 32) * 2 ^ 128 + (0x3F000000 + 0x3F000000 * 2 ^ 32) * 2 ^ 384 + 0x3F800000 * 2 ^ 640
    + 0x3F800000 * 2 ^ 1152
    + (([0x3F800000, 0x3E800000, 0x40800000, 0x3F800000, 0x3E800000, 0x3D000000, 0x3D000000, 0x3A800000, 0x3F800000].foldr
        (fun c acc => c + 2 ^ 32 * acc) 0) * 2 ^ 2944)

/-- Attempt 1 of the example at its end: k_0 = −1 and k_1 = −0.5 stand in the history. The step is rejected: H = 0.25, NREJ = 1,
KV = 1. -/
theorem test_assayer_rejects : (let x : Sample := { Sample.reset with
      state := .run
      h := 0x3F000000
      tend := 0x3F800000
      eprev := 0x3F800000
      n := 1
      y := 0x8000
      hist := 0x9000
      level := .m
      attempt := .finish
      hcur := 0x3F000000
      counter := 2 }
    let s := assaying [(0, x)] fun e => { e with work := [0] }
    let s := { s with dies := { s.dies with methods := [(0, some heun)] } }
    runs (.assayerCombination 0) (withMem 0x8000 4 0x3F800000 (withMem 0x9000 4 0xBF800000 (withMem 0x9080 4 0xBF000000 s))) (fun t =>
      decide ((sampleAt t 0 0).h = 0x3E800000 ∧ (sampleAt t 0 0).nrej = 1 ∧ (sampleAt t 0 0).kv = true
        ∧ (assayerAt t 0).rejected = 1))) = true := by decide +kernel

/-- R331, R346: a push counts and stamps; a pop from the emptied avenue waits. -/
theorem test_avenue : (let s := withRegs [(4, 0x1000), (5, 1)] (withMem 0x1000 8 77 (withAvenues 4 { State.reset with clock := [(0, 99)] }))
    let o := ExOp.mk 0 0 0 6 5 4 0
    runs (.avpush o) s (fun t => decide (t.rS 6 = 0 ∧ avTail t 0 0 0 = 1 ∧ memByte t 0x200000 = 77 ∧ memByte t (0x200000 + 256) = 99)
      && runs (.avpop o) t (fun u => decide (u.rS 6 = 99 ∧ avHead u 0 0 0 = 1)))
    && runs (.avpop o) s (fun t => decide (t.hart.hold = .avenue false 1 0x1000 6))) = true := by decide +kernel

/-- R133, R405, R407: a semaphore that satisfies, one that waits; `qsel` gives the old selection. -/
theorem test_command : (let s := setReg (withRegs [(1, 200), (2, 3), (3, 7), (4, 9)] atCommand) (semPa 200) 5
    runs (.semWaitGe 5 1 2) s (fun t => decide (t.rS 5 = 5)) && runs (.semWaitGe 5 1 3) s (fun t => decide (t.hart.hold = .retry))
    && runs (.semSigAdd 5 1 2) s (fun t => decide (t.rS 5 = 5 ∧ semAt t 200 = 8)) && runs (.qsel 5 4) s (fun t => decide (t.rS 5 = 0x80 ∧ t.hart.xq = 9)))
    = true := by decide +kernel

/-- A step from reset fetches and runs the placed instruction: `addi s5, s5, 8`. -/
theorem test_step : (match step (State.reset.withFetchWord 32 0x14A50008) with
    | .next t => decide ((t.hartAt 0).rS 5 = 8 ∧ (t.hartAt 0).pc = 4) | _ => false) = true := by decide +kernel
end Sys2Proof.Tests
end

section
/-! PROOFS of the hart's statements: what a trap return (R43, R142) leaves and what it restores. -/

namespace Sys2Proof.Proofs

open Sys2Proof Sys2Proof.Machine
open Host (Outcome)

/-! Device pre-emption: what settling may change (R413) -/

theorem devSettle_cases (s : State) :
    devSettle s = s ∨ (devReq s = true ∧ devSettle s = setReg s devprePa 3) := by
  unfold devSettle
  split
  next h => exact .inr ⟨h.1, rfl⟩
  next => exact .inl rfl

/-! The sampled translation pair (R301) -/

/-- A hart with the pair that hart `h` samples. -/
def withPair (s : State) (h : Nat) (x : Hart) : Hart :=
  { x with
    root := BitVec.ofNat 40 (bits (rawReg s (rootPa h)) 51 12)
    asid := BitVec.ofNat 16 (bits (rawReg s (asidPa h)) 15 0) }

theorem withPair_run (s : State) (h : Nat) (x : Hart) : (withPair s h x).run = x.run := rfl

/-- A pair sampled after an update of the current hart is the pair sampled before it: the pair's registers are no part of
a hart. -/
theorem samplePair_putHart (s : State) (y : Hart) :
    samplePair (s.putHart y) s.cur = (s.putHart y).putHart (withPair s s.cur y) := by
  simp only [samplePair, hartAt_cur_putHart]
  rfl

/-! The hart after a return, by the level it returns from (R43, R269) -/

theorem return_of_s {x : Hart} (h : x.level = .s) :
    x.return = { x with
      pc := x.strap.pc
      conf := { x.conf with vsi := x.strap.vsi }
      level := if x.stat.spp then .s else .u
      stat := { x.stat with sie := x.stat.spie, spie := true, snest := false } } := by
  simp only [Hart.return, h]

theorem return_of_m_parked {x : Hart} (h : x.level = .m) (p : x.parked = some 0) :
    x.return = { x with
      run := .idle
      parked := none
      pc := x.mtrap.pc
      conf := { x.conf with vsi := x.mtrap.vsi }
      level := x.stat.mpp
      stat := { x.stat with mie := x.stat.mpie, mpie := true, mnest := false } } := by
  simp [Hart.return, h, p]

/-- A count of nested entries, none of them the first, is one less. -/
theorem parked_bind_pred {o : Option Nat} (p : ¬ o = some 0) :
    o.bind (fun n => if n = 0 then none else some (n - 1)) = o.map (fun n => n - 1) := by
  cases o with
  | none => rfl
  | some n => simp_all

theorem return_of_m_not_parked {x : Hart} (h : x.level = .m) (p : ¬ x.parked = some 0) :
    x.return = { x with
      parked := x.parked.map (fun n => n - 1)
      pc := x.mtrap.pc
      conf := { x.conf with vsi := x.mtrap.vsi }
      level := x.stat.mpp
      stat := { x.stat with mie := x.stat.mpie, mpie := true, mnest := false } } := by
  simp only [Hart.return, h, p, parked_bind_pred p, if_false]

/-- Only the end of the handler that a partition without a task took MCHECK to changes whether the hart runs. -/
theorem return_run {x : Hart} (p : ¬ x.parked = some 0) : x.return.run = x.run := by
  unfold Hart.return
  split <;> simp [p]

/-! `eret` -/

/-- `eret` goes on with the hart `y` and its newly sampled pair, and leaves every other hart and the rest of the state: the
registers too, but where device pre-emption may end (R413). -/
def EretTo (s : State) (y : Hart) : Prop :=
  ∃ t, exec .eret s = .next t ∧ (∀ h, h ≠ s.cur → t.hartAt h = s.hartAt h)
    ∧ { t with harts := s.harts, regs := s.regs } = s
    ∧ (devReq s = false ∨ ¬ s.hart.parked = some 0 → t.regs = s.regs)
    ∧ t.hart = withPair s s.cur y

/-- The state that `eret` leaves before device pre-emption may settle. -/
def returned (s : State) : State := samplePair (s.putHart s.hart.return) s.cur

theorem returned_eq (s : State) :
    returned s = (s.putHart s.hart.return).putHart (withPair s s.cur s.hart.return) := samplePair_putHart s _

theorem returned_hart (s : State) : (returned s).hart = withPair s s.cur s.hart.return := by
  rw [returned_eq, hart_putHart]

theorem returned_hartAt_ne (s : State) (h : Nat) (e : h ≠ s.cur) : (returned s).hartAt h = s.hartAt h := by
  rw [returned_eq]
  exact (hartAt_putHart_ne (s.putHart _) h _ e).trans (hartAt_putHart_ne s h _ e)

theorem returned_rest (s : State) : { returned s with harts := s.harts, regs := s.regs } = s := rfl

theorem exec_eret {s : State} (h : ¬ s.hart.level = .u) :
    exec .eret s = .next (if (returned s).hart.run = s.hart.run then returned s else devSettle (returned s)) := by
  change execEret s = _
  rw [execEret, needS_ok _ h]
  rfl

theorem exec_eret_of_u {s : State} (h : s.hart.level = .u) :
    exec .eret s = .next (takeTrap s (tPriv (instrBits .eret))) := by
  change execEret s = _
  simp only [execEret, needS_trap _ h, error_bind, finish_trap]

/-- Either the registers stay, or a request stands and the partition is idle again, and DONE is set. -/
theorem exec_eret_cases {s : State} (h : ¬ s.hart.level = .u) :
    exec .eret s = .next (returned s)
    ∨ (devReq s = true ∧ s.hart.parked = some 0 ∧ exec .eret s = .next (setReg (returned s) devprePa 3)) := by
  rw [exec_eret h]
  by_cases hr : (returned s).hart.run = s.hart.run
  · exact .inl (by rw [if_pos hr])
  · have hp : s.hart.parked = some 0 := by
      by_contra p
      exact hr (by rw [returned_hart, withPair_run, return_run p])
    rw [if_neg hr]
    obtain e | ⟨q, e⟩ := devSettle_cases (returned s)
    · exact .inl (by rw [e])
    · exact .inr ⟨q, hp, by rw [e]⟩

theorem eretTo_return {s : State} (h : ¬ s.hart.level = .u) : EretTo s s.hart.return := by
  obtain e | ⟨q, p, e⟩ := exec_eret_cases h
  · exact ⟨_, e, returned_hartAt_ne s, returned_rest s, fun _ => rfl, returned_hart s⟩
  · refine ⟨_, e, returned_hartAt_ne s, returned_rest s, fun c => ?_, returned_hart s⟩
    simp [q, p] at c

/-- Settles O13: `eret` completes to the hart of `trap_return`, whose fields are those of its level's set. -/
theorem trapReturn : Obligations.TrapReturn := by
  intro s
  refine ⟨fun hs => ?_, fun hm p => ?_, fun hm p => ?_, exec_eret_of_u⟩
  · exact return_of_s hs ▸ eretTo_return (by simp [hs])
  · exact return_of_m_parked hm p ▸ eretTo_return (by simp [hm])
  · exact return_of_m_not_parked hm p ▸ eretTo_return (by simp [hm])

end Sys2Proof.Proofs
end

section
/-! PROOFS about words: what the operations of the scalar instructions compute, as numbers (R101, R102, R104 to R108). -/

namespace Sys2Proof.Proofs

open Sys2Proof Sys2Proof.Machine

/-! Words as numbers: what each operation on words computes (R101, R102, R104, R106) -/

theorem sub_eq_ofInt (a b : Word) : a - b = BitVec.ofInt 64 ((a.toNat : Int) - b.toNat) := by
  simp only [Int.sub_eq_add_neg, BitVec.ofInt_add, BitVec.ofInt_neg, BitVec.ofInt_natCast, BitVec.ofNat_toNat,
    BitVec.setWidth_eq, BitVec.sub_eq_add_neg]

theorem shiftLeft_eq_ofNat (a : Word) (n : Nat) : a <<< n = BitVec.ofNat 64 (a.toNat * 2 ^ n) := by
  apply BitVec.eq_of_toNat_eq
  rw [BitVec.toNat_shiftLeft, Nat.shiftLeft_eq, BitVec.toNat_ofNat]

theorem shiftRight_eq_ofNat (a : Word) (n : Nat) : a >>> n = BitVec.ofNat 64 (a.toNat / 2 ^ n) := by
  apply BitVec.eq_of_toNat_eq
  have := Nat.div_le_self a.toNat (2 ^ n)
  rw [BitVec.toNat_ushiftRight, Nat.shiftRight_eq_div_pow, BitVec.toNat_ofNat, Nat.mod_eq_of_lt (by omega)]

theorem sshiftRight_eq_ofInt (a : Word) (n : Nat) : a.sshiftRight n = BitVec.ofInt 64 (a.toInt / 2 ^ n) := by
  rw [BitVec.sshiftRight, Int.shiftRight_eq_div_pow, Nat.cast_pow, Nat.cast_ofNat]

/-- A word is the one whose signed value it has. -/
theorem eq_ofInt_of_toInt {a : Word} {x : Int} (h : a.toInt = x.bmod (2 ^ 64)) : a = BitVec.ofInt 64 x := by
  rw [← BitVec.toInt_inj, h, BitVec.toInt_ofInt]

theorem sdiv_eq_ofInt (a b : Word) : a.sdiv b = BitVec.ofInt 64 (a.toInt.tdiv b.toInt) :=
  eq_ofInt_of_toInt (BitVec.toInt_sdiv a b)

theorem srem_eq_ofInt (a b : Word) : a.srem b = BitVec.ofInt 64 (a.toInt.tmod b.toInt) := by
  rw [← BitVec.toInt_srem, BitVec.ofInt_toInt]

theorem eq_zero_iff_toNat (b : Word) : b = 0 ↔ b.toNat = 0 := BitVec.toNat_eq

theorem boolWord_slt (a b : Word) : boolWord (a.slt b) = if a.toInt < b.toInt then 1 else 0 := by
  simp only [boolWord, BitVec.slt_iff_toInt_lt]

theorem boolWord_ult (a b : Word) : boolWord (a.ult b) = if a.toNat < b.toNat then 1 else 0 := by
  simp only [boolWord, BitVec.ult_iff_toNat_lt]

theorem smin_eq (a b : Word) : smin a b = BitVec.ofInt 64 (min a.toInt b.toInt) := by
  simp only [smin, BitVec.slt_iff_toInt_lt]
  split
  next h => rw [Int.min_eq_right h.le, BitVec.ofInt_toInt]
  next h => rw [Int.min_eq_left (Int.not_lt.mp h), BitVec.ofInt_toInt]

theorem smax_eq (a b : Word) : smax a b = BitVec.ofInt 64 (max a.toInt b.toInt) := by
  simp only [smax, BitVec.slt_iff_toInt_lt]
  split
  next h => rw [Int.max_eq_right h.le, BitVec.ofInt_toInt]
  next h => rw [Int.max_eq_left (Int.not_lt.mp h), BitVec.ofInt_toInt]

theorem umin_eq (a b : Word) : umin a b = BitVec.ofNat 64 (min a.toNat b.toNat) := by
  simp only [umin, BitVec.ult_iff_toNat_lt]
  split
  next h => rw [Nat.min_eq_right h.le, BitVec.ofNat_toNat, BitVec.setWidth_eq]
  next h => rw [Nat.min_eq_left (Nat.not_lt.mp h), BitVec.ofNat_toNat, BitVec.setWidth_eq]

theorem umax_eq (a b : Word) : umax a b = BitVec.ofNat 64 (max a.toNat b.toNat) := by
  simp only [umax, BitVec.ult_iff_toNat_lt]
  split
  next h => rw [Nat.max_eq_right h.le, BitVec.ofNat_toNat, BitVec.setWidth_eq]
  next h => rw [Nat.max_eq_left (Nat.not_lt.mp h), BitVec.ofNat_toNat, BitVec.setWidth_eq]

theorem add_eq_ofNat (a b : Word) : a + b = BitVec.ofNat 64 (a.toNat + b.toNat) := by
  simp only [BitVec.ofNat_add, BitVec.ofNat_toNat, BitVec.setWidth_eq]

theorem mul_eq_ofNat (a b : Word) : a * b = BitVec.ofNat 64 (a.toNat * b.toNat) := by
  simp only [BitVec.ofNat_mul, BitVec.ofNat_toNat, BitVec.setWidth_eq]

theorem highHalf_eq (p : Int) : highHalf p = BitVec.ofInt 64 (p / 2 ^ 64) := rfl

theorem highHalf_natCast (n : Nat) : highHalf (n : Int) = BitVec.ofNat 64 (n / 2 ^ 64) := by
  rw [highHalf_eq, ← BitVec.ofInt_natCast]
  norm_cast

theorem divS_eq (a b : Word) :
    divS a b = if b.toNat = 0 then BitVec.allOnes 64 else BitVec.ofInt 64 (a.toInt.tdiv b.toInt) := by
  simp only [divS, eq_zero_iff_toNat, sdiv_eq_ofInt, allOnes64]

theorem divU_eq (a b : Word) :
    divU a b = if b.toNat = 0 then BitVec.allOnes 64 else BitVec.ofNat 64 (a.toNat / b.toNat) := by
  simp only [divU, eq_zero_iff_toNat, allOnes64, ← BitVec.udiv_def]
  rfl

theorem remS_eq (a b : Word) : remS a b = if b.toNat = 0 then a else BitVec.ofInt 64 (a.toInt.tmod b.toInt) := by
  simp only [remS, eq_zero_iff_toNat, srem_eq_ofInt]

theorem remU_eq (a b : Word) : remU a b = if b.toNat = 0 then a else BitVec.ofNat 64 (a.toNat % b.toNat) := by
  simp only [remU, eq_zero_iff_toNat, ← BitVec.umod_def]
  rfl

theorem add_eq_ofInt (a b : Word) : a + b = BitVec.ofInt 64 (a.toInt + b.toInt) := by
  rw [BitVec.ofInt_add, BitVec.ofInt_toInt, BitVec.ofInt_toInt]

/-! Extended immediates -/

theorem toInt_sx16 (imm : BitVec 16) : (imm.signExtend 64).toInt = imm.toInt :=
  BitVec.toInt_signExtend_of_le (by decide)

/-- A power of 2, as the number that a word holds. -/
theorem ofInt_two_pow (n : Nat) : BitVec.ofInt 64 (2 ^ n) = BitVec.twoPow 64 n := by
  apply BitVec.eq_of_toNat_eq
  rw [show (2 : Int) ^ n = ((2 ^ n : Nat) : Int) from (Nat.cast_pow 2 n).symm, BitVec.ofInt_natCast, BitVec.toNat_ofNat,
    BitVec.toNat_twoPow]

theorem shl_ofInt (i : Int) (n : Nat) : BitVec.ofInt 64 i <<< n = BitVec.ofInt 64 (i * 2 ^ n) := by
  rw [BitVec.shiftLeft_eq_mul_twoPow, BitVec.ofInt_mul, ofInt_two_pow]

theorem add_shiftLeft_eq_ofNat (a b : Word) (n : Nat) : a + b <<< n = BitVec.ofNat 64 (a.toNat + b.toNat * 2 ^ n) := by
  rw [shiftLeft_eq_ofNat, BitVec.ofNat_add, BitVec.ofNat_toNat, BitVec.setWidth_eq]

theorem sub_shiftLeft_eq_ofInt (a b : Word) (n : Nat) :
    a - b <<< n = BitVec.ofInt 64 ((a.toNat : Int) - b.toNat * 2 ^ n) := by
  simp only [Int.sub_eq_add_neg, BitVec.ofInt_add, BitVec.ofInt_neg, BitVec.ofInt_mul, BitVec.ofInt_natCast, ofInt_two_pow,
    BitVec.ofNat_toNat, BitVec.setWidth_eq, BitVec.sub_eq_add_neg, BitVec.shiftLeft_eq_mul_twoPow]

theorem zx_eq_ofNat (imm : BitVec 16) : imm.zeroExtend 64 = BitVec.ofNat 64 imm.toNat := (BitVec.ofNat_toNat 64 imm).symm

theorem add_sx_eq_ofInt (a : Word) (imm : BitVec 16) : a + imm.signExtend 64 = BitVec.ofInt 64 (a.toInt + imm.toInt) := by
  rw [add_eq_ofInt, toInt_sx16]

theorem slt_sx (a : Word) (imm : BitVec 16) :
    boolWord (a.slt (imm.signExtend 64)) = if a.toInt < imm.toInt then 1 else 0 := by
  rw [boolWord_slt, toInt_sx16]

theorem add_shl_sx (a : Word) {w : Nat} (x : BitVec w) (n : Nat) :
    a + x.signExtend 64 <<< n = BitVec.ofInt 64 (a.toInt + x.toInt * 2 ^ n) := by
  rw [BitVec.signExtend, shl_ofInt, BitVec.ofInt_add, BitVec.ofInt_toInt]

end Sys2Proof.Proofs
end

section
/-! PROOFS about the decoder: one-parcel words by their fields (R79, R83, R84), and the reserved fields of majors 0x03 to 0x21. -/

namespace Sys2Proof.Proofs

open Sys2Proof Sys2Proof.Machine

/-! The fields of a word of format A (R79) -/

section
variable {m f : Nat} {rd ra rb : SReg} (hf : f < 2048)
include hf

theorem major_wordA : wordA m rd ra rb f / pow2 26 = m := by
  have := rd.isLt
  have := ra.isLt
  have := rb.isLt
  simp only [wordA, pow2_eq]
  omega

theorem rD_wordA : rD (wordA m rd ra rb f) = rd := by
  apply BitVec.eq_of_toNat_eq
  have := rd.isLt
  have := ra.isLt
  have := rb.isLt
  simp only [rD, wordA, pow2_eq, BitVec.toNat_ofNat]
  omega

theorem rA_wordA : rA (wordA m rd ra rb f) = ra := by
  apply BitVec.eq_of_toNat_eq
  have := ra.isLt
  have := rb.isLt
  simp only [rA, wordA, pow2_eq, BitVec.toNat_ofNat]
  omega

theorem rB_wordA : rB (wordA m rd ra rb f) = rb := by
  apply BitVec.eq_of_toNat_eq
  have := rb.isLt
  simp only [rB, wordA, pow2_eq, BitVec.toNat_ofNat]
  omega

theorem func_wordA : func (wordA m rd ra rb f) = f := by
  simp only [func, wordA]
  omega

end

/-! The fields of a word of format I or B (R79) -/

section
variable {m n : Nat} {ra rb : SReg} (hn : n < 65536)
include hn

theorem major_wordI : wordI m ra rb n / pow2 26 = m := by
  have := ra.isLt
  have := rb.isLt
  simp only [wordI, pow2_eq]
  omega

theorem rD_wordI : rD (wordI m ra rb n) = ra := by
  apply BitVec.eq_of_toNat_eq
  have := ra.isLt
  have := rb.isLt
  simp only [rD, wordI, pow2_eq, BitVec.toNat_ofNat]
  omega

theorem rA_wordI : rA (wordI m ra rb n) = rb := by
  apply BitVec.eq_of_toNat_eq
  have := rb.isLt
  simp only [rA, wordI, pow2_eq, BitVec.toNat_ofNat]
  omega

theorem imm16n_wordI : imm16n (wordI m ra rb n) = n := by
  simp only [imm16n, wordI]
  omega

end

theorem imm16_wordI (m : Nat) (ra rb : SReg) (imm : BitVec 16) : imm16 (wordI m ra rb imm.toNat) = imm := by
  apply BitVec.eq_of_toNat_eq
  simp only [imm16, wordI, BitVec.toNat_ofNat]
  omega

/-! Decoding one parcel (R76, R84) -/

theorem decodeParcels_one {w : Nat} (hm : w / pow2 26 < 0x30) : decodeParcels [w] = checked (fields32 w) := by
  have h : majorOf w < 0x30 := (Nat.mod_le _ _).trans_lt hm
  simp only [decodeParcels, parcelCount, if_pos h, decode32]
  rfl

/-- A word of format A decodes as any word with its fields does. -/
theorem decode_wordA {m f : Nat} {rd ra rb : SReg} {r : Option Instr} (hm : m < 0x30) (hf : f < 2048)
    (h : ∀ w, w / pow2 26 = m → rD w = rd → rA w = ra → rB w = rb → func w = f → fields32 w = r) :
    decodeParcels [wordA m rd ra rb f] = checked r := by
  rw [decodeParcels_one (by rwa [major_wordA hf]),
    h _ (major_wordA hf) (rD_wordA hf) (rA_wordA hf) (rB_wordA hf) (func_wordA hf)]

/-- A word of format I decodes as any word with its fields does. -/
theorem decode_wordI {m : Nat} {ra rb : SReg} {imm : BitVec 16} {r : Option Instr} (hm : m < 0x30)
    (h : ∀ w, w / pow2 26 = m → rD w = ra → rA w = rb → imm16n w = imm.toNat → imm16 w = imm → fields32 w = r) :
    decodeParcels [wordI m ra rb imm.toNat] = checked r := by
  have hi := imm.isLt
  rw [decodeParcels_one (by rwa [major_wordI hi]),
    h _ (major_wordI hi) (rD_wordI hi) (rA_wordI hi) (imm16n_wordI hi) (imm16_wordI _ _ _ _)]

/-- The operand rules let a well-formed instruction pass. -/
theorem checked_some {i : Instr} (h : i.wf = true) : checked (some i) = .ok i := if_pos h

/-- By default the decoder's table answers for the fields, with every operand allowed. -/
theorem reads_wordA {m f : Nat} {rd ra rb : SReg} {i : Instr} (hf : f < 2048 := by decide)
    (h : ∀ w, w / pow2 26 = m → rD w = rd → rA w = ra → rB w = rb → func w = f → fields32 w = some i := by
      intros; simp [fields32, *])
    (hw : i.wf = true := by rfl) (hm : m < 0x30 := by decide) : Reads (wordA m rd ra rb f) i :=
  (decode_wordA hm hf h).trans (checked_some hw)

theorem noInstr_wordA {m f : Nat} {rd ra rb : SReg} (hf : f < 2048)
    (h : ∀ w, w / pow2 26 = m → rD w = rd → rA w = ra → rB w = rb → func w = f → fields32 w = none)
    (hm : m < 0x30 := by decide) : NoInstr (wordA m rd ra rb f) :=
  ⟨.unassigned, decode_wordA hm hf h⟩

theorem reads_wordI {m : Nat} {ra rb : SReg} {imm : BitVec 16} {i : Instr}
    (h : ∀ w, w / pow2 26 = m → rD w = ra → rA w = rb → imm16n w = imm.toNat → imm16 w = imm → fields32 w = some i := by
      intros; simp [fields32, *])
    (hw : i.wf = true := by rfl) (hm : m < 0x30 := by decide) : Reads (wordI m ra rb imm.toNat) i :=
  (decode_wordI hm h).trans (checked_some hw)

theorem noInstr_wordI {m : Nat} {ra rb : SReg} {imm : BitVec 16}
    (h : ∀ w, w / pow2 26 = m → rD w = ra → rA w = rb → imm16n w = imm.toNat → imm16 w = imm → fields32 w = none)
    (hm : m < 0x30 := by decide) : NoInstr (wordI m ra rb imm.toNat) :=
  ⟨.unassigned, decode_wordI hm h⟩

theorem reads_jump {m : Nat} {off : BitVec 26} {i : Instr}
    (h : ∀ w, w / pow2 26 = m → BitVec.ofNat 26 w = off → fields32 w = some i := by intros; simp [fields32, *])
    (hw : i.wf = true := by rfl) (hm : m < 0x30 := by decide) : Reads (m * 2 ^ 26 + off.toNat) i := by
  have ho := off.isLt
  have major : (m * 2 ^ 26 + off.toNat) / pow2 26 = m := by
    rw [pow2_eq]
    omega
  have field : BitVec.ofNat 26 (m * 2 ^ 26 + off.toNat) = off := by
    apply BitVec.eq_of_toNat_eq
    rw [BitVec.toNat_ofNat]
    omega
  rw [Reads, decodeParcels_one (by rwa [major]), h _ major field, checked_some hw]

/-! The majors with reserved fields or a field of their own width -/

/-- The shift of `addx` and `subx` is the low part of FUNC (R104). -/
theorem ofNat3_of_func {w f : Nat} {k : BitVec 3} (h : func w = f) (e : f % 8 = k.toNat) : BitVec.ofNat 3 w = k := by
  apply BitVec.eq_of_toNat_eq
  rw [BitVec.toNat_ofNat, ← e, ← h, func]
  omega

/-- RB of the one-operand forms is reserved in major 0x03 (R103). -/
theorem noInstr_unary {rd ra rb : SReg} {f : Nat} (h : ¬ rb = 0) (hf : f < 5 := by decide) :
    NoInstr (wordA 0x03 rd ra rb f) := by
  refine noInstr_wordA (by omega) fun w hm _ _ hb hw => ?_
  interval_cases f <;> simp only [fields32, hm, hw, hb, h, if_false]

theorem reads_addx (rd ra rb : SReg) (k : BitVec 3) : Reads (wordA 0x04 rd ra rb k.toNat) (.addx rd ra rb k) := by
  have hk := k.isLt
  refine reads_wordA (by omega) fun w hm hd ha hb hf => ?_
  simp [fields32, hm, hd, ha, hb, hf, hk, ofNat3_of_func hf (Nat.mod_eq_of_lt hk)]

theorem reads_subx (rd ra rb : SReg) (k : BitVec 3) : Reads (wordA 0x04 rd ra rb (8 + k.toNat)) (.subx rd ra rb k) := by
  have hk : 8 + k.toNat < 16 := by omega
  refine reads_wordA (by omega) fun w hm hd ha hb hf => ?_
  simp [fields32, hm, hd, ha, hb, hf, hk, ofNat3_of_func hf (k := k) (by omega)]

/-- Bits [10:4] of FUNC are reserved in major 0x04 (R104). -/
theorem noInstr_addx {rd ra rb : SReg} {f : Nat} (h16 : 16 ≤ f) (hf : f < 2 ^ 11) : NoInstr (wordA 0x04 rd ra rb f) := by
  have h8 : ¬ f < 8 := by omega
  have h16' : ¬ f < 16 := by omega
  exact noInstr_wordA hf fun w hm _ _ _ hw => by simp only [fields32, hm, hw, h8, h16', if_false]

/-- A shift's OP and amount are the two ends of its IMM16 (R106). -/
theorem reads_shift {rd ra : SReg} {n : Nat} {i : Instr} (op : Nat) (sh : BitVec 6) (e : n = 64 * op + sh.toNat)
    (h : ∀ w, w / pow2 26 = 0x0B → rD w = rd → rA w = ra → imm16n w / 64 = op → BitVec.ofNat 6 w = sh →
      fields32 w = some i := by intros; simp [fields32, *])
    (hw : i.wf = true := by rfl) (ho : op < 1024 := by decide) : Reads (wordI 0x0B rd ra n) i := by
  have hs := sh.isLt
  have hn : (BitVec.ofNat 16 n).toNat = n := Nat.mod_eq_of_lt (by omega)
  rw [← hn]
  refine reads_wordI (fun w hm hd ha hi _ => h w hm hd ha ?_ (BitVec.eq_of_toNat_eq ?_)) hw
  · omega
  · rw [BitVec.toNat_ofNat]
    rw [imm16n] at hi
    omega

/-- OP 3 and bits [13:6] of a shift's IMM16 are reserved (R106). -/
theorem noInstr_shift {rd ra : SReg} {imm : BitVec 16} (h : 3 * 2 ^ 14 ≤ imm.toNat ∨ ¬ imm.toNat / 2 ^ 6 % 2 ^ 8 = 0) :
    NoInstr (wordI 0x0B rd ra imm.toNat) := by
  refine noInstr_wordI fun w hm hd ha hi _ => ?_
  simp only [fields32, hm, hi]
  split
  · omega
  · omega
  · omega
  · rfl

/-- RA is reserved in `lui` and `auipc` (R107). -/
theorem noInstr_lui {rd ra : SReg} {imm : BitVec 16} (h : ¬ ra = 0) : NoInstr (wordI 0x0C rd ra imm.toNat) :=
  noInstr_wordI fun w hm _ ha _ _ => by simp only [fields32, hm, ha, h, if_false]

theorem noInstr_auipc {rd ra : SReg} {imm : BitVec 16} (h : ¬ ra = 0) : NoInstr (wordI 0x0D rd ra imm.toNat) :=
  noInstr_wordI fun w hm _ ha _ _ => by simp only [fields32, hm, ha, h, if_false]

/-- R140 wants RD and RA zero. -/
theorem noInstr_trap {rd ra : SReg} {imm : BitVec 16} (h : ¬ rd = 0 ∨ ¬ ra = 0) : NoInstr (wordI 0x21 rd ra imm.toNat) := by
  have h' : ¬ (rd = 0 ∧ ra = 0) := fun ⟨hd, ha⟩ => h.elim (absurd hd) (absurd ha)
  exact noInstr_wordI fun w hm hd ha _ _ => by simp only [fields32, hm, hd, ha, h', if_false]

end Sys2Proof.Proofs
end

section
/-! PROOFS about bit counts, reversals and rotations (R103). -/

namespace Sys2Proof.Proofs

open Sys2Proof Sys2Proof.Machine

/-! Bit counts (R103) -/

/-- The leading zeros of a `w`-bit number say how far below 2^w it is. -/
theorem clzNat_spec {w x : Nat} (h : x < 2 ^ w) :
    clzNat w x ≤ w ∧ x < 2 ^ (w - clzNat w x) ∧ (clzNat w x < w → 2 ^ (w - 1 - clzNat w x) ≤ x) := by
  unfold clzNat
  split
  next h0 => simp [h0]
  next h0 =>
    have hl : x.log2 < w := (Nat.log2_lt h0).mpr h
    have e : w - (w - 1 - x.log2) = x.log2 + 1 := by omega
    have e' : w - 1 - (w - 1 - x.log2) = x.log2 := by omega
    rw [e, e']
    exact ⟨by omega, Nat.lt_log2_self, fun _ => Nat.log2_self_le h0⟩

theorem ctzNat_spec (w x : Nat) :
    ctzNat w x ≤ w ∧ x % 2 ^ ctzNat w x = 0 ∧ (ctzNat w x < w → x.testBit (ctzNat w x) = true) := by
  induction w generalizing x with
  | zero => simp [ctzNat, Nat.mod_one]
  | succ w ih =>
    unfold ctzNat
    split
    next h => simp [Nat.mod_one, h]
    next h =>
      obtain ⟨hle, hmod, hbit⟩ := ih (x / 2)
      refine ⟨by omega, ?_, fun hlt => ?_⟩
      · rw [Nat.add_comm, Nat.pow_succ', Nat.mod_mul, hmod]
        omega
      · rw [Nat.add_comm, Nat.testBit_succ]
        exact hbit (by omega)

theorem popNat_eq (w x : Nat) : popNat w x = ((List.range w).filter (fun i => x.testBit i)).length := by
  induction w generalizing x with
  | zero => rfl
  | succ w ih =>
    rw [popNat, ih, List.range_succ_eq_map, List.filter_cons, List.filter_map, Nat.testBit_zero]
    obtain h | h := Nat.mod_two_eq_zero_or_one x
    · simp [h, Function.comp_def, Nat.testBit_succ]
    · simp [h, Function.comp_def, Nat.testBit_succ, Nat.add_comm]

/-! Reversals (R103) -/

/-- The number whose base-2^w digits, highest first, are `d 0` to `d (n - 1)`. -/
def digits (w : Nat) (d : Nat → Nat) (n : Nat) : Nat := (List.range n).foldl (fun acc i => 2 ^ w * acc + d i) 0

theorem digits_succ (w : Nat) (d : Nat → Nat) (n : Nat) : digits w d (n + 1) = 2 ^ w * digits w d n + d n := by
  simp [digits, List.range_succ]

/-- Bit `k` of digit `i`, counted from the highest. -/
theorem testBit_digits {w : Nat} {d : Nat → Nat} (hd : ∀ i, d i < 2 ^ w) {n i k : Nat} (hi : i < n) (hk : k < w) :
    (digits w d n).testBit (w * (n - 1 - i) + k) = (d i).testBit k := by
  induction n with
  | zero => omega
  | succ n ih =>
    rw [digits_succ, Nat.testBit_two_pow_mul_add _ (hd n)]
    obtain rfl | h : i = n ∨ i < n := by omega
    · simp [hk]
    · have e : w * (n - i) = w * (n - 1 - i) + w := by
        rw [← Nat.mul_succ]
        congr 1
        omega
      rw [Nat.add_sub_cancel, e, if_neg (by omega), ← ih h]
      congr 1
      omega

theorem bitReverse_eq (a : Word) : bitReverse a = wordOf (digits 1 (fun i => if a.getLsbD i then 1 else 0) 64) := rfl

theorem byteReverse_eq (a : Word) : byteReverse a = wordOf (digits 8 (fun i => a.toNat / pow2 (8 * i) % 256) 8) := rfl

theorem getLsbD_bitReverse (a : Word) {i : Nat} (h : i < 64) : (bitReverse a).getLsbD (63 - i) = a.getLsbD i := by
  have hd : ∀ i, (if a.getLsbD i then 1 else 0) < 2 ^ 1 := fun i => by split <;> decide
  have hb := testBit_digits hd h Nat.zero_lt_one
  rw [Nat.one_mul, Nat.add_zero] at hb
  rw [bitReverse_eq, wordOf, BitVec.getLsbD_ofNat, hb]
  have h1 : 63 - i < 64 := by omega
  cases a.getLsbD i <;> simp [h1]

theorem getLsbD_byteReverse (a : Word) {i : Nat} (h : i < 64) :
    (byteReverse a).getLsbD (8 * (7 - i / 8) + i % 8) = a.getLsbD i := by
  have hd : ∀ i, a.toNat / pow2 (8 * i) % 256 < 2 ^ 8 := fun i => Nat.mod_lt _ (by decide)
  have hb := testBit_digits hd (n := 8) (i := i / 8) (k := i % 8) (by omega) (by omega)
  rw [byteReverse_eq, wordOf, BitVec.getLsbD_ofNat, hb, show 256 = 2 ^ 8 from rfl, Nat.testBit_mod_two_pow, pow2_eq,
    Nat.testBit_div_two_pow, Nat.mod_add_div, BitVec.testBit_toNat]
  have h1 : 8 * (7 - i / 8) + i % 8 < 64 := by omega
  simp [h1, Nat.mod_lt]

/-! Rotations (R103) -/

theorem getLsbD_rotl (a b : Word) {i : Nat} (h : i < 64) :
    (a.rotateLeft (shamt b)).getLsbD ((i + b.toNat) % 64) = a.getLsbD i := by
  have hs : shamt b % 64 = b.toNat % 64 := Nat.mod_mod _ _
  rw [BitVec.getLsbD_rotateLeft, hs]
  by_cases c : (i + b.toNat) % 64 < b.toNat % 64
  · simp only [c, decide_true, cond_true]
    congr 1
    omega
  · have e : (i + b.toNat) % 64 - b.toNat % 64 = i := by omega
    simp [c, e, Nat.mod_lt]

theorem getLsbD_rotr (a b : Word) {i : Nat} (h : i < 64) :
    (a.rotateRight (shamt b)).getLsbD i = a.getLsbD ((i + b.toNat) % 64) := by
  have hs : shamt b % 64 = b.toNat % 64 := Nat.mod_mod _ _
  rw [BitVec.getLsbD_rotateRight, hs]
  by_cases c : i < 64 - b.toNat % 64
  · simp only [c, decide_true, cond_true]
    congr 1
    omega
  · simp only [c, h, decide_false, decide_true, cond_false, Bool.true_and]
    congr 1
    omega

end Sys2Proof.Proofs
end

section
/-! PROOFS of the scalar statements: integer operations, branches, jumps and `trap`. -/

namespace Sys2Proof.Proofs

open Sys2Proof Sys2Proof.Machine

/-! Completion of the register forms -/

theorem puts_of_eq {i : Instr} {s : State} {rd : SReg} {v w : Word} (e : v = w) (h : exec i s = putS s rd v) :
    Puts i s rd w :=
  e ▸ puts_of_putS h

/-- Settles O1: each row is its word's decoding and the value that the register form puts. -/
theorem integerOps : Obligations.IntegerOps := by
  intro s rd ra rb
  exact ⟨⟨reads_wordA, puts_of_eq (add_eq_ofNat _ _) rfl⟩, ⟨reads_wordA, puts_of_eq (sub_eq_ofInt _ _) rfl⟩,
    ⟨reads_wordA, puts_of_putS rfl⟩, ⟨reads_wordA, puts_of_putS rfl⟩, ⟨reads_wordA, puts_of_putS rfl⟩,
    ⟨reads_wordA, puts_of_eq (shiftLeft_eq_ofNat _ _) rfl⟩, ⟨reads_wordA, puts_of_eq (shiftRight_eq_ofNat _ _) rfl⟩,
    ⟨reads_wordA, puts_of_eq (sshiftRight_eq_ofInt _ _) rfl⟩, ⟨reads_wordA, puts_of_eq (boolWord_slt _ _) rfl⟩,
    ⟨reads_wordA, puts_of_eq (boolWord_ult _ _) rfl⟩, ⟨reads_wordA, puts_of_eq (smin_eq _ _) rfl⟩,
    ⟨reads_wordA, puts_of_eq (smax_eq _ _) rfl⟩, ⟨reads_wordA, puts_of_eq (umin_eq _ _) rfl⟩,
    ⟨reads_wordA, puts_of_eq (umax_eq _ _) rfl⟩, ⟨reads_wordA, puts_of_eq (mul_eq_ofNat _ _) rfl⟩,
    ⟨reads_wordA, puts_of_eq (highHalf_eq _) rfl⟩, ⟨reads_wordA, puts_of_eq (highHalf_natCast _) rfl⟩,
    ⟨reads_wordA, puts_of_eq (highHalf_eq _) rfl⟩, ⟨reads_wordA, puts_of_eq (divS_eq _ _) rfl⟩,
    ⟨reads_wordA, puts_of_eq (divU_eq _ _) rfl⟩, ⟨reads_wordA, puts_of_eq (remS_eq _ _) rfl⟩,
    ⟨reads_wordA, puts_of_eq (remU_eq _ _) rfl⟩⟩

/-- Settles O2: the counts by what they say of the bits, the moves and rotations bit by bit. -/
theorem bitsAndAddresses : Obligations.BitsAndAddresses := by
  intro s rd ra rb k
  refine ⟨⟨reads_wordA, noInstr_unary⟩, ?clz, ⟨reads_wordA, noInstr_unary⟩, ?ctz,
    ⟨reads_wordA, noInstr_unary⟩, puts_of_eq ?popc rfl,
    ⟨reads_wordA, noInstr_unary⟩, ⟨_, puts_of_putS rfl, fun i => getLsbD_bitReverse _⟩,
    ⟨reads_wordA, noInstr_unary⟩, ⟨_, puts_of_putS rfl, fun i => getLsbD_byteReverse _⟩,
    reads_wordA, ⟨_, puts_of_putS rfl, fun i => getLsbD_rotl _ _⟩,
    reads_wordA, ⟨_, puts_of_putS rfl, fun i => getLsbD_rotr _ _⟩,
    reads_addx rd ra rb k, reads_subx rd ra rb k, fun f => noInstr_addx,
    puts_of_eq (add_shiftLeft_eq_ofNat _ _ _) rfl, puts_of_eq (sub_shiftLeft_eq_ofInt _ _ _) rfl⟩
  case clz => exact ⟨clzNat 64 (s.rS ra).toNat, puts_of_putS rfl, clzNat_spec (s.rS ra).isLt⟩
  case ctz => exact ⟨ctzNat 64 (s.rS ra).toNat, puts_of_putS rfl, ctzNat_spec 64 (s.rS ra).toNat⟩
  case popc => exact congrArg (BitVec.ofNat 64) (popNat_eq 64 (s.rS ra).toNat)

/-- Settles O3: the immediate forms are register forms with an extended immediate. -/
theorem immediateOps : Obligations.ImmediateOps := by
  intro s rd ra imm sh
  exact ⟨reads_wordI, puts_of_eq (add_sx_eq_ofInt _ imm) rfl,
    reads_wordI, puts_of_putS rfl,
    reads_wordI, puts_of_eq (congrArg _ (zx_eq_ofNat imm)) rfl,
    reads_wordI, puts_of_eq (congrArg _ (zx_eq_ofNat imm)) rfl,
    reads_wordI, puts_of_eq (slt_sx _ imm) rfl,
    reads_wordI, puts_of_eq (boolWord_ult _ _) rfl,
    reads_shift 0 sh (by omega), puts_of_eq (shiftLeft_eq_ofNat _ _) rfl,
    reads_shift 256 sh (by omega), puts_of_eq (shiftRight_eq_ofNat _ _) rfl,
    reads_shift 512 sh (by omega), puts_of_eq (sshiftRight_eq_ofInt _ _) rfl,
    noInstr_shift, fun h => ⟨noInstr_lui h, noInstr_auipc h⟩,
    reads_wordI, puts_of_eq (shl_ofInt _ _) rfl,
    reads_wordI, puts_of_eq (add_shl_sx _ _ _) rfl⟩

/-! Branches and jumps (R108, R109) -/

/-- An offset in parcels from the pc. -/
theorem add_parcels_eq_ofInt (pc : Word) {w : Nat} (off : BitVec w) :
    pc + off.signExtend 64 <<< 2 = BitVec.ofInt 64 (pc.toInt + 4 * off.toInt) := by
  rw [add_shl_sx, Int.mul_comm]
  rfl

theorem jumps_of_branch {i : Instr} {s : State} {off : BitVec 16} {taken : Bool} {c : Prop} {_ : Decidable c}
    (e : taken = true ↔ c)
    (h : exec i s = .next (if taken then s.setPc (s.hart.pc + branchOff off) else s.adv 4)) :
    Jumps i s (if c then BitVec.ofInt 64 (s.hart.pc.toInt + 4 * off.toInt) else s.hart.pc + 4) := by
  apply jumps_of_setPc
  rw [h, ← add_parcels_eq_ofInt, adv_eq_setPc]
  simp only [e]
  split
  · rfl
  · rfl

theorem not_decide_iff {c : Prop} [Decidable c] : (!decide c) = true ↔ ¬ c := by
  rw [Bool.not_eq_true', decide_eq_false_iff_not]

theorem not_slt_iff (a b : Word) : (!a.slt b) = true ↔ b.toInt ≤ a.toInt := by
  rw [Bool.not_eq_true', ← Bool.not_eq_true, BitVec.slt_iff_toInt_lt, Int.not_lt]

theorem not_ult_iff (a b : Word) : (!a.ult b) = true ↔ b.toNat ≤ a.toNat := by
  rw [Bool.not_eq_true', ← Bool.not_eq_true, BitVec.ult_iff_toNat_lt, Nat.not_lt]

theorem exec_j (off : BitVec 26) (s : State) :
    exec (.j off) s = .next (s.setPc (BitVec.ofInt 64 (s.hart.pc.toInt + 4 * off.toInt))) := by
  rw [← add_parcels_eq_ofInt]
  rfl

/-! Links (R109, R110) -/

/-- A jump that links writes one scalar register and the pc, and leaves the rest. -/
theorem link_spec (s : State) (rd : SReg) (v pc : Word) :
    ((s.wS rd v).setPc pc).hart.pc = pc ∧ ScalarIs s ((s.wS rd v).setPc pc) rd v ∧ OnlyScalars s ((s.wS rd v).setPc pc) := by
  have e : (s.wS rd v).setPc pc = s.putHart { s.hart.wS rd v with pc := pc } := by
    simp [State.setPc, State.wS]
  rw [e]
  refine ⟨by rw [hart_putHart], fun r => ?_, onlyHart_putHart _ _ ?_ ?_, ?_⟩
  · rw [State.rS, hart_putHart]
    have h : Hart.rS { s.hart.wS rd v with pc := pc } r = (s.hart.wS rd v).rS r := rfl
    rw [h, Hart.rS_wS]
    by_cases c : r = rd
    · subst c; rfl
    · simp [c, State.rS]
  · rw [Hart.wS_eq]
  · rw [Hart.wS_eq]
  · rw [hart_putHart, Hart.wS_eq]

theorem exec_jal (off : BitVec 26) (s : State) :
    exec (.jal off) s = .next ((s.wS 31 (s.hart.pc + 4)).setPc (BitVec.ofInt 64 (s.hart.pc.toInt + 4 * off.toInt))) := by
  rw [← add_parcels_eq_ofInt]
  rfl

section
variable {s : State} {ra : SReg} {imm : BitVec 16} (rd : SReg)

theorem exec_jalr (h : (BitVec.ofInt 64 ((s.rS ra).toInt + imm.toInt)).toNat % 4 = 0) :
    exec (.jalr rd ra imm) s
      = .next ((s.wS rd (s.hart.pc + 4)).setPc (BitVec.ofInt 64 ((s.rS ra).toInt + imm.toInt))) := by
  change execJalr rd ra imm s = _
  simp only [execJalr, add_sx_eq_ofInt, h, decide_true, need_true, ok_bind, finish_ok]

theorem exec_jalr_misaligned (h : ¬ (BitVec.ofInt 64 ((s.rS ra).toInt + imm.toInt)).toNat % 4 = 0) :
    exec (.jalr rd ra imm) s = .next (takeTrap s (tMisalign (BitVec.ofInt 64 ((s.rS ra).toInt + imm.toInt)))) := by
  change execJalr rd ra imm s = _
  simp only [execJalr, add_sx_eq_ofInt, h, decide_false, need_false, error_bind, finish_trap]

end

/-- Settles O4: a branch moves the pc alone, a link writes one register beside it. -/
theorem controlTransfers : Obligations.ControlTransfers := by
  refine ⟨fun s ra rb off => ?branches, fun s rd ra imm off => ?jumps⟩
  case branches =>
    exact ⟨reads_wordI, jumps_of_branch decide_eq_true_iff rfl, reads_wordI, jumps_of_branch not_decide_iff rfl,
      reads_wordI, jumps_of_branch BitVec.slt_iff_toInt_lt rfl, reads_wordI, jumps_of_branch (not_slt_iff _ _) rfl,
      reads_wordI, jumps_of_branch BitVec.ult_iff_toNat_lt rfl, reads_wordI, jumps_of_branch (not_ult_iff _ _) rfl⟩
  case jumps =>
    exact ⟨reads_jump, jumps_of_setPc (exec_j off s), reads_jump, reads_wordI, ⟨_, exec_jal off s, link_spec _ _ _ _⟩,
      fun h => ⟨_, exec_jalr rd h, link_spec _ _ _ _⟩, exec_jalr_misaligned rd⟩

/-! Traps (R40 to R42, R84, R140, R305) -/

/-- Entry to a handler moves the hart to another place of its program, not to another run state or grant. -/
theorem enter_run (x : Hart) (int : Bool) (code sub : Nat) (val : Word) (l : Level) :
    (x.enter int code sub val l).run = x.run := by
  cases l <;> rfl

theorem enter_grant (x : Hart) (int : Bool) (code sub : Nat) (val : Word) (l : Level) :
    (x.enter int code sub val l).grant = x.grant := by
  cases l <;> rfl

/-- R41: no synchronous trap goes to U. -/
theorem syncLevel_ne_u (x : Hart) (code : Nat) : syncLevel x code ≠ .u := by
  unfold syncLevel
  split
  · decide
  · split <;> decide
  · decide

theorem takeTrap_eq_enter {s : State} (t : TrapInfo) (h : ¬ (s.hart.level = .m ∧ s.hart.stat.mnest = true)) :
    takeTrap s t = s.putHart (({ s.hart with hold := .none, stopAt := none } : Hart).enter false t.code t.sub t.val
      (syncLevel s.hart t.code)) := by
  unfold takeTrap
  exact if_neg h

/-- A trap that does not halt the hart enters the handler of the level of R41. -/
theorem takeTrap_trapTaken {s : State} (t : TrapInfo) (h : ¬ (s.hart.level = .m ∧ s.hart.stat.mnest = true)) :
    TrapTaken s (takeTrap s t) t.code t.sub t.val := by
  rw [takeTrap_eq_enter t h]
  refine ⟨onlyHart_putHart _ _ (enter_run ..) (enter_grant ..), ?_⟩
  rw [hart_putHart]
  cases hl : syncLevel s.hart t.code with
  | u => exact absurd hl (syncLevel_ne_u _ _)
  | s => rfl
  | m => rfl

theorem haltHart_cur (s : State) (h : Nat) : (haltHart s h).cur = s.cur := by
  unfold haltHart
  split <;> rfl

theorem haltHart_pkg (s : State) (h : Nat) : (haltHart s h).pkg = s.pkg := by
  unfold haltHart
  split <;> rfl

theorem haltHart_run (s : State) (h : Nat) : ((haltHart s h).hartAt h).run = .halted := by
  simp only [haltHart, hartAt_setHart_same]

theorem takeTrap_eq_halt {s : State} (t : TrapInfo) (h : s.hart.level = .m ∧ s.hart.stat.mnest = true) :
    takeTrap s t = { haltHart s s.cur with
      pkg := { (haltHart s s.cur).pkg with nargen := (haltHart s s.cur).pkg.nargen ++ [(haltHart s s.cur).cur] } } := by
  unfold takeTrap
  exact if_pos h

/-- At M with MNEST set a trap halts the hart and Nargen is told (R41). -/
theorem takeTrap_halts {s : State} (t : TrapInfo) (h : s.hart.level = .m ∧ s.hart.stat.mnest = true) :
    (takeTrap s t).hart.run = .halted ∧ (takeTrap s t).pkg.nargen = s.pkg.nargen ++ [s.cur] := by
  rw [takeTrap_eq_halt t h]
  constructor
  · change ((haltHart s s.cur).hartAt (haltHart s s.cur).cur).run = _
    rw [haltHart_cur, haltHart_run]
  · rw [haltHart_pkg, haltHart_cur]

theorem exec_trap (imm : BitVec 16) (s : State) :
    exec (.trap imm) s = .next (takeTrap (s.setPc (s.hart.pc + 4)) (tTrap (levelCode s.hart.level) imm.toNat)) := rfl

theorem exec_illegalEncoding (why : BadFetch) (s : State) :
    exec (.illegalEncoding why) s = .next (takeTrap s (badFetchTrap why)) := rfl

/-- Settles O12: the trap is taken with the pc already after the instruction. -/
theorem trapsRaised : Obligations.TrapsRaised := by
  refine ⟨fun s imm rd ra => ⟨reads_wordI, noInstr_trap, _, exec_trap imm s, ?halts, ?enters⟩, fun s w sub line => ?fetch⟩
  case halts =>
    intro hm hn
    exact takeTrap_halts _ (by rw [hart_setPc]; exact ⟨hm, hn⟩)
  case enters =>
    intro h
    apply takeTrap_trapTaken
    rwa [hart_setPc]
  case fetch => exact ⟨exec_illegalEncoding _ s, exec_illegalEncoding _ s, exec_illegalEncoding _ s⟩

end Sys2Proof.Proofs
end
